-- ==== Sys2Proof/Word.lean ====
section
/-! DEFINITION. The word types of R3 and their plainest readings: a byte, a half-word, a word, a double word. -/

namespace Sys2Proof

/-- A byte (R3). -/
abbrev Byte := BitVec 8

/-- A half-word (R3). -/
abbrev Half := BitVec 16

/-- A word of 32 bits (R3): an instruction word, a per-thread register. -/
abbrev Word := BitVec 32

/-- A double word (R3): a uniform register, a latch, an address. -/
abbrev DWord := BitVec 64

end Sys2Proof
end

