-- ==== Sys2Proof/Syntax.lean ====
section
/-! DEFINITION. The instructions and device operations of the Limgil 960: one constructor for each row of the
opcode table. A word of LNI carries its operand fields as raw bits (formats of R137); an operation of the device or
of the host carries the unit it concerns and, for a host write, the value written. The operations of
the device come first: the runtime gives objects no constructor tag above 244, so the decoder, which builds the words
above that tag, is noncomputable; the kernel evaluates it. -/

namespace Sys2Proof

/-- One constructor per row of the opcode table. -/
inductive Instr where
  /-- R25: register write -/
  | registerWrite (off : Nat) (size : Nat) (value : BitVec 64)
  /-- R25: aperture read -/
  | apertureRead (x : Nat) (size : Nat)
  /-- R25: aperture write -/
  | apertureWrite (x : Nat) (size : Nat) (value : BitVec 64)
  /-- R26: clkceil write -/
  | clkceilWrite (die : Nat) (value : BitVec 32)
  /-- R28: evmask clear -/
  | evmaskClear (value : BitVec 32)
  /-- R28: msix delayed interrupt -/
  | msixDelayedInterrupt
  /-- R96: qtail doorbell -/
  | qtailDoorbell (die : Nat) (q : Nat) (value : BitVec 32)
  /-- R98: abort -/
  | abort (die : Nat) (q : Nat)
  /-- R105: poke -/
  | poke (die : Nat) (q : Nat)
  /-- R96: queue enable -/
  | queueEnable (die : Nat) (q : Nat) (value : BitVec 32)
  /-- R97: queue entry take -/
  | queueEntryTake (die : Nat) (q : Nat)
  /-- R105: dependence poll -/
  | dependencePoll (gid : Nat)
  /-- R103: cluster reservation -/
  | clusterReservation (gid : Nat)
  /-- R102: block place -/
  | blockPlace (core : Nat)
  /-- R118: cluster place -/
  | clusterPlace (die : Nat)
  /-- R101: local card check -/
  | localCardCheck (core : Nat)
  /-- R274: load complete -/
  | loadComplete (grp : Nat) (n : Nat)
  /-- R277: write complete -/
  | writeComplete (grp : Nat)
  /-- R391: atomic complete -/
  | atomicComplete (grp : Nat) (n : Nat)
  /-- R128: translation walk, for an access of a core to an address of a space -/
  | translationWalk (asid : BitVec 6) (miss : Nat × BitVec 64)
  /-- R130: invgo -/
  | invgo (asid : Nat) (value : BitVec 32)
  /-- R130: invalidation complete -/
  | invalidationComplete (asid : Nat)
  /-- R131: placer epoch -/
  | placerEpoch
  /-- R132: page move -/
  | pageMove
  /-- R285: sync command start -/
  | syncCommandStart (blk : Nat)
  /-- R269: tile fill landed -/
  | tileFillLanded (blk : Nat) (tile : Nat)
  /-- R269: tile drain done -/
  | tileDrainDone (blk : Nat) (tile : Nat)
  /-- R286: copy command complete -/
  | copyCommandComplete (blk : Nat)
  /-- R288: copy fault -/
  | copyFault (blk : Nat)
  /-- R306: mma complete -/
  | mmaComplete (grp : Nat)
  /-- R312: mmat start -/
  | mmatStart (blk : Nat)
  /-- R313: mmat complete -/
  | mmatComplete (blk : Nat)
  /-- R357: bank command execute -/
  | bankCommandExecute (bank : Nat)
  /-- R334: sideboard fold -/
  | sideboardFold (gid : Nat) (cluster : Nat)
  /-- R327: slab chunk move -/
  | slabChunkMove (n : Nat)
  /-- R330: slab move retry -/
  | slabMoveRetry (n : Nat)
  /-- R182: join pass -/
  | joinPass (grp : Nat)
  /-- R184: join deadlock detect -/
  | joinDeadlockDetect (grp : Nat)
  /-- R179: allocation deadlock -/
  | allocationDeadlock (core : Nat)
  /-- R399: barrier phase complete -/
  | barrierPhaseComplete (blk : Nat) (clusterScope : Bool) (bar : Nat)
  /-- R176: uget combine -/
  | ugetCombine (blk : Nat)
  /-- R235: post act -/
  | postAct (blk : Nat)
  /-- R52: trap ack poll -/
  | trapAckPoll (n : Nat)
  /-- R416: handler start -/
  | handlerStart (core : Nat)
  /-- R415: tract resume -/
  | tractResume (die : Nat)
  /-- R415: tract kill group -/
  | tractKillGroup (die : Nat)
  /-- R415: tract kill grid -/
  | tractKillGrid (die : Nat)
  /-- R424: preempt requeue -/
  | preemptRequeue
  /-- R424: preempt hold -/
  | preemptHold
  /-- R436: cut -/
  | cut
  /-- R424: release held -/
  | releaseHeld
  /-- R424: resume from cut -/
  | resumeFromCut
  /-- R426: preempt deadline -/
  | preemptDeadline (gid : Nat)
  /-- R426: preempt restart deadline -/
  | preemptRestartDeadline (gid : Nat)
  /-- R427: save image write -/
  | saveImageWrite (blk : Nat)
  /-- R435: restore -/
  | restore (n : Nat)
  /-- R437: cut reduction -/
  | cutReduction (gid : Nat)
  /-- R437: cut complete -/
  | cutComplete (gid : Nat)
  /-- R438: cut deadline -/
  | cutDeadline (gid : Nat)
  /-- R440: migration place -/
  | migrationPlace (n : Nat)
  /-- R442: migration deadline -/
  | migrationDeadline (blk : Nat)
  /-- R451: block complete -/
  | blockComplete (blk : Nat)
  /-- R107: grid complete -/
  | gridComplete (gid : Nat)
  /-- R350: nbown write -/
  | nbownWrite (pc : Nat) (value : BitVec 32)
  /-- R33: governor interval -/
  | governorInterval (watts : Nat)
  /-- R34: supply overpower -/
  | supplyOverpower (watts : Nat)
  /-- R457: watchdog fire -/
  | watchdogFire (die : Nat) (unit : Nat) (core : Nat)
  /-- R458: die reset -/
  | dieReset (die : Nat)
  /-- R458: self test end -/
  | selfTestEnd (die : Nat) (failed : BitVec 40) (badUnit : Option Nat)
  /-- R460: mogo -/
  | mogo (stack : Nat)
  /-- R461: mapout frame copy -/
  | mapoutFrameCopy (stack : Nat)
  /-- R465: scrubctl write -/
  | scrubctlWrite (value : BitVec 32)
  /-- R462: patrol scrub -/
  | patrolScrub
  /-- R463: hot row scrub -/
  | hotRowScrub
  /-- R464: score halving -/
  | scoreHalving
  /-- R464: row retire -/
  | rowRetire
  /-- R466: refresh management -/
  | refreshManagement
  /-- R466: phy calibration -/
  | phyCalibration
  /-- R466: telemetry sample -/
  | telemetrySample (die : Nat) (tj : BitVec 8)
  /-- R470: device reset -/
  | deviceReset
  /-- R470: bring up start -/
  | bringUpStart (dies : List (Nat × BitVec 40 × Option Nat))
  /-- R472: full service -/
  | fullService (trained : BitVec 12) (dies : List (Nat × BitVec 40 × Option Nat))
  /-- R474: attest sign -/
  | attestSign
  /-- R474: attest sign done -/
  | attestSignDone
  /-- R149: illegal instruction word -/
  | illegalInstructionWord (word : BitVec 32)
  /-- R135: fetch fault -/
  | fetchFault
  /-- R208 -/
  | mov (d : BitVec 7) (w : BitVec 1) (a : BitVec 8)
  /-- R208 -/
  | not (d : BitVec 7) (w : BitVec 1) (a : BitVec 8)
  /-- R208 -/
  | neg (d : BitVec 7) (w : BitVec 1) (a : BitVec 8)
  /-- R208 -/
  | abs (d : BitVec 7) (w : BitVec 1) (a : BitVec 8)
  /-- R208 -/
  | popc (d : BitVec 7) (w : BitVec 1) (a : BitVec 8)
  /-- R208 -/
  | clz (d : BitVec 7) (w : BitVec 1) (a : BitVec 8)
  /-- R208 -/
  | brev (d : BitVec 7) (w : BitVec 1) (a : BitVec 8)
  /-- R208 -/
  | sxtI8 (d : BitVec 7) (w : BitVec 1) (a : BitVec 8)
  /-- R208 -/
  | sxtI16 (d : BitVec 7) (w : BitVec 1) (a : BitVec 8)
  /-- R208 -/
  | zxtN8 (d : BitVec 7) (w : BitVec 1) (a : BitVec 8)
  /-- R208 -/
  | zxtN16 (d : BitVec 7) (w : BitVec 1) (a : BitVec 8)
  /-- R208 -/
  | sxtI64 (d : BitVec 7) (w : BitVec 1) (a : BitVec 8)
  /-- R208 -/
  | zxtN64 (d : BitVec 7) (w : BitVec 1) (a : BitVec 8)
  /-- R208 -/
  | mov64 (d : BitVec 7) (w : BitVec 1) (a : BitVec 8)
  /-- R205 -/
  | addI32 (d : BitVec 7) (w : BitVec 1) (a : BitVec 8) (b : BitVec 8)
  /-- R205 -/
  | addI32Imm (d : BitVec 7) (w : BitVec 1) (a : BitVec 8) (i : BitVec 8)
  /-- R205 -/
  | subI32 (d : BitVec 7) (w : BitVec 1) (a : BitVec 8) (b : BitVec 8)
  /-- R205 -/
  | subI32Imm (d : BitVec 7) (w : BitVec 1) (a : BitVec 8) (i : BitVec 8)
  /-- R205 -/
  | addSatI32 (d : BitVec 7) (w : BitVec 1) (a : BitVec 8) (b : BitVec 8)
  /-- R205 -/
  | addSatI32Imm (d : BitVec 7) (w : BitVec 1) (a : BitVec 8) (i : BitVec 8)
  /-- R205 -/
  | addSatN32 (d : BitVec 7) (w : BitVec 1) (a : BitVec 8) (b : BitVec 8)
  /-- R205 -/
  | addSatN32Imm (d : BitVec 7) (w : BitVec 1) (a : BitVec 8) (i : BitVec 8)
  /-- R205 -/
  | subSatI32 (d : BitVec 7) (w : BitVec 1) (a : BitVec 8) (b : BitVec 8)
  /-- R205 -/
  | subSatI32Imm (d : BitVec 7) (w : BitVec 1) (a : BitVec 8) (i : BitVec 8)
  /-- R205 -/
  | subSatN32 (d : BitVec 7) (w : BitVec 1) (a : BitVec 8) (b : BitVec 8)
  /-- R205 -/
  | subSatN32Imm (d : BitVec 7) (w : BitVec 1) (a : BitVec 8) (i : BitVec 8)
  /-- R205 -/
  | mulI32 (d : BitVec 7) (w : BitVec 1) (a : BitVec 8) (b : BitVec 8)
  /-- R205 -/
  | mulI32Imm (d : BitVec 7) (w : BitVec 1) (a : BitVec 8) (i : BitVec 8)
  /-- R205 -/
  | mulSatI32 (d : BitVec 7) (w : BitVec 1) (a : BitVec 8) (b : BitVec 8)
  /-- R205 -/
  | mulSatI32Imm (d : BitVec 7) (w : BitVec 1) (a : BitVec 8) (i : BitVec 8)
  /-- R205 -/
  | mulSatN32 (d : BitVec 7) (w : BitVec 1) (a : BitVec 8) (b : BitVec 8)
  /-- R205 -/
  | mulSatN32Imm (d : BitVec 7) (w : BitVec 1) (a : BitVec 8) (i : BitVec 8)
  /-- R205 -/
  | mulhiI32 (d : BitVec 7) (w : BitVec 1) (a : BitVec 8) (b : BitVec 8)
  /-- R205 -/
  | mulhiI32Imm (d : BitVec 7) (w : BitVec 1) (a : BitVec 8) (i : BitVec 8)
  /-- R205 -/
  | mulhiN32 (d : BitVec 7) (w : BitVec 1) (a : BitVec 8) (b : BitVec 8)
  /-- R205 -/
  | mulhiN32Imm (d : BitVec 7) (w : BitVec 1) (a : BitVec 8) (i : BitVec 8)
  /-- R205 -/
  | mulwI32 (d : BitVec 7) (w : BitVec 1) (a : BitVec 8) (b : BitVec 8)
  /-- R205 -/
  | mulwI32Imm (d : BitVec 7) (w : BitVec 1) (a : BitVec 8) (i : BitVec 8)
  /-- R205 -/
  | mulwN32 (d : BitVec 7) (w : BitVec 1) (a : BitVec 8) (b : BitVec 8)
  /-- R205 -/
  | mulwN32Imm (d : BitVec 7) (w : BitVec 1) (a : BitVec 8) (i : BitVec 8)
  /-- R205 -/
  | addI64 (d : BitVec 7) (w : BitVec 1) (a : BitVec 8) (b : BitVec 8)
  /-- R205 -/
  | addI64Imm (d : BitVec 7) (w : BitVec 1) (a : BitVec 8) (i : BitVec 8)
  /-- R205 -/
  | subI64 (d : BitVec 7) (w : BitVec 1) (a : BitVec 8) (b : BitVec 8)
  /-- R205 -/
  | subI64Imm (d : BitVec 7) (w : BitVec 1) (a : BitVec 8) (i : BitVec 8)
  /-- R206 -/
  | divI32 (d : BitVec 7) (w : BitVec 1) (a : BitVec 8) (b : BitVec 8)
  /-- R206 -/
  | divI32Imm (d : BitVec 7) (w : BitVec 1) (a : BitVec 8) (i : BitVec 8)
  /-- R206 -/
  | divN32 (d : BitVec 7) (w : BitVec 1) (a : BitVec 8) (b : BitVec 8)
  /-- R206 -/
  | divN32Imm (d : BitVec 7) (w : BitVec 1) (a : BitVec 8) (i : BitVec 8)
  /-- R206 -/
  | remI32 (d : BitVec 7) (w : BitVec 1) (a : BitVec 8) (b : BitVec 8)
  /-- R206 -/
  | remI32Imm (d : BitVec 7) (w : BitVec 1) (a : BitVec 8) (i : BitVec 8)
  /-- R206 -/
  | remN32 (d : BitVec 7) (w : BitVec 1) (a : BitVec 8) (b : BitVec 8)
  /-- R206 -/
  | remN32Imm (d : BitVec 7) (w : BitVec 1) (a : BitVec 8) (i : BitVec 8)
  /-- R205 -/
  | minI32 (d : BitVec 7) (w : BitVec 1) (a : BitVec 8) (b : BitVec 8)
  /-- R205 -/
  | minI32Imm (d : BitVec 7) (w : BitVec 1) (a : BitVec 8) (i : BitVec 8)
  /-- R205 -/
  | maxI32 (d : BitVec 7) (w : BitVec 1) (a : BitVec 8) (b : BitVec 8)
  /-- R205 -/
  | maxI32Imm (d : BitVec 7) (w : BitVec 1) (a : BitVec 8) (i : BitVec 8)
  /-- R205 -/
  | minN32 (d : BitVec 7) (w : BitVec 1) (a : BitVec 8) (b : BitVec 8)
  /-- R205 -/
  | minN32Imm (d : BitVec 7) (w : BitVec 1) (a : BitVec 8) (i : BitVec 8)
  /-- R205 -/
  | maxN32 (d : BitVec 7) (w : BitVec 1) (a : BitVec 8) (b : BitVec 8)
  /-- R205 -/
  | maxN32Imm (d : BitVec 7) (w : BitVec 1) (a : BitVec 8) (i : BitVec 8)
  /-- R205 -/
  | and (d : BitVec 7) (w : BitVec 1) (a : BitVec 8) (b : BitVec 8)
  /-- R205 -/
  | andImm (d : BitVec 7) (w : BitVec 1) (a : BitVec 8) (i : BitVec 8)
  /-- R205 -/
  | or (d : BitVec 7) (w : BitVec 1) (a : BitVec 8) (b : BitVec 8)
  /-- R205 -/
  | orImm (d : BitVec 7) (w : BitVec 1) (a : BitVec 8) (i : BitVec 8)
  /-- R205 -/
  | xor (d : BitVec 7) (w : BitVec 1) (a : BitVec 8) (b : BitVec 8)
  /-- R205 -/
  | xorImm (d : BitVec 7) (w : BitVec 1) (a : BitVec 8) (i : BitVec 8)
  /-- R207 -/
  | shl (d : BitVec 7) (w : BitVec 1) (a : BitVec 8) (b : BitVec 8)
  /-- R207 -/
  | shlImm (d : BitVec 7) (w : BitVec 1) (a : BitVec 8) (i : BitVec 8)
  /-- R207 -/
  | shrN32 (d : BitVec 7) (w : BitVec 1) (a : BitVec 8) (b : BitVec 8)
  /-- R207 -/
  | shrN32Imm (d : BitVec 7) (w : BitVec 1) (a : BitVec 8) (i : BitVec 8)
  /-- R207 -/
  | shrI32 (d : BitVec 7) (w : BitVec 1) (a : BitVec 8) (b : BitVec 8)
  /-- R207 -/
  | shrI32Imm (d : BitVec 7) (w : BitVec 1) (a : BitVec 8) (i : BitVec 8)
  /-- R210 -/
  | cmpI32 (p : BitVec 6) (c : BitVec 2) (a : BitVec 8) (b : BitVec 8)
  /-- R210 -/
  | cmpI32Imm (p : BitVec 6) (c : BitVec 2) (a : BitVec 8) (i : BitVec 8)
  /-- R210 -/
  | cmpN32 (p : BitVec 6) (c : BitVec 2) (a : BitVec 8) (b : BitVec 8)
  /-- R210 -/
  | cmpN32Imm (p : BitVec 6) (c : BitVec 2) (a : BitVec 8) (i : BitVec 8)
  /-- R210 -/
  | cmpI64 (p : BitVec 6) (c : BitVec 2) (a : BitVec 8) (b : BitVec 8)
  /-- R212 -/
  | plut (p : BitVec 6) (a : BitVec 6) (b : BitVec 6) (l : BitVec 4)
  /-- R213 -/
  | sel (d : BitVec 7) (w : BitVec 1) (a : BitVec 8) (b : BitVec 8)
  /-- R214 -/
  | nop
  /-- R221 -/
  | br (g : BitVec 6) (n : BitVec 1) (o : BitVec 16)
  /-- R228 -/
  | bru (g : BitVec 6) (n : BitVec 1) (o : BitVec 16)
  /-- R222 -/
  | call (g : BitVec 6) (n : BitVec 1) (o : BitVec 16)
  /-- R223 -/
  | calli (a : BitVec 8)
  /-- R224 -/
  | ret
  /-- R225 -/
  | join (a : BitVec 8)
  /-- R448 -/
  | tail
  /-- R447 -/
  | exit
  /-- R221 -/
  | brl (g : BitVec 6) (n : BitVec 1) (o : BitVec 16)
  /-- R222 -/
  | calll (g : BitVec 6) (n : BitVec 1) (o : BitVec 16)
  /-- R229 -/
  | uadd (d : BitVec 6) (a : BitVec 6) (b : BitVec 6) (i : BitVec 1)
  /-- R229 -/
  | usub (d : BitVec 6) (a : BitVec 6) (b : BitVec 6) (i : BitVec 1)
  /-- R229 -/
  | umul (d : BitVec 6) (a : BitVec 6) (b : BitVec 6) (i : BitVec 1)
  /-- R229 -/
  | uand (d : BitVec 6) (a : BitVec 6) (b : BitVec 6) (i : BitVec 1)
  /-- R229 -/
  | uor (d : BitVec 6) (a : BitVec 6) (b : BitVec 6) (i : BitVec 1)
  /-- R229 -/
  | uxor (d : BitVec 6) (a : BitVec 6) (b : BitVec 6) (i : BitVec 1)
  /-- R229 -/
  | ushl (d : BitVec 6) (a : BitVec 6) (b : BitVec 6) (i : BitVec 1)
  /-- R229 -/
  | ushrN64 (d : BitVec 6) (a : BitVec 6) (b : BitVec 6) (i : BitVec 1)
  /-- R229 -/
  | ushrI64 (d : BitVec 6) (a : BitVec 6) (b : BitVec 6) (i : BitVec 1)
  /-- R229 -/
  | uminI64 (d : BitVec 6) (a : BitVec 6) (b : BitVec 6) (i : BitVec 1)
  /-- R229 -/
  | umaxI64 (d : BitVec 6) (a : BitVec 6) (b : BitVec 6) (i : BitVec 1)
  /-- R229 -/
  | uminN64 (d : BitVec 6) (a : BitVec 6) (b : BitVec 6) (i : BitVec 1)
  /-- R229 -/
  | umaxN64 (d : BitVec 6) (a : BitVec 6) (b : BitVec 6) (i : BitVec 1)
  /-- R229 -/
  | umov (d : BitVec 6) (a : BitVec 6) (b : BitVec 6) (i : BitVec 1)
  /-- R229 -/
  | udivN64 (d : BitVec 6) (a : BitVec 6) (b : BitVec 6) (i : BitVec 1)
  /-- R229 -/
  | uremN64 (d : BitVec 6) (a : BitVec 6) (b : BitVec 6) (i : BitVec 1)
  /-- R229 -/
  | udivI64 (d : BitVec 6) (a : BitVec 6) (b : BitVec 6) (i : BitVec 1)
  /-- R229 -/
  | uremI64 (d : BitVec 6) (a : BitVec 6) (b : BitVec 6) (i : BitVec 1)
  /-- R234 -/
  | ugetFirst (d : BitVec 6) (x : BitVec 8) (w : BitVec 1)
  /-- R234 -/
  | ugetAdd (d : BitVec 6) (x : BitVec 8) (w : BitVec 1)
  /-- R234 -/
  | ugetMinI (d : BitVec 6) (x : BitVec 8) (w : BitVec 1)
  /-- R234 -/
  | ugetMaxI (d : BitVec 6) (x : BitVec 8) (w : BitVec 1)
  /-- R234 -/
  | ugetMinN (d : BitVec 6) (x : BitVec 8) (w : BitVec 1)
  /-- R234 -/
  | ugetMaxN (d : BitVec 6) (x : BitVec 8) (w : BitVec 1)
  /-- R234 -/
  | ugetAnd (d : BitVec 6) (x : BitVec 8) (w : BitVec 1)
  /-- R234 -/
  | ugetOr (d : BitVec 6) (x : BitVec 8) (w : BitVec 1)
  /-- R234 -/
  | ugetXor (d : BitVec 6) (x : BitVec 8) (w : BitVec 1)
  /-- R234 -/
  | ugetAny (d : BitVec 6) (x : BitVec 8) (w : BitVec 1)
  /-- R234 -/
  | ugetAll (d : BitVec 6) (x : BitVec 8) (w : BitVec 1)
  /-- R234 -/
  | ugetCount (d : BitVec 6) (x : BitVec 8) (w : BitVec 1)
  /-- R230 -/
  | ucmpEq (d : BitVec 6) (a : BitVec 6) (b : BitVec 6) (i : BitVec 1)
  /-- R230 -/
  | ucmpNe (d : BitVec 6) (a : BitVec 6) (b : BitVec 6) (i : BitVec 1)
  /-- R230 -/
  | ucmpLtI64 (d : BitVec 6) (a : BitVec 6) (b : BitVec 6) (i : BitVec 1)
  /-- R230 -/
  | ucmpGeI64 (d : BitVec 6) (a : BitVec 6) (b : BitVec 6) (i : BitVec 1)
  /-- R230 -/
  | ucmpLtN64 (d : BitVec 6) (a : BitVec 6) (b : BitVec 6) (i : BitVec 1)
  /-- R230 -/
  | ucmpGeN64 (d : BitVec 6) (a : BitVec 6) (b : BitVec 6) (i : BitVec 1)
  /-- R231 -/
  | uld (d : BitVec 6) (a : BitVec 6) (b : BitVec 6) (s : BitVec 1) (z : BitVec 2)
  /-- R235 -/
  | post (d : BitVec 6) (a : BitVec 6) (b : BitVec 6)
  /-- R235 -/
  | postSelf (d : BitVec 6) (a : BitVec 6)
  /-- R215 -/
  | widen (d : BitVec 7) (a : BitVec 8)
  /-- R215 -/
  | widenCount (d : BitVec 7) (a : BitVec 8)
  /-- R215 -/
  | widenFull (d : BitVec 7)
  /-- R216 -/
  | shrdLo (d : BitVec 7) (w : BitVec 1) (a : BitVec 8)
  /-- R216 -/
  | shrdHi (d : BitVec 7) (w : BitVec 1) (a : BitVec 8)
  /-- R217 -/
  | shwr (d : BitVec 7) (a : BitVec 8) (b : BitVec 8)
  /-- R218 -/
  | arrget (d : BitVec 7) (w : BitVec 1) (f : BitVec 3) (n : BitVec 4)
  /-- R218 -/
  | arrgetBase64 (d : BitVec 7) (w : BitVec 1) (n : BitVec 4)
  /-- R219 -/
  | arrset (n : BitVec 4) (a : BitVec 6) (f : BitVec 6)
  /-- R240 -/
  | faddF32 (d : BitVec 7) (w : BitVec 1) (a : BitVec 8) (b : BitVec 8)
  /-- R240 -/
  | fsubF32 (d : BitVec 7) (w : BitVec 1) (a : BitVec 8) (b : BitVec 8)
  /-- R240 -/
  | fmulF32 (d : BitVec 7) (w : BitVec 1) (a : BitVec 8) (b : BitVec 8)
  /-- R240 -/
  | fmaF32 (d : BitVec 7) (w : BitVec 1) (a : BitVec 8) (b : BitVec 8)
  /-- R242 -/
  | fminF32 (d : BitVec 7) (w : BitVec 1) (a : BitVec 8) (b : BitVec 8)
  /-- R242 -/
  | fmaxF32 (d : BitVec 7) (w : BitVec 1) (a : BitVec 8) (b : BitVec 8)
  /-- R240 -/
  | faddF16 (d : BitVec 7) (w : BitVec 1) (a : BitVec 8) (b : BitVec 8)
  /-- R240 -/
  | fmulF16 (d : BitVec 7) (w : BitVec 1) (a : BitVec 8) (b : BitVec 8)
  /-- R240 -/
  | fmaF16 (d : BitVec 7) (w : BitVec 1) (a : BitVec 8) (b : BitVec 8)
  /-- R240 -/
  | faddBf16 (d : BitVec 7) (w : BitVec 1) (a : BitVec 8) (b : BitVec 8)
  /-- R240 -/
  | fmulBf16 (d : BitVec 7) (w : BitVec 1) (a : BitVec 8) (b : BitVec 8)
  /-- R240 -/
  | fmaBf16 (d : BitVec 7) (w : BitVec 1) (a : BitVec 8) (b : BitVec 8)
  /-- R241 -/
  | fmodFsub (d : BitVec 7) (w : BitVec 1) (a : BitVec 8) (t : BitVec 2)
  /-- R241 -/
  | fmodFmin (d : BitVec 7) (w : BitVec 1) (a : BitVec 8) (t : BitVec 2)
  /-- R241 -/
  | fmodFmax (d : BitVec 7) (w : BitVec 1) (a : BitVec 8) (t : BitVec 2)
  /-- R241 -/
  | fabs (d : BitVec 7) (w : BitVec 1) (a : BitVec 8) (t : BitVec 2)
  /-- R241 -/
  | fneg (d : BitVec 7) (w : BitVec 1) (a : BitVec 8) (t : BitVec 2)
  /-- R241 -/
  | fcps (d : BitVec 7) (w : BitVec 1) (a : BitVec 8) (t : BitVec 2)
  /-- R244 -/
  | rcp (d : BitVec 7) (w : BitVec 1) (a : BitVec 8) (t : BitVec 2)
  /-- R244 -/
  | rsq (d : BitVec 7) (w : BitVec 1) (a : BitVec 8) (t : BitVec 2)
  /-- R244 -/
  | sqrt (d : BitVec 7) (w : BitVec 1) (a : BitVec 8) (t : BitVec 2)
  /-- R244 -/
  | ex2 (d : BitVec 7) (w : BitVec 1) (a : BitVec 8) (t : BitVec 2)
  /-- R244 -/
  | lg2 (d : BitVec 7) (w : BitVec 1) (a : BitVec 8) (t : BitVec 2)
  /-- R244 -/
  | sin (d : BitVec 7) (w : BitVec 1) (a : BitVec 8) (t : BitVec 2)
  /-- R244 -/
  | cos (d : BitVec 7) (w : BitVec 1) (a : BitVec 8) (t : BitVec 2)
  /-- R244 -/
  | tanh (d : BitVec 7) (w : BitVec 1) (a : BitVec 8) (t : BitVec 2)
  /-- R243 -/
  | fcmpF32 (p : BitVec 6) (c : BitVec 2) (a : BitVec 8) (b : BitVec 8)
  /-- R243 -/
  | fcmpH (p : BitVec 6) (c : BitVec 2) (a : BitVec 8) (b : BitVec 8)
  /-- R247 -/
  | cvtF (d : BitVec 7) (w : BitVec 1) (a : BitVec 8) (r : BitVec 3) (e : BitVec 2) (s : BitVec 3)
  /-- R247 -/
  | cvtI (d : BitVec 7) (w : BitVec 1) (a : BitVec 8) (r : BitVec 3) (s : BitVec 2) (e : BitVec 3)
  /-- R251 -/
  | cvtn (d : BitVec 7) (w : BitVec 1) (a : BitVec 8) (i : BitVec 8)
  /-- R251 -/
  | cvtnf (d : BitVec 7) (w : BitVec 1) (a : BitVec 8) (i : BitVec 8)
  /-- R252 -/
  | tunp (d : BitVec 7) (w : BitVec 1) (a : BitVec 8) (m : BitVec 1) (k : BitVec 2)
  /-- R253 -/
  | tdot (d : BitVec 7) (w : BitVec 1) (a : BitVec 8) (b : BitVec 8)
  /-- R254 -/
  | seed (a : BitVec 8)
  /-- R254 -/
  | seedRd (d : BitVec 7) (w : BitVec 1)
  /-- R255 -/
  | fsrd (d : BitVec 7) (w : BitVec 1)
  /-- R255 -/
  | fsrdClr (d : BitVec 7) (w : BitVec 1) (a : BitVec 8)
  /-- R240 -/
  | faddF64 (d : BitVec 7) (w : BitVec 1) (a : BitVec 8) (b : BitVec 8)
  /-- R240 -/
  | fsubF64 (d : BitVec 7) (w : BitVec 1) (a : BitVec 8) (b : BitVec 8)
  /-- R240 -/
  | fmulF64 (d : BitVec 7) (w : BitVec 1) (a : BitVec 8) (b : BitVec 8)
  /-- R240 -/
  | fmaF64 (d : BitVec 7) (w : BitVec 1) (a : BitVec 8) (b : BitVec 8)
  /-- R241 -/
  | fminF64 (d : BitVec 7) (w : BitVec 1) (a : BitVec 8)
  /-- R241 -/
  | fmaxF64 (d : BitVec 7) (w : BitVec 1) (a : BitVec 8)
  /-- R241 -/
  | fabsF64 (d : BitVec 7) (w : BitVec 1) (a : BitVec 8)
  /-- R241 -/
  | fnegF64 (d : BitVec 7) (w : BitVec 1) (a : BitVec 8)
  /-- R241 -/
  | fcpsF64 (d : BitVec 7) (w : BitVec 1) (a : BitVec 8)
  /-- R243 -/
  | fcmpF64 (p : BitVec 6) (c : BitVec 2) (a : BitVec 8) (b : BitVec 8)
  /-- R247 -/
  | cvtF64 (d : BitVec 7) (w : BitVec 1) (a : BitVec 8) (r : BitVec 3) (x : BitVec 1) (t : BitVec 4)
  /-- R244 -/
  | rcpF64 (d : BitVec 7) (w : BitVec 1) (a : BitVec 8)
  /-- R244 -/
  | rsqF64 (d : BitVec 7) (w : BitVec 1) (a : BitVec 8)
  /-- R244 -/
  | sqrtF64 (d : BitVec 7) (w : BitVec 1) (a : BitVec 8)
  /-- R278 -/
  | ldN8 (d : BitVec 7) (w : BitVec 1) (x : BitVec 8) (a : BitVec 4) (o : BitVec 4)
  /-- R278 -/
  | ldI8 (d : BitVec 7) (w : BitVec 1) (x : BitVec 8) (a : BitVec 4) (o : BitVec 4)
  /-- R278 -/
  | ldN16 (d : BitVec 7) (w : BitVec 1) (x : BitVec 8) (a : BitVec 4) (o : BitVec 4)
  /-- R278 -/
  | ldI16 (d : BitVec 7) (w : BitVec 1) (x : BitVec 8) (a : BitVec 4) (o : BitVec 4)
  /-- R278 -/
  | ld32 (d : BitVec 7) (w : BitVec 1) (x : BitVec 8) (a : BitVec 4) (o : BitVec 4)
  /-- R278 -/
  | ld64 (d : BitVec 7) (w : BitVec 1) (x : BitVec 8) (a : BitVec 4) (o : BitVec 4)
  /-- R278 -/
  | st8 (d : BitVec 7) (l : BitVec 1) (x : BitVec 8) (a : BitVec 4) (o : BitVec 4)
  /-- R278 -/
  | st16 (d : BitVec 7) (l : BitVec 1) (x : BitVec 8) (a : BitVec 4) (o : BitVec 4)
  /-- R278 -/
  | st32 (d : BitVec 7) (l : BitVec 1) (x : BitVec 8) (a : BitVec 4) (o : BitVec 4)
  /-- R278 -/
  | st64 (d : BitVec 7) (l : BitVec 1) (x : BitVec 8) (a : BitVec 4) (o : BitVec 4)
  /-- R279 -/
  | ldro32 (d : BitVec 7) (w : BitVec 1) (x : BitVec 8) (a : BitVec 4) (o : BitVec 4)
  /-- R279 -/
  | ldro64 (d : BitVec 7) (w : BitVec 1) (x : BitVec 8) (a : BitVec 4) (o : BitVec 4)
  /-- R280 -/
  | lds32 (d : BitVec 7) (w : BitVec 1) (x : BitVec 8) (a : BitVec 4) (o : BitVec 4)
  /-- R280 -/
  | sts32 (d : BitVec 7) (l : BitVec 1) (x : BitVec 8) (a : BitVec 4) (o : BitVec 4)
  /-- R280 -/
  | lds64 (d : BitVec 7) (w : BitVec 1) (x : BitVec 8) (a : BitVec 4) (o : BitVec 4)
  /-- R280 -/
  | sts64 (d : BitVec 7) (l : BitVec 1) (x : BitVec 8) (a : BitVec 4) (o : BitVec 4)
  /-- R281 -/
  | ldg32 (d : BitVec 7) (w : BitVec 1) (a : BitVec 8) (i : BitVec 8)
  /-- R281 -/
  | stg32 (d : BitVec 7) (l : BitVec 1) (a : BitVec 8) (i : BitVec 8)
  /-- R281 -/
  | ldg64 (d : BitVec 7) (w : BitVec 1) (a : BitVec 8) (i : BitVec 8)
  /-- R281 -/
  | stg64 (d : BitVec 7) (l : BitVec 1) (a : BitVec 8) (i : BitVec 8)
  /-- R282 -/
  | spill (a : BitVec 8) (k : BitVec 8)
  /-- R282 -/
  | fill (d : BitVec 7) (k : BitVec 8)
  /-- R289 -/
  | tacq (x : BitVec 8) (p : BitVec 1) (n : BitVec 6)
  /-- R289 -/
  | tacqFill (i : BitVec 8) (x : BitVec 8) (p : BitVec 1) (n : BitVec 6)
  /-- R290 -/
  | trel (n : BitVec 6)
  /-- R290 -/
  | trelWb (i : BitVec 8) (x : BitVec 8) (n : BitVec 6)
  /-- R291 -/
  | copy (i : BitVec 8) (x : BitVec 8) (y : BitVec 1)
  /-- R292 -/
  | copym (i : BitVec 8) (x : BitVec 8) (y : BitVec 1)
  /-- R293 -/
  | mcast (i : BitVec 8) (x : BitVec 8) (y : BitVec 1) (n : BitVec 6)
  /-- R294 -/
  | pfxL2 (i : BitVec 8) (x : BitVec 8)
  /-- R294 -/
  | pfxVault (i : BitVec 8) (x : BitVec 8)
  /-- R283 -/
  | ldt (d : BitVec 7) (w : BitVec 1) (a : BitVec 8) (z : BitVec 1) (n : BitVec 6)
  /-- R283 -/
  | stt (d : BitVec 7) (l : BitVec 1) (a : BitVec 8) (z : BitVec 1) (n : BitVec 6)
  /-- R284 -/
  | dsld (d : BitVec 7) (w : BitVec 1) (a : BitVec 8) (z : BitVec 1) (k : BitVec 1) (r : BitVec 4)
  /-- R284 -/
  | dsst (d : BitVec 7) (l : BitVec 1) (a : BitVec 8) (z : BitVec 1) (k : BitVec 1) (r : BitVec 4)
  /-- R304 -/
  | mma (i : BitVec 8) (x : BitVec 8) (t : BitVec 1) (z : BitVec 1) (b : BitVec 1) (a : BitVec 1) (k : BitVec 1) (d : BitVec 2)
  /-- R304 -/
  | mmaNf (i : BitVec 8) (x : BitVec 8) (t : BitVec 1) (z : BitVec 1) (b : BitVec 1) (a : BitVec 1) (k : BitVec 1) (d : BitVec 2)
  /-- R304 -/
  | mmaF64 (i : BitVec 8) (x : BitVec 8) (t : BitVec 1) (z : BitVec 1) (b : BitVec 1) (a : BitVec 1) (k : BitVec 1) (d : BitVec 2)
  /-- R317 -/
  | mmaCont (x : BitVec 8)
  /-- R310 -/
  | mmat (i : BitVec 8) (x : BitVec 8) (z : BitVec 1) (b : BitVec 1) (a : BitVec 1) (p : BitVec 2) (y : BitVec 1)
  /-- R317 -/
  | mmatCont (x : BitVec 8)
  /-- R310 -/
  | mmatNf (i : BitVec 8) (x : BitVec 8) (z : BitVec 1) (b : BitVec 1) (a : BitVec 1) (p : BitVec 2) (y : BitVec 1)
  /-- R338 -/
  | slset (n : BitVec 4) (x : BitVec 8)
  /-- R338 -/
  | slgrow (n : BitVec 4) (x : BitVec 8) (d : BitVec 6)
  /-- R339 -/
  | slxl (d : BitVec 7) (w : BitVec 1) (a : BitVec 8) (n : BitVec 4)
  /-- R339 -/
  | slxlPg (d : BitVec 7) (w : BitVec 1) (a : BitVec 8) (n : BitVec 4)
  /-- R338 -/
  | slapp (n : BitVec 4) (x : BitVec 8) (d : BitVec 6)
  /-- R340 -/
  | osm (r : BitVec 7) (x : BitVec 8) (s : BitVec 7)
  /-- R340 -/
  | osmMrg (r : BitVec 7) (x : BitVec 8) (s : BitVec 7)
  /-- R341 -/
  | osmn (d : BitVec 7) (x : BitVec 8) (s : BitVec 7)
  /-- R342 -/
  | sbsend (n : BitVec 6) (x : BitVec 8)
  /-- R342 -/
  | sbmrg (n : BitVec 6) (x : BitVec 8) (m : BitVec 1)
  /-- R343 -/
  | psel (n : BitVec 4) (x : BitVec 8)
  /-- R344 -/
  | kvpk (n : BitVec 4) (x : BitVec 8)
  /-- R344 -/
  | kvunp (n : BitVec 4) (x : BitVec 8)
  /-- R362 -/
  | nbmode (t : BitVec 1) (b : BitVec 1)
  /-- R363 -/
  | nbbc (b : BitVec 7) (x : BitVec 8) (i : BitVec 3)
  /-- R365 -/
  | nbmac (i : BitVec 3) (k : BitVec 3) (x : BitVec 8) (a : BitVec 1) (z : BitVec 1) (s : BitVec 1) (n : BitVec 5)
  /-- R366 -/
  | nbrd (k : BitVec 3) (x : BitVec 8) (c : BitVec 1) (h : BitVec 1) (n : BitVec 3)
  /-- R364 -/
  | nbldw (i : BitVec 3) (x : BitVec 8)
  /-- R368 -/
  | fenceBank (x : BitVec 8) (s : BitVec 2)
  /-- R367 -/
  | nbclr (z : BitVec 8) (x : BitVec 8) (w : BitVec 8)
  /-- R400 -/
  | bar (b : BitVec 10) (x : BitVec 8)
  /-- R400 -/
  | bara (b : BitVec 10) (x : BitVec 8)
  /-- R400 -/
  | cbar (b : BitVec 10) (x : BitVec 8)
  /-- R400 -/
  | cbara (b : BitVec 10) (x : BitVec 8)
  /-- R391 -/
  | atom32 (d : BitVec 7) (s : BitVec 3) (o : BitVec 3) (i : BitVec 7) (a : BitVec 4)
  /-- R391 -/
  | atom64 (d : BitVec 7) (s : BitVec 3) (o : BitVec 3) (i : BitVec 7) (a : BitVec 4)
  /-- R391 -/
  | cas32 (d : BitVec 7) (s : BitVec 3) (i : BitVec 7) (a : BitVec 4)
  /-- R391 -/
  | cas64 (d : BitVec 7) (s : BitVec 3) (i : BitVec 7) (a : BitVec 4)
  /-- R391 -/
  | red32 (d : BitVec 7) (s : BitVec 3) (o : BitVec 3) (i : BitVec 7) (a : BitVec 4)
  /-- R391 -/
  | red64 (d : BitVec 7) (s : BitVec 3) (o : BitVec 3) (i : BitVec 7) (a : BitVec 4)
  /-- R396 -/
  | fence (s : BitVec 3)
  /-- R397 -/
  | waitCopy (n : BitVec 6)
  /-- R397 -/
  | waitMatrix (n : BitVec 6)
  /-- R397 -/
  | waitGather (n : BitVec 6)
  /-- R397 -/
  | waitNearBank (n : BitVec 6)
  /-- R397 -/
  | waitCollective (n : BitVec 6)
  /-- R395 -/
  | sigwSt (v : BitVec 8) (x : BitVec 8)
  /-- R395 -/
  | sigwAdd (v : BitVec 8) (x : BitVec 8)
  /-- R395 -/
  | sigwMax (v : BitVec 8) (x : BitVec 8)
  /-- R394 -/
  | ldacq (d : BitVec 7) (s : BitVec 3) (z : BitVec 1) (i : BitVec 7) (a : BitVec 4)
  /-- R394 -/
  | strel (d : BitVec 7) (s : BitVec 3) (z : BitVec 1) (i : BitVec 7) (a : BitVec 4)
  /-- R421 -/
  | trap (c : BitVec 16)
  /-- R422 -/
  | brk
  /-- R420 -/
  | tretResume
  /-- R420 -/
  | tretKill
  /-- R420 -/
  | tretKillgrid
  /-- R420 -/
  | tretHost
  /-- R418 -/
  | trrd (d : BitVec 7) (w : BitVec 1) (a : BitVec 8) (h : BitVec 1) (k : BitVec 4)
  /-- R419 -/
  | trwr (v : BitVec 7) (a : BitVec 8) (k : BitVec 4)
  /-- R469 -/
  | evrd (d : BitVec 7) (w : BitVec 1) (h : BitVec 1) (e : BitVec 1) (n : BitVec 6)
  /-- R154 -/
  | lit (v : BitVec 24)
  /-- R155 -/
  | blk (m : BitVec 3) (n : BitVec 3) (s : BitVec 6) (d : BitVec 1) (a : BitVec 1) (b : BitVec 1)
  /-- R156 -/
  | grd (g : BitVec 6) (e : BitVec 1) (n : BitVec 3)
  /-- R157 -/
  | live (o : BitVec 24)
  /-- R158 -/
  | step (s : BitVec 24)
  /-- R159 -/
  | region
  /-- R160 -/
  | pref (d : BitVec 2)
  /-- R161 -/
  | sched (y : BitVec 1) (h : BitVec 6)
  deriving DecidableEq, Repr

end Sys2Proof
end

