-- ==== Sys2Proof/Decode.lean ====
section
/-! DEFINITION. The decoder of instruction words (R135 to R147, R149), total on every word and rejecting by name, and
the encoder written from the same tables. -/

namespace Sys2Proof

/-- Why a word is no instruction (R149, R150): the trap's reason code follows from it. -/
inductive DecodeReject where
  /-- Opcode 0x00 or 0xFF: reason 0. Raised by the step as the illegal-instruction trap; safe. -/
  | permanentlyIllegal
  /-- A reserved opcode, the hint opcodes 0xE8 to 0xFE included: reason 1; safe. -/
  | reservedOpcode
  /-- A reserved bit set or a field value that the entry leaves undefined: reason 3; safe. -/
  | undefinedField
  /-- An operand code or write bit that the entry does not allow in its position: reason 4; safe. -/
  | badOperand
  deriving DecidableEq, Repr

/-- The field of `w` that starts at bit `lo` and is `n` bits wide (R6 `bits`). -/
def field (w : Word) (lo n : Nat) : BitVec n := w.extractLsb' lo n

/-- The major opcode, bits [31:24] (R135). -/
def opcodeOf (w : Word) : BitVec 8 := field w 24 8

/-- The words of opcode 0x01 (R208). -/
noncomputable def decode01 (w : Word) : Option Instr :=
  if (field w 0 8).toNat == 0 then
    some (.mov (field w 17 7) (field w 16 1) (field w 8 8))
  else
  if (field w 0 8).toNat == 1 then
    some (.not (field w 17 7) (field w 16 1) (field w 8 8))
  else
  if (field w 0 8).toNat == 2 then
    some (.neg (field w 17 7) (field w 16 1) (field w 8 8))
  else
  if (field w 0 8).toNat == 3 then
    some (.abs (field w 17 7) (field w 16 1) (field w 8 8))
  else
  if (field w 0 8).toNat == 4 then
    some (.popc (field w 17 7) (field w 16 1) (field w 8 8))
  else
  if (field w 0 8).toNat == 5 then
    some (.clz (field w 17 7) (field w 16 1) (field w 8 8))
  else
  if (field w 0 8).toNat == 6 then
    some (.brev (field w 17 7) (field w 16 1) (field w 8 8))
  else
  if (field w 0 8).toNat == 8 then
    some (.sxtI8 (field w 17 7) (field w 16 1) (field w 8 8))
  else
  if (field w 0 8).toNat == 9 then
    some (.sxtI16 (field w 17 7) (field w 16 1) (field w 8 8))
  else
  if (field w 0 8).toNat == 10 then
    some (.zxtN8 (field w 17 7) (field w 16 1) (field w 8 8))
  else
  if (field w 0 8).toNat == 11 then
    some (.zxtN16 (field w 17 7) (field w 16 1) (field w 8 8))
  else
  if (field w 0 8).toNat == 12 then
    some (.sxtI64 (field w 17 7) (field w 16 1) (field w 8 8))
  else
  if (field w 0 8).toNat == 13 then
    some (.zxtN64 (field w 17 7) (field w 16 1) (field w 8 8))
  else
  if (field w 0 8).toNat == 14 then
    some (.mov64 (field w 17 7) (field w 16 1) (field w 8 8))
  else
  none

/-- The words of opcodes 0x00 to 0x0F, by the low four bits of the opcode (R146). -/
noncomputable def decodeRow0 (lo : Nat) (w : Word) : Option Instr :=
  match lo with
  | 1 => decode01 w
  | 2 => some (.addI32 (field w 17 7) (field w 16 1) (field w 8 8) (field w 0 8))
  | 3 => some (.addI32Imm (field w 17 7) (field w 16 1) (field w 8 8) (field w 0 8))
  | 4 => some (.subI32 (field w 17 7) (field w 16 1) (field w 8 8) (field w 0 8))
  | 5 => some (.subI32Imm (field w 17 7) (field w 16 1) (field w 8 8) (field w 0 8))
  | 6 => some (.addSatI32 (field w 17 7) (field w 16 1) (field w 8 8) (field w 0 8))
  | 7 => some (.addSatI32Imm (field w 17 7) (field w 16 1) (field w 8 8) (field w 0 8))
  | 8 => some (.addSatN32 (field w 17 7) (field w 16 1) (field w 8 8) (field w 0 8))
  | 9 => some (.addSatN32Imm (field w 17 7) (field w 16 1) (field w 8 8) (field w 0 8))
  | 10 => some (.subSatI32 (field w 17 7) (field w 16 1) (field w 8 8) (field w 0 8))
  | 11 => some (.subSatI32Imm (field w 17 7) (field w 16 1) (field w 8 8) (field w 0 8))
  | 12 => some (.subSatN32 (field w 17 7) (field w 16 1) (field w 8 8) (field w 0 8))
  | 13 => some (.subSatN32Imm (field w 17 7) (field w 16 1) (field w 8 8) (field w 0 8))
  | 14 => some (.mulI32 (field w 17 7) (field w 16 1) (field w 8 8) (field w 0 8))
  | 15 => some (.mulI32Imm (field w 17 7) (field w 16 1) (field w 8 8) (field w 0 8))
  | _ => none

/-- The words of opcodes 0x10 to 0x1F, by the low four bits of the opcode (R146). -/
noncomputable def decodeRow1 (lo : Nat) (w : Word) : Option Instr :=
  match lo with
  | 0 => some (.mulSatI32 (field w 17 7) (field w 16 1) (field w 8 8) (field w 0 8))
  | 1 => some (.mulSatI32Imm (field w 17 7) (field w 16 1) (field w 8 8) (field w 0 8))
  | 2 => some (.mulSatN32 (field w 17 7) (field w 16 1) (field w 8 8) (field w 0 8))
  | 3 => some (.mulSatN32Imm (field w 17 7) (field w 16 1) (field w 8 8) (field w 0 8))
  | 4 => some (.mulhiI32 (field w 17 7) (field w 16 1) (field w 8 8) (field w 0 8))
  | 5 => some (.mulhiI32Imm (field w 17 7) (field w 16 1) (field w 8 8) (field w 0 8))
  | 6 => some (.mulhiN32 (field w 17 7) (field w 16 1) (field w 8 8) (field w 0 8))
  | 7 => some (.mulhiN32Imm (field w 17 7) (field w 16 1) (field w 8 8) (field w 0 8))
  | 8 => some (.mulwI32 (field w 17 7) (field w 16 1) (field w 8 8) (field w 0 8))
  | 9 => some (.mulwI32Imm (field w 17 7) (field w 16 1) (field w 8 8) (field w 0 8))
  | 10 => some (.mulwN32 (field w 17 7) (field w 16 1) (field w 8 8) (field w 0 8))
  | 11 => some (.mulwN32Imm (field w 17 7) (field w 16 1) (field w 8 8) (field w 0 8))
  | 12 => some (.addI64 (field w 17 7) (field w 16 1) (field w 8 8) (field w 0 8))
  | 13 => some (.addI64Imm (field w 17 7) (field w 16 1) (field w 8 8) (field w 0 8))
  | 14 => some (.subI64 (field w 17 7) (field w 16 1) (field w 8 8) (field w 0 8))
  | 15 => some (.subI64Imm (field w 17 7) (field w 16 1) (field w 8 8) (field w 0 8))
  | _ => none

/-- The words of opcodes 0x20 to 0x2F, by the low four bits of the opcode (R146). -/
noncomputable def decodeRow2 (lo : Nat) (w : Word) : Option Instr :=
  match lo with
  | 0 => some (.divI32 (field w 17 7) (field w 16 1) (field w 8 8) (field w 0 8))
  | 1 => some (.divI32Imm (field w 17 7) (field w 16 1) (field w 8 8) (field w 0 8))
  | 2 => some (.divN32 (field w 17 7) (field w 16 1) (field w 8 8) (field w 0 8))
  | 3 => some (.divN32Imm (field w 17 7) (field w 16 1) (field w 8 8) (field w 0 8))
  | 4 => some (.remI32 (field w 17 7) (field w 16 1) (field w 8 8) (field w 0 8))
  | 5 => some (.remI32Imm (field w 17 7) (field w 16 1) (field w 8 8) (field w 0 8))
  | 6 => some (.remN32 (field w 17 7) (field w 16 1) (field w 8 8) (field w 0 8))
  | 7 => some (.remN32Imm (field w 17 7) (field w 16 1) (field w 8 8) (field w 0 8))
  | 8 => some (.minI32 (field w 17 7) (field w 16 1) (field w 8 8) (field w 0 8))
  | 9 => some (.minI32Imm (field w 17 7) (field w 16 1) (field w 8 8) (field w 0 8))
  | 10 => some (.maxI32 (field w 17 7) (field w 16 1) (field w 8 8) (field w 0 8))
  | 11 => some (.maxI32Imm (field w 17 7) (field w 16 1) (field w 8 8) (field w 0 8))
  | 12 => some (.minN32 (field w 17 7) (field w 16 1) (field w 8 8) (field w 0 8))
  | 13 => some (.minN32Imm (field w 17 7) (field w 16 1) (field w 8 8) (field w 0 8))
  | 14 => some (.maxN32 (field w 17 7) (field w 16 1) (field w 8 8) (field w 0 8))
  | 15 => some (.maxN32Imm (field w 17 7) (field w 16 1) (field w 8 8) (field w 0 8))
  | _ => none

/-- The words of opcodes 0x30 to 0x3F, by the low four bits of the opcode (R146). -/
noncomputable def decodeRow3 (lo : Nat) (w : Word) : Option Instr :=
  match lo with
  | 0 => some (.and (field w 17 7) (field w 16 1) (field w 8 8) (field w 0 8))
  | 1 => some (.andImm (field w 17 7) (field w 16 1) (field w 8 8) (field w 0 8))
  | 2 => some (.or (field w 17 7) (field w 16 1) (field w 8 8) (field w 0 8))
  | 3 => some (.orImm (field w 17 7) (field w 16 1) (field w 8 8) (field w 0 8))
  | 4 => some (.xor (field w 17 7) (field w 16 1) (field w 8 8) (field w 0 8))
  | 5 => some (.xorImm (field w 17 7) (field w 16 1) (field w 8 8) (field w 0 8))
  | 6 => some (.shl (field w 17 7) (field w 16 1) (field w 8 8) (field w 0 8))
  | 7 => some (.shlImm (field w 17 7) (field w 16 1) (field w 8 8) (field w 0 8))
  | 8 => some (.shrN32 (field w 17 7) (field w 16 1) (field w 8 8) (field w 0 8))
  | 9 => some (.shrN32Imm (field w 17 7) (field w 16 1) (field w 8 8) (field w 0 8))
  | 10 => some (.shrI32 (field w 17 7) (field w 16 1) (field w 8 8) (field w 0 8))
  | 11 => some (.shrI32Imm (field w 17 7) (field w 16 1) (field w 8 8) (field w 0 8))
  | 12 => some (.cmpI32 (field w 18 6) (field w 16 2) (field w 8 8) (field w 0 8))
  | 13 => some (.cmpI32Imm (field w 18 6) (field w 16 2) (field w 8 8) (field w 0 8))
  | 14 => some (.cmpN32 (field w 18 6) (field w 16 2) (field w 8 8) (field w 0 8))
  | 15 => some (.cmpN32Imm (field w 18 6) (field w 16 2) (field w 8 8) (field w 0 8))
  | _ => none

/-- The words of opcode 0x41 (R212). -/
noncomputable def decode41 (w : Word) : Option Instr :=
  if (field w 16 2).toNat == 0 then
    some (.plut (field w 18 6) (field w 10 6) (field w 4 6) (field w 0 4))
  else
  none

/-- The words of opcode 0x43 (R214). -/
noncomputable def decode43 (w : Word) : Option Instr :=
  if (field w 0 24).toNat == 0 then
    some (.nop)
  else
  none

/-- The words of opcode 0x48 (R221). -/
noncomputable def decode48 (w : Word) : Option Instr :=
  if (field w 16 1).toNat == 0 then
    some (.br (field w 18 6) (field w 17 1) (field w 0 16))
  else
  none

/-- The words of opcode 0x49 (R228). -/
noncomputable def decode49 (w : Word) : Option Instr :=
  if (field w 16 1).toNat == 0 then
    some (.bru (field w 18 6) (field w 17 1) (field w 0 16))
  else
  none

/-- The words of opcode 0x4A (R222). -/
noncomputable def decode4A (w : Word) : Option Instr :=
  if (field w 16 1).toNat == 0 then
    some (.call (field w 18 6) (field w 17 1) (field w 0 16))
  else
  none

/-- The words of opcode 0x4B (R223). -/
noncomputable def decode4B (w : Word) : Option Instr :=
  if (field w 16 8).toNat == 0 && (field w 0 8).toNat == 0 then
    some (.calli (field w 8 8))
  else
  none

/-- The words of opcode 0x4C (R224). -/
noncomputable def decode4C (w : Word) : Option Instr :=
  if (field w 0 24).toNat == 0 then
    some (.ret)
  else
  none

/-- The words of opcode 0x4D (R225). -/
noncomputable def decode4D (w : Word) : Option Instr :=
  if (field w 16 8).toNat == 0 && (field w 0 8).toNat == 0 then
    some (.join (field w 8 8))
  else
  none

/-- The words of opcode 0x4E (R448). -/
noncomputable def decode4E (w : Word) : Option Instr :=
  if (field w 0 24).toNat == 0 then
    some (.tail)
  else
  none

/-- The words of opcode 0x4F (R447). -/
noncomputable def decode4F (w : Word) : Option Instr :=
  if (field w 0 24).toNat == 0 then
    some (.exit)
  else
  none

/-- The words of opcodes 0x40 to 0x4F, by the low four bits of the opcode (R146). -/
noncomputable def decodeRow4 (lo : Nat) (w : Word) : Option Instr :=
  match lo with
  | 0 => some (.cmpI64 (field w 18 6) (field w 16 2) (field w 8 8) (field w 0 8))
  | 1 => decode41 w
  | 2 => some (.sel (field w 17 7) (field w 16 1) (field w 8 8) (field w 0 8))
  | 3 => decode43 w
  | 8 => decode48 w
  | 9 => decode49 w
  | 10 => decode4A w
  | 11 => decode4B w
  | 12 => decode4C w
  | 13 => decode4D w
  | 14 => decode4E w
  | 15 => decode4F w
  | _ => none

/-- The words of opcode 0x50 (R221). -/
noncomputable def decode50 (w : Word) : Option Instr :=
  if (field w 16 1).toNat == 0 then
    some (.brl (field w 18 6) (field w 17 1) (field w 0 16))
  else
  none

/-- The words of opcode 0x51 (R222). -/
noncomputable def decode51 (w : Word) : Option Instr :=
  if (field w 16 1).toNat == 0 then
    some (.calll (field w 18 6) (field w 17 1) (field w 0 16))
  else
  none

/-- The words of opcode 0x52 (R229). -/
noncomputable def decode52 (w : Word) : Option Instr :=
  if (field w 0 5).toNat == 0 then
    some (.uadd (field w 18 6) (field w 12 6) (field w 6 6) (field w 5 1))
  else
  if (field w 0 5).toNat == 1 then
    some (.usub (field w 18 6) (field w 12 6) (field w 6 6) (field w 5 1))
  else
  if (field w 0 5).toNat == 2 then
    some (.umul (field w 18 6) (field w 12 6) (field w 6 6) (field w 5 1))
  else
  if (field w 0 5).toNat == 3 then
    some (.uand (field w 18 6) (field w 12 6) (field w 6 6) (field w 5 1))
  else
  if (field w 0 5).toNat == 4 then
    some (.uor (field w 18 6) (field w 12 6) (field w 6 6) (field w 5 1))
  else
  if (field w 0 5).toNat == 5 then
    some (.uxor (field w 18 6) (field w 12 6) (field w 6 6) (field w 5 1))
  else
  if (field w 0 5).toNat == 6 then
    some (.ushl (field w 18 6) (field w 12 6) (field w 6 6) (field w 5 1))
  else
  if (field w 0 5).toNat == 7 then
    some (.ushrN64 (field w 18 6) (field w 12 6) (field w 6 6) (field w 5 1))
  else
  if (field w 0 5).toNat == 8 then
    some (.ushrI64 (field w 18 6) (field w 12 6) (field w 6 6) (field w 5 1))
  else
  if (field w 0 5).toNat == 9 then
    some (.uminI64 (field w 18 6) (field w 12 6) (field w 6 6) (field w 5 1))
  else
  if (field w 0 5).toNat == 10 then
    some (.umaxI64 (field w 18 6) (field w 12 6) (field w 6 6) (field w 5 1))
  else
  if (field w 0 5).toNat == 11 then
    some (.uminN64 (field w 18 6) (field w 12 6) (field w 6 6) (field w 5 1))
  else
  if (field w 0 5).toNat == 12 then
    some (.umaxN64 (field w 18 6) (field w 12 6) (field w 6 6) (field w 5 1))
  else
  if (field w 0 5).toNat == 13 then
    some (.umov (field w 18 6) (field w 12 6) (field w 6 6) (field w 5 1))
  else
  if (field w 0 5).toNat == 14 then
    some (.udivN64 (field w 18 6) (field w 12 6) (field w 6 6) (field w 5 1))
  else
  if (field w 0 5).toNat == 15 then
    some (.uremN64 (field w 18 6) (field w 12 6) (field w 6 6) (field w 5 1))
  else
  if (field w 0 5).toNat == 16 then
    some (.udivI64 (field w 18 6) (field w 12 6) (field w 6 6) (field w 5 1))
  else
  if (field w 0 5).toNat == 17 then
    some (.uremI64 (field w 18 6) (field w 12 6) (field w 6 6) (field w 5 1))
  else
  none

/-- The words of opcode 0x53 (R234). -/
noncomputable def decode53 (w : Word) : Option Instr :=
  if (field w 16 2).toNat == 0 && (field w 0 7).toNat == 0 then
    some (.ugetFirst (field w 18 6) (field w 8 8) (field w 7 1))
  else
  if (field w 16 2).toNat == 0 && (field w 0 7).toNat == 1 then
    some (.ugetAdd (field w 18 6) (field w 8 8) (field w 7 1))
  else
  if (field w 16 2).toNat == 0 && (field w 0 7).toNat == 2 then
    some (.ugetMinI (field w 18 6) (field w 8 8) (field w 7 1))
  else
  if (field w 16 2).toNat == 0 && (field w 0 7).toNat == 3 then
    some (.ugetMaxI (field w 18 6) (field w 8 8) (field w 7 1))
  else
  if (field w 16 2).toNat == 0 && (field w 0 7).toNat == 4 then
    some (.ugetMinN (field w 18 6) (field w 8 8) (field w 7 1))
  else
  if (field w 16 2).toNat == 0 && (field w 0 7).toNat == 5 then
    some (.ugetMaxN (field w 18 6) (field w 8 8) (field w 7 1))
  else
  if (field w 16 2).toNat == 0 && (field w 0 7).toNat == 6 then
    some (.ugetAnd (field w 18 6) (field w 8 8) (field w 7 1))
  else
  if (field w 16 2).toNat == 0 && (field w 0 7).toNat == 7 then
    some (.ugetOr (field w 18 6) (field w 8 8) (field w 7 1))
  else
  if (field w 16 2).toNat == 0 && (field w 0 7).toNat == 8 then
    some (.ugetXor (field w 18 6) (field w 8 8) (field w 7 1))
  else
  if (field w 16 2).toNat == 0 && (field w 0 7).toNat == 9 then
    some (.ugetAny (field w 18 6) (field w 8 8) (field w 7 1))
  else
  if (field w 16 2).toNat == 0 && (field w 0 7).toNat == 10 then
    some (.ugetAll (field w 18 6) (field w 8 8) (field w 7 1))
  else
  if (field w 16 2).toNat == 0 && (field w 0 7).toNat == 11 then
    some (.ugetCount (field w 18 6) (field w 8 8) (field w 7 1))
  else
  none

/-- The words of opcode 0x54 (R230). -/
noncomputable def decode54 (w : Word) : Option Instr :=
  if (field w 0 5).toNat == 0 then
    some (.ucmpEq (field w 18 6) (field w 12 6) (field w 6 6) (field w 5 1))
  else
  if (field w 0 5).toNat == 1 then
    some (.ucmpNe (field w 18 6) (field w 12 6) (field w 6 6) (field w 5 1))
  else
  if (field w 0 5).toNat == 2 then
    some (.ucmpLtI64 (field w 18 6) (field w 12 6) (field w 6 6) (field w 5 1))
  else
  if (field w 0 5).toNat == 3 then
    some (.ucmpGeI64 (field w 18 6) (field w 12 6) (field w 6 6) (field w 5 1))
  else
  if (field w 0 5).toNat == 4 then
    some (.ucmpLtN64 (field w 18 6) (field w 12 6) (field w 6 6) (field w 5 1))
  else
  if (field w 0 5).toNat == 5 then
    some (.ucmpGeN64 (field w 18 6) (field w 12 6) (field w 6 6) (field w 5 1))
  else
  none

/-- The words of opcode 0x55 (R231). -/
noncomputable def decode55 (w : Word) : Option Instr :=
  if (field w 3 3).toNat == 0 then
    some (.uld (field w 18 6) (field w 12 6) (field w 6 6) (field w 2 1) (field w 0 2))
  else
  none

/-- The words of opcode 0x56 (R235). -/
noncomputable def decode56 (w : Word) : Option Instr :=
  if (field w 0 6).toNat == 0 then
    some (.post (field w 18 6) (field w 12 6) (field w 6 6))
  else
  if (field w 6 6).toNat == 0 && (field w 0 6).toNat == 1 then
    some (.postSelf (field w 18 6) (field w 12 6))
  else
  none

/-- The words of opcode 0x58 (R215). -/
noncomputable def decode58 (w : Word) : Option Instr :=
  if (field w 16 1).toNat == 0 && (field w 0 8).toNat == 0 then
    some (.widen (field w 17 7) (field w 8 8))
  else
  if (field w 16 1).toNat == 0 && (field w 0 8).toNat == 1 then
    some (.widenCount (field w 17 7) (field w 8 8))
  else
  if (field w 16 1).toNat == 0 && (field w 8 8).toNat == 127 && (field w 0 8).toNat == 2 then
    some (.widenFull (field w 17 7))
  else
  none

/-- The words of opcode 0x59 (R216). -/
noncomputable def decode59 (w : Word) : Option Instr :=
  if (field w 0 8).toNat == 0 then
    some (.shrdLo (field w 17 7) (field w 16 1) (field w 8 8))
  else
  if (field w 0 8).toNat == 1 then
    some (.shrdHi (field w 17 7) (field w 16 1) (field w 8 8))
  else
  none

/-- The words of opcode 0x5A (R217). -/
noncomputable def decode5A (w : Word) : Option Instr :=
  if (field w 16 1).toNat == 0 then
    some (.shwr (field w 17 7) (field w 8 8) (field w 0 8))
  else
  none

/-- The words of opcode 0x5B (R218). -/
noncomputable def decode5B (w : Word) : Option Instr :=
  if (field w 7 9).toNat == 254 then
    some (.arrget (field w 17 7) (field w 16 1) (field w 4 3) (field w 0 4))
  else
  if (field w 7 9).toNat == 255 && (field w 4 3).toNat == 0 then
    some (.arrgetBase64 (field w 17 7) (field w 16 1) (field w 0 4))
  else
  none

/-- The words of opcode 0x5C (R219). -/
noncomputable def decode5C (w : Word) : Option Instr :=
  if (field w 22 2).toNat == 0 && (field w 6 6).toNat == 0 then
    some (.arrset (field w 18 4) (field w 12 6) (field w 0 6))
  else
  none

/-- The words of opcodes 0x50 to 0x5F, by the low four bits of the opcode (R146). -/
noncomputable def decodeRow5 (lo : Nat) (w : Word) : Option Instr :=
  match lo with
  | 0 => decode50 w
  | 1 => decode51 w
  | 2 => decode52 w
  | 3 => decode53 w
  | 4 => decode54 w
  | 5 => decode55 w
  | 6 => decode56 w
  | 8 => decode58 w
  | 9 => decode59 w
  | 10 => decode5A w
  | 11 => decode5B w
  | 12 => decode5C w
  | _ => none

/-- The words of opcode 0x6C (R241). -/
noncomputable def decode6C (w : Word) : Option Instr :=
  if (field w 0 6).toNat == 0 then
    some (.fmodFsub (field w 17 7) (field w 16 1) (field w 8 8) (field w 6 2))
  else
  if (field w 0 6).toNat == 1 then
    some (.fmodFmin (field w 17 7) (field w 16 1) (field w 8 8) (field w 6 2))
  else
  if (field w 0 6).toNat == 2 then
    some (.fmodFmax (field w 17 7) (field w 16 1) (field w 8 8) (field w 6 2))
  else
  if (field w 0 6).toNat == 3 then
    some (.fabs (field w 17 7) (field w 16 1) (field w 8 8) (field w 6 2))
  else
  if (field w 0 6).toNat == 4 then
    some (.fneg (field w 17 7) (field w 16 1) (field w 8 8) (field w 6 2))
  else
  if (field w 0 6).toNat == 5 then
    some (.fcps (field w 17 7) (field w 16 1) (field w 8 8) (field w 6 2))
  else
  none

/-- The words of opcode 0x6D (R244). -/
noncomputable def decode6D (w : Word) : Option Instr :=
  if (field w 0 6).toNat == 0 then
    some (.rcp (field w 17 7) (field w 16 1) (field w 8 8) (field w 6 2))
  else
  if (field w 0 6).toNat == 1 then
    some (.rsq (field w 17 7) (field w 16 1) (field w 8 8) (field w 6 2))
  else
  if (field w 0 6).toNat == 2 then
    some (.sqrt (field w 17 7) (field w 16 1) (field w 8 8) (field w 6 2))
  else
  if (field w 0 6).toNat == 3 then
    some (.ex2 (field w 17 7) (field w 16 1) (field w 8 8) (field w 6 2))
  else
  if (field w 0 6).toNat == 4 then
    some (.lg2 (field w 17 7) (field w 16 1) (field w 8 8) (field w 6 2))
  else
  if (field w 0 6).toNat == 5 then
    some (.sin (field w 17 7) (field w 16 1) (field w 8 8) (field w 6 2))
  else
  if (field w 0 6).toNat == 6 then
    some (.cos (field w 17 7) (field w 16 1) (field w 8 8) (field w 6 2))
  else
  if (field w 0 6).toNat == 7 then
    some (.tanh (field w 17 7) (field w 16 1) (field w 8 8) (field w 6 2))
  else
  none

/-- The words of opcodes 0x60 to 0x6F, by the low four bits of the opcode (R146). -/
noncomputable def decodeRow6 (lo : Nat) (w : Word) : Option Instr :=
  match lo with
  | 0 => some (.faddF32 (field w 17 7) (field w 16 1) (field w 8 8) (field w 0 8))
  | 1 => some (.fsubF32 (field w 17 7) (field w 16 1) (field w 8 8) (field w 0 8))
  | 2 => some (.fmulF32 (field w 17 7) (field w 16 1) (field w 8 8) (field w 0 8))
  | 3 => some (.fmaF32 (field w 17 7) (field w 16 1) (field w 8 8) (field w 0 8))
  | 4 => some (.fminF32 (field w 17 7) (field w 16 1) (field w 8 8) (field w 0 8))
  | 5 => some (.fmaxF32 (field w 17 7) (field w 16 1) (field w 8 8) (field w 0 8))
  | 6 => some (.faddF16 (field w 17 7) (field w 16 1) (field w 8 8) (field w 0 8))
  | 7 => some (.fmulF16 (field w 17 7) (field w 16 1) (field w 8 8) (field w 0 8))
  | 8 => some (.fmaF16 (field w 17 7) (field w 16 1) (field w 8 8) (field w 0 8))
  | 9 => some (.faddBf16 (field w 17 7) (field w 16 1) (field w 8 8) (field w 0 8))
  | 10 => some (.fmulBf16 (field w 17 7) (field w 16 1) (field w 8 8) (field w 0 8))
  | 11 => some (.fmaBf16 (field w 17 7) (field w 16 1) (field w 8 8) (field w 0 8))
  | 12 => decode6C w
  | 13 => decode6D w
  | 14 => some (.fcmpF32 (field w 18 6) (field w 16 2) (field w 8 8) (field w 0 8))
  | 15 => some (.fcmpH (field w 18 6) (field w 16 2) (field w 8 8) (field w 0 8))
  | _ => none

/-- The words of opcode 0x74 (R252). -/
noncomputable def decode74 (w : Word) : Option Instr :=
  if (field w 3 5).toNat == 0 then
    some (.tunp (field w 17 7) (field w 16 1) (field w 8 8) (field w 2 1) (field w 0 2))
  else
  none

/-- The words of opcode 0x76 (R254). -/
noncomputable def decode76 (w : Word) : Option Instr :=
  if (field w 17 7).toNat == 0 && (field w 16 1).toNat == 0 && (field w 0 8).toNat == 0 then
    some (.seed (field w 8 8))
  else
  if (field w 8 8).toNat == 127 && (field w 0 8).toNat == 1 then
    some (.seedRd (field w 17 7) (field w 16 1))
  else
  none

/-- The words of opcode 0x77 (R255). -/
noncomputable def decode77 (w : Word) : Option Instr :=
  if (field w 8 8).toNat == 127 && (field w 0 8).toNat == 0 then
    some (.fsrd (field w 17 7) (field w 16 1))
  else
  if (field w 0 8).toNat == 1 then
    some (.fsrdClr (field w 17 7) (field w 16 1) (field w 8 8))
  else
  none

/-- The words of opcode 0x7C (R241). -/
noncomputable def decode7C (w : Word) : Option Instr :=
  if (field w 0 8).toNat == 1 then
    some (.fminF64 (field w 17 7) (field w 16 1) (field w 8 8))
  else
  if (field w 0 8).toNat == 2 then
    some (.fmaxF64 (field w 17 7) (field w 16 1) (field w 8 8))
  else
  if (field w 0 8).toNat == 3 then
    some (.fabsF64 (field w 17 7) (field w 16 1) (field w 8 8))
  else
  if (field w 0 8).toNat == 4 then
    some (.fnegF64 (field w 17 7) (field w 16 1) (field w 8 8))
  else
  if (field w 0 8).toNat == 5 then
    some (.fcpsF64 (field w 17 7) (field w 16 1) (field w 8 8))
  else
  none

/-- The words of opcode 0x7F (R244). -/
noncomputable def decode7F (w : Word) : Option Instr :=
  if (field w 0 8).toNat == 0 then
    some (.rcpF64 (field w 17 7) (field w 16 1) (field w 8 8))
  else
  if (field w 0 8).toNat == 1 then
    some (.rsqF64 (field w 17 7) (field w 16 1) (field w 8 8))
  else
  if (field w 0 8).toNat == 2 then
    some (.sqrtF64 (field w 17 7) (field w 16 1) (field w 8 8))
  else
  none

/-- The words of opcodes 0x70 to 0x7F, by the low four bits of the opcode (R146). -/
noncomputable def decodeRow7 (lo : Nat) (w : Word) : Option Instr :=
  match lo with
  | 0 => some (.cvtF (field w 17 7) (field w 16 1) (field w 8 8) (field w 5 3) (field w 3 2) (field w 0 3))
  | 1 => some (.cvtI (field w 17 7) (field w 16 1) (field w 8 8) (field w 5 3) (field w 3 2) (field w 0 3))
  | 2 => some (.cvtn (field w 17 7) (field w 16 1) (field w 8 8) (field w 0 8))
  | 3 => some (.cvtnf (field w 17 7) (field w 16 1) (field w 8 8) (field w 0 8))
  | 4 => decode74 w
  | 5 => some (.tdot (field w 17 7) (field w 16 1) (field w 8 8) (field w 0 8))
  | 6 => decode76 w
  | 7 => decode77 w
  | 8 => some (.faddF64 (field w 17 7) (field w 16 1) (field w 8 8) (field w 0 8))
  | 9 => some (.fsubF64 (field w 17 7) (field w 16 1) (field w 8 8) (field w 0 8))
  | 10 => some (.fmulF64 (field w 17 7) (field w 16 1) (field w 8 8) (field w 0 8))
  | 11 => some (.fmaF64 (field w 17 7) (field w 16 1) (field w 8 8) (field w 0 8))
  | 12 => decode7C w
  | 13 => some (.fcmpF64 (field w 18 6) (field w 16 2) (field w 8 8) (field w 0 8))
  | 14 => some (.cvtF64 (field w 17 7) (field w 16 1) (field w 8 8) (field w 5 3) (field w 4 1) (field w 0 4))
  | 15 => decode7F w
  | _ => none

/-- The words of opcodes 0x80 to 0x8F, by the low four bits of the opcode (R146). -/
noncomputable def decodeRow8 (lo : Nat) (w : Word) : Option Instr :=
  match lo with
  | 0 => some (.ldN8 (field w 17 7) (field w 16 1) (field w 8 8) (field w 4 4) (field w 0 4))
  | 1 => some (.ldI8 (field w 17 7) (field w 16 1) (field w 8 8) (field w 4 4) (field w 0 4))
  | 2 => some (.ldN16 (field w 17 7) (field w 16 1) (field w 8 8) (field w 4 4) (field w 0 4))
  | 3 => some (.ldI16 (field w 17 7) (field w 16 1) (field w 8 8) (field w 4 4) (field w 0 4))
  | 4 => some (.ld32 (field w 17 7) (field w 16 1) (field w 8 8) (field w 4 4) (field w 0 4))
  | 5 => some (.ld64 (field w 17 7) (field w 16 1) (field w 8 8) (field w 4 4) (field w 0 4))
  | 6 => some (.st8 (field w 17 7) (field w 16 1) (field w 8 8) (field w 4 4) (field w 0 4))
  | 7 => some (.st16 (field w 17 7) (field w 16 1) (field w 8 8) (field w 4 4) (field w 0 4))
  | 8 => some (.st32 (field w 17 7) (field w 16 1) (field w 8 8) (field w 4 4) (field w 0 4))
  | 9 => some (.st64 (field w 17 7) (field w 16 1) (field w 8 8) (field w 4 4) (field w 0 4))
  | 10 => some (.ldro32 (field w 17 7) (field w 16 1) (field w 8 8) (field w 4 4) (field w 0 4))
  | 11 => some (.ldro64 (field w 17 7) (field w 16 1) (field w 8 8) (field w 4 4) (field w 0 4))
  | 12 => some (.lds32 (field w 17 7) (field w 16 1) (field w 8 8) (field w 4 4) (field w 0 4))
  | 13 => some (.sts32 (field w 17 7) (field w 16 1) (field w 8 8) (field w 4 4) (field w 0 4))
  | 14 => some (.lds64 (field w 17 7) (field w 16 1) (field w 8 8) (field w 4 4) (field w 0 4))
  | 15 => some (.sts64 (field w 17 7) (field w 16 1) (field w 8 8) (field w 4 4) (field w 0 4))
  | _ => none

/-- The words of opcode 0x94 (R282). -/
noncomputable def decode94 (w : Word) : Option Instr :=
  if (field w 16 8).toNat == 0 then
    some (.spill (field w 8 8) (field w 0 8))
  else
  none

/-- The words of opcode 0x95 (R282). -/
noncomputable def decode95 (w : Word) : Option Instr :=
  if (field w 8 9).toNat == 127 then
    some (.fill (field w 17 7) (field w 0 8))
  else
  none

/-- The words of opcode 0x96 (R289). -/
noncomputable def decode96 (w : Word) : Option Instr :=
  if (field w 16 8).toNat == 0 && (field w 6 1).toNat == 0 then
    some (.tacq (field w 8 8) (field w 7 1) (field w 0 6))
  else
  if (field w 6 1).toNat == 1 then
    some (.tacqFill (field w 16 8) (field w 8 8) (field w 7 1) (field w 0 6))
  else
  none

/-- The words of opcode 0x97 (R290). -/
noncomputable def decode97 (w : Word) : Option Instr :=
  if (field w 16 8).toNat == 0 && (field w 8 8).toNat == 127 && (field w 6 2).toNat == 0 then
    some (.trel (field w 0 6))
  else
  if (field w 6 2).toNat == 1 then
    some (.trelWb (field w 16 8) (field w 8 8) (field w 0 6))
  else
  none

/-- The words of opcode 0x98 (R291). -/
noncomputable def decode98 (w : Word) : Option Instr :=
  if (field w 1 7).toNat == 0 then
    some (.copy (field w 16 8) (field w 8 8) (field w 0 1))
  else
  none

/-- The words of opcode 0x99 (R292). -/
noncomputable def decode99 (w : Word) : Option Instr :=
  if (field w 1 7).toNat == 0 then
    some (.copym (field w 16 8) (field w 8 8) (field w 0 1))
  else
  none

/-- The words of opcode 0x9A (R293). -/
noncomputable def decode9A (w : Word) : Option Instr :=
  if (field w 7 1).toNat == 0 then
    some (.mcast (field w 16 8) (field w 8 8) (field w 6 1) (field w 0 6))
  else
  none

/-- The words of opcode 0x9B (R294). -/
noncomputable def decode9B (w : Word) : Option Instr :=
  if (field w 0 8).toNat == 0 then
    some (.pfxL2 (field w 16 8) (field w 8 8))
  else
  if (field w 0 8).toNat == 1 then
    some (.pfxVault (field w 16 8) (field w 8 8))
  else
  none

/-- The words of opcode 0x9C (R283). -/
noncomputable def decode9C (w : Word) : Option Instr :=
  if (field w 7 1).toNat == 0 then
    some (.ldt (field w 17 7) (field w 16 1) (field w 8 8) (field w 6 1) (field w 0 6))
  else
  none

/-- The words of opcode 0x9D (R283). -/
noncomputable def decode9D (w : Word) : Option Instr :=
  if (field w 7 1).toNat == 0 then
    some (.stt (field w 17 7) (field w 16 1) (field w 8 8) (field w 6 1) (field w 0 6))
  else
  none

/-- The words of opcode 0x9E (R284). -/
noncomputable def decode9E (w : Word) : Option Instr :=
  if (field w 6 2).toNat == 0 then
    some (.dsld (field w 17 7) (field w 16 1) (field w 8 8) (field w 5 1) (field w 4 1) (field w 0 4))
  else
  none

/-- The words of opcode 0x9F (R284). -/
noncomputable def decode9F (w : Word) : Option Instr :=
  if (field w 6 2).toNat == 0 then
    some (.dsst (field w 17 7) (field w 16 1) (field w 8 8) (field w 5 1) (field w 4 1) (field w 0 4))
  else
  none

/-- The words of opcodes 0x90 to 0x9F, by the low four bits of the opcode (R146). -/
noncomputable def decodeRow9 (lo : Nat) (w : Word) : Option Instr :=
  match lo with
  | 0 => some (.ldg32 (field w 17 7) (field w 16 1) (field w 8 8) (field w 0 8))
  | 1 => some (.stg32 (field w 17 7) (field w 16 1) (field w 8 8) (field w 0 8))
  | 2 => some (.ldg64 (field w 17 7) (field w 16 1) (field w 8 8) (field w 0 8))
  | 3 => some (.stg64 (field w 17 7) (field w 16 1) (field w 8 8) (field w 0 8))
  | 4 => decode94 w
  | 5 => decode95 w
  | 6 => decode96 w
  | 7 => decode97 w
  | 8 => decode98 w
  | 9 => decode99 w
  | 10 => decode9A w
  | 11 => decode9B w
  | 12 => decode9C w
  | 13 => decode9D w
  | 14 => decode9E w
  | 15 => decode9F w
  | _ => none

/-- The words of opcode 0xA0 (R304). -/
noncomputable def decodeA0 (w : Word) : Option Instr :=
  if (field w 7 1).toNat == 0 then
    some (.mma (field w 16 8) (field w 8 8) (field w 6 1) (field w 5 1) (field w 4 1) (field w 3 1) (field w 2 1) (field w 0 2))
  else
  none

/-- The words of opcode 0xA1 (R304). -/
noncomputable def decodeA1 (w : Word) : Option Instr :=
  if (field w 7 1).toNat == 0 then
    some (.mmaNf (field w 16 8) (field w 8 8) (field w 6 1) (field w 5 1) (field w 4 1) (field w 3 1) (field w 2 1) (field w 0 2))
  else
  none

/-- The words of opcode 0xA2 (R304). -/
noncomputable def decodeA2 (w : Word) : Option Instr :=
  if (field w 7 1).toNat == 0 then
    some (.mmaF64 (field w 16 8) (field w 8 8) (field w 6 1) (field w 5 1) (field w 4 1) (field w 3 1) (field w 2 1) (field w 0 2))
  else
  none

/-- The words of opcode 0xA3 (R317). -/
noncomputable def decodeA3 (w : Word) : Option Instr :=
  if (field w 16 8).toNat == 0 && (field w 0 8).toNat == 0 then
    some (.mmaCont (field w 8 8))
  else
  none

/-- The words of opcode 0xA4 (R310). -/
noncomputable def decodeA4 (w : Word) : Option Instr :=
  if (field w 6 2).toNat == 0 then
    some (.mmat (field w 16 8) (field w 8 8) (field w 5 1) (field w 4 1) (field w 3 1) (field w 1 2) (field w 0 1))
  else
  none

/-- The words of opcode 0xA5 (R317). -/
noncomputable def decodeA5 (w : Word) : Option Instr :=
  if (field w 16 8).toNat == 0 && (field w 0 8).toNat == 0 then
    some (.mmatCont (field w 8 8))
  else
  none

/-- The words of opcode 0xA6 (R310). -/
noncomputable def decodeA6 (w : Word) : Option Instr :=
  if (field w 6 2).toNat == 0 then
    some (.mmatNf (field w 16 8) (field w 8 8) (field w 5 1) (field w 4 1) (field w 3 1) (field w 1 2) (field w 0 1))
  else
  none

/-- The words of opcode 0xA8 (R338). -/
noncomputable def decodeA8 (w : Word) : Option Instr :=
  if (field w 20 4).toNat == 0 && (field w 0 8).toNat == 0 then
    some (.slset (field w 16 4) (field w 8 8))
  else
  none

/-- The words of opcode 0xA9 (R338). -/
noncomputable def decodeA9 (w : Word) : Option Instr :=
  if (field w 20 4).toNat == 0 && (field w 6 2).toNat == 0 then
    some (.slgrow (field w 16 4) (field w 8 8) (field w 0 6))
  else
  none

/-- The words of opcode 0xAA (R339). -/
noncomputable def decodeAA (w : Word) : Option Instr :=
  if (field w 4 4).toNat == 0 then
    some (.slxl (field w 17 7) (field w 16 1) (field w 8 8) (field w 0 4))
  else
  if (field w 4 4).toNat == 1 then
    some (.slxlPg (field w 17 7) (field w 16 1) (field w 8 8) (field w 0 4))
  else
  none

/-- The words of opcode 0xAB (R338). -/
noncomputable def decodeAB (w : Word) : Option Instr :=
  if (field w 20 4).toNat == 0 && (field w 6 2).toNat == 0 then
    some (.slapp (field w 16 4) (field w 8 8) (field w 0 6))
  else
  none

/-- The words of opcode 0xAC (R340). -/
noncomputable def decodeAC (w : Word) : Option Instr :=
  if (field w 23 1).toNat == 0 && (field w 7 1).toNat == 0 then
    some (.osm (field w 16 7) (field w 8 8) (field w 0 7))
  else
  if (field w 23 1).toNat == 0 && (field w 7 1).toNat == 1 then
    some (.osmMrg (field w 16 7) (field w 8 8) (field w 0 7))
  else
  none

/-- The words of opcode 0xAD (R341). -/
noncomputable def decodeAD (w : Word) : Option Instr :=
  if (field w 23 1).toNat == 0 && (field w 7 1).toNat == 0 then
    some (.osmn (field w 16 7) (field w 8 8) (field w 0 7))
  else
  none

/-- The words of opcode 0xAE (R342). -/
noncomputable def decodeAE (w : Word) : Option Instr :=
  if (field w 22 2).toNat == 0 && (field w 0 8).toNat == 0 then
    some (.sbsend (field w 16 6) (field w 8 8))
  else
  none

/-- The words of opcode 0xAF (R342). -/
noncomputable def decodeAF (w : Word) : Option Instr :=
  if (field w 22 2).toNat == 0 && (field w 1 7).toNat == 0 then
    some (.sbmrg (field w 16 6) (field w 8 8) (field w 0 1))
  else
  none

/-- The words of opcodes 0xA0 to 0xAF, by the low four bits of the opcode (R146). -/
noncomputable def decodeRowA (lo : Nat) (w : Word) : Option Instr :=
  match lo with
  | 0 => decodeA0 w
  | 1 => decodeA1 w
  | 2 => decodeA2 w
  | 3 => decodeA3 w
  | 4 => decodeA4 w
  | 5 => decodeA5 w
  | 6 => decodeA6 w
  | 8 => decodeA8 w
  | 9 => decodeA9 w
  | 10 => decodeAA w
  | 11 => decodeAB w
  | 12 => decodeAC w
  | 13 => decodeAD w
  | 14 => decodeAE w
  | 15 => decodeAF w
  | _ => none

/-- The words of opcode 0xB0 (R343). -/
noncomputable def decodeB0 (w : Word) : Option Instr :=
  if (field w 20 4).toNat == 0 && (field w 0 8).toNat == 0 then
    some (.psel (field w 16 4) (field w 8 8))
  else
  none

/-- The words of opcode 0xB1 (R344). -/
noncomputable def decodeB1 (w : Word) : Option Instr :=
  if (field w 20 4).toNat == 0 && (field w 0 8).toNat == 0 then
    some (.kvpk (field w 16 4) (field w 8 8))
  else
  none

/-- The words of opcode 0xB2 (R344). -/
noncomputable def decodeB2 (w : Word) : Option Instr :=
  if (field w 20 4).toNat == 0 && (field w 0 8).toNat == 0 then
    some (.kvunp (field w 16 4) (field w 8 8))
  else
  none

/-- The words of opcode 0xB4 (R362). -/
noncomputable def decodeB4 (w : Word) : Option Instr :=
  if (field w 2 22).toNat == 8128 then
    some (.nbmode (field w 1 1) (field w 0 1))
  else
  none

/-- The words of opcode 0xB5 (R363). -/
noncomputable def decodeB5 (w : Word) : Option Instr :=
  if (field w 23 1).toNat == 0 && (field w 3 5).toNat == 0 then
    some (.nbbc (field w 16 7) (field w 8 8) (field w 0 3))
  else
  none

/-- The words of opcode 0xB6 (R365). -/
noncomputable def decodeB6 (w : Word) : Option Instr :=
  if (field w 22 2).toNat == 0 then
    some (.nbmac (field w 19 3) (field w 16 3) (field w 8 8) (field w 7 1) (field w 6 1) (field w 5 1) (field w 0 5))
  else
  none

/-- The words of opcode 0xB7 (R366). -/
noncomputable def decodeB7 (w : Word) : Option Instr :=
  if (field w 19 5).toNat == 0 && (field w 5 3).toNat == 0 then
    some (.nbrd (field w 16 3) (field w 8 8) (field w 4 1) (field w 3 1) (field w 0 3))
  else
  none

/-- The words of opcode 0xB8 (R364). -/
noncomputable def decodeB8 (w : Word) : Option Instr :=
  if (field w 19 5).toNat == 0 && (field w 0 8).toNat == 0 then
    some (.nbldw (field w 16 3) (field w 8 8))
  else
  none

/-- The words of opcode 0xB9 (R368). -/
noncomputable def decodeB9 (w : Word) : Option Instr :=
  if (field w 16 8).toNat == 0 && (field w 2 6).toNat == 0 then
    some (.fenceBank (field w 8 8) (field w 0 2))
  else
  none

/-- The words of opcode 0xBC (R400). -/
noncomputable def decodeBC (w : Word) : Option Instr :=
  if (field w 8 6).toNat == 0 then
    some (.bar (field w 14 10) (field w 0 8))
  else
  none

/-- The words of opcode 0xBD (R400). -/
noncomputable def decodeBD (w : Word) : Option Instr :=
  if (field w 8 6).toNat == 0 then
    some (.bara (field w 14 10) (field w 0 8))
  else
  none

/-- The words of opcode 0xBE (R400). -/
noncomputable def decodeBE (w : Word) : Option Instr :=
  if (field w 8 6).toNat == 0 then
    some (.cbar (field w 14 10) (field w 0 8))
  else
  none

/-- The words of opcode 0xBF (R400). -/
noncomputable def decodeBF (w : Word) : Option Instr :=
  if (field w 8 6).toNat == 0 then
    some (.cbara (field w 14 10) (field w 0 8))
  else
  none

/-- The words of opcodes 0xB0 to 0xBF, by the low four bits of the opcode (R146). -/
noncomputable def decodeRowB (lo : Nat) (w : Word) : Option Instr :=
  match lo with
  | 0 => decodeB0 w
  | 1 => decodeB1 w
  | 2 => decodeB2 w
  | 4 => decodeB4 w
  | 5 => decodeB5 w
  | 6 => decodeB6 w
  | 7 => decodeB7 w
  | 8 => decodeB8 w
  | 9 => decodeB9 w
  | 10 => some (.nbclr (field w 16 8) (field w 8 8) (field w 0 8))
  | 12 => decodeBC w
  | 13 => decodeBD w
  | 14 => decodeBE w
  | 15 => decodeBF w
  | _ => none

/-- The words of opcode 0xC2 (R391). -/
noncomputable def decodeC2 (w : Word) : Option Instr :=
  if (field w 11 3).toNat == 0 then
    some (.cas32 (field w 17 7) (field w 14 3) (field w 4 7) (field w 0 4))
  else
  none

/-- The words of opcode 0xC3 (R391). -/
noncomputable def decodeC3 (w : Word) : Option Instr :=
  if (field w 11 3).toNat == 0 then
    some (.cas64 (field w 17 7) (field w 14 3) (field w 4 7) (field w 0 4))
  else
  none

/-- The words of opcode 0xC6 (R396). -/
noncomputable def decodeC6 (w : Word) : Option Instr :=
  if (field w 3 21).toNat == 0 then
    some (.fence (field w 0 3))
  else
  none

/-- The words of opcode 0xC7 (R397). -/
noncomputable def decodeC7 (w : Word) : Option Instr :=
  if (field w 9 15).toNat == 0 && (field w 0 3).toNat == 0 then
    some (.waitCopy (field w 3 6))
  else
  if (field w 9 15).toNat == 0 && (field w 0 3).toNat == 1 then
    some (.waitMatrix (field w 3 6))
  else
  if (field w 9 15).toNat == 0 && (field w 0 3).toNat == 2 then
    some (.waitGather (field w 3 6))
  else
  if (field w 9 15).toNat == 0 && (field w 0 3).toNat == 3 then
    some (.waitNearBank (field w 3 6))
  else
  if (field w 9 15).toNat == 0 && (field w 0 3).toNat == 4 then
    some (.waitCollective (field w 3 6))
  else
  none

/-- The words of opcode 0xC8 (R395). -/
noncomputable def decodeC8 (w : Word) : Option Instr :=
  if (field w 0 8).toNat == 0 then
    some (.sigwSt (field w 16 8) (field w 8 8))
  else
  if (field w 0 8).toNat == 1 then
    some (.sigwAdd (field w 16 8) (field w 8 8))
  else
  if (field w 0 8).toNat == 2 then
    some (.sigwMax (field w 16 8) (field w 8 8))
  else
  none

/-- The words of opcode 0xC9 (R394). -/
noncomputable def decodeC9 (w : Word) : Option Instr :=
  if (field w 12 2).toNat == 0 then
    some (.ldacq (field w 17 7) (field w 14 3) (field w 11 1) (field w 4 7) (field w 0 4))
  else
  none

/-- The words of opcode 0xCA (R394). -/
noncomputable def decodeCA (w : Word) : Option Instr :=
  if (field w 12 2).toNat == 0 then
    some (.strel (field w 17 7) (field w 14 3) (field w 11 1) (field w 4 7) (field w 0 4))
  else
  none

/-- The words of opcodes 0xC0 to 0xCF, by the low four bits of the opcode (R146). -/
noncomputable def decodeRowC (lo : Nat) (w : Word) : Option Instr :=
  match lo with
  | 0 => some (.atom32 (field w 17 7) (field w 14 3) (field w 11 3) (field w 4 7) (field w 0 4))
  | 1 => some (.atom64 (field w 17 7) (field w 14 3) (field w 11 3) (field w 4 7) (field w 0 4))
  | 2 => decodeC2 w
  | 3 => decodeC3 w
  | 4 => some (.red32 (field w 17 7) (field w 14 3) (field w 11 3) (field w 4 7) (field w 0 4))
  | 5 => some (.red64 (field w 17 7) (field w 14 3) (field w 11 3) (field w 4 7) (field w 0 4))
  | 6 => decodeC6 w
  | 7 => decodeC7 w
  | 8 => decodeC8 w
  | 9 => decodeC9 w
  | 10 => decodeCA w
  | _ => none

/-- The words of opcode 0xD0 (R421). -/
noncomputable def decodeD0 (w : Word) : Option Instr :=
  if (field w 16 8).toNat == 0 then
    some (.trap (field w 0 16))
  else
  none

/-- The words of opcode 0xD1 (R422). -/
noncomputable def decodeD1 (w : Word) : Option Instr :=
  if (field w 0 24).toNat == 0 then
    some (.brk)
  else
  none

/-- The words of opcode 0xD2 (R420). -/
noncomputable def decodeD2 (w : Word) : Option Instr :=
  if (field w 0 24).toNat == 0 then
    some (.tretResume)
  else
  if (field w 0 24).toNat == 1 then
    some (.tretKill)
  else
  if (field w 0 24).toNat == 2 then
    some (.tretKillgrid)
  else
  if (field w 0 24).toNat == 3 then
    some (.tretHost)
  else
  none

/-- The words of opcode 0xD3 (R418). -/
noncomputable def decodeD3 (w : Word) : Option Instr :=
  if (field w 5 3).toNat == 0 then
    some (.trrd (field w 17 7) (field w 16 1) (field w 8 8) (field w 4 1) (field w 0 4))
  else
  none

/-- The words of opcode 0xD4 (R419). -/
noncomputable def decodeD4 (w : Word) : Option Instr :=
  if (field w 16 1).toNat == 0 && (field w 4 4).toNat == 0 then
    some (.trwr (field w 17 7) (field w 8 8) (field w 0 4))
  else
  none

/-- The words of opcode 0xD5 (R469). -/
noncomputable def decodeD5 (w : Word) : Option Instr :=
  if (field w 8 8).toNat == 127 then
    some (.evrd (field w 17 7) (field w 16 1) (field w 7 1) (field w 6 1) (field w 0 6))
  else
  none

/-- The words of opcodes 0xD0 to 0xDF, by the low four bits of the opcode (R146). -/
noncomputable def decodeRowD (lo : Nat) (w : Word) : Option Instr :=
  match lo with
  | 0 => decodeD0 w
  | 1 => decodeD1 w
  | 2 => decodeD2 w
  | 3 => decodeD3 w
  | 4 => decodeD4 w
  | 5 => decodeD5 w
  | _ => none

/-- The words of opcode 0xE1 (R155). -/
noncomputable def decodeE1 (w : Word) : Option Instr :=
  if (field w 0 9).toNat == 0 then
    some (.blk (field w 21 3) (field w 18 3) (field w 12 6) (field w 11 1) (field w 10 1) (field w 9 1))
  else
  none

/-- The words of opcode 0xE2 (R156). -/
noncomputable def decodeE2 (w : Word) : Option Instr :=
  if (field w 0 14).toNat == 0 then
    some (.grd (field w 18 6) (field w 17 1) (field w 14 3))
  else
  none

/-- The words of opcode 0xE5 (R159). -/
noncomputable def decodeE5 (w : Word) : Option Instr :=
  if (field w 0 24).toNat == 0 then
    some (.region)
  else
  none

/-- The words of opcode 0xE6 (R160). -/
noncomputable def decodeE6 (w : Word) : Option Instr :=
  if (field w 0 22).toNat == 0 then
    some (.pref (field w 22 2))
  else
  none

/-- The words of opcode 0xE7 (R161). -/
noncomputable def decodeE7 (w : Word) : Option Instr :=
  if (field w 0 17).toNat == 0 then
    some (.sched (field w 23 1) (field w 17 6))
  else
  none

/-- The words of opcodes 0xE0 to 0xEF, by the low four bits of the opcode (R146). -/
noncomputable def decodeRowE (lo : Nat) (w : Word) : Option Instr :=
  match lo with
  | 0 => some (.lit (field w 0 24))
  | 1 => decodeE1 w
  | 2 => decodeE2 w
  | 3 => some (.live (field w 0 24))
  | 4 => some (.step (field w 0 24))
  | 5 => decodeE5 w
  | 6 => decodeE6 w
  | 7 => decodeE7 w
  | _ => none

/-- The instruction a word encodes, if any row of the opcode map holds it. -/
noncomputable def decodeFields (w : Word) : Option Instr :=
  let lo := (field w 24 4).toNat
  match (field w 28 4).toNat with
  | 0 => decodeRow0 lo w
  | 1 => decodeRow1 lo w
  | 2 => decodeRow2 lo w
  | 3 => decodeRow3 lo w
  | 4 => decodeRow4 lo w
  | 5 => decodeRow5 lo w
  | 6 => decodeRow6 lo w
  | 7 => decodeRow7 lo w
  | 8 => decodeRow8 lo w
  | 9 => decodeRow9 lo w
  | 10 => decodeRowA lo w
  | 11 => decodeRowB lo w
  | 12 => decodeRowC lo w
  | 13 => decodeRowD lo w
  | 14 => decodeRowE lo w
  | _ => none

/-- The opcodes that R146 assigns, hints included. -/
def assignedOpcode (op : Nat) : Bool :=
  (1 ≤ op && op ≤ 67)
  || (72 ≤ op && op ≤ 86)
  || (88 ≤ op && op ≤ 92)
  || (96 ≤ op && op ≤ 166)
  || (168 ≤ op && op ≤ 178)
  || (180 ≤ op && op ≤ 186)
  || (188 ≤ op && op ≤ 202)
  || (208 ≤ op && op ≤ 213)
  || (224 ≤ op && op ≤ 231)

/-- Reason 4 within an assigned opcode: the operand positions whose code, destination or write bit an entry fixes
(R215 to R218, R254, R255, R282, R285, R362, R469); every other undefined field is reason 3 (R136, R150). An ARRGET with both is
reason 4. DESIGN CHOICE (log 11), unsafe. -/
def badOperandField (w : Word) : Bool :=
  let f := (field w 0 8).toNat
  let a := (field w 8 8).toNat
  let wb := (field w 16 1).toNat
  match (opcodeOf w).toNat with
  | 0x58 => f ≤ 2 && (wb == 1 || (f == 2 && a != 127))
  | 0x5A => wb == 1
  | 0x5B => a != 127
  | 0x76 => (f == 0) || (f == 1 && a != 127)
  | 0x77 => f == 0 && a != 127
  | 0x95 => f ≤ 95 && (wb == 1 || a != 127)
  | 0x97 => (field w 16 8).toNat == 0 && f < 64 && a != 127
  | 0xB4 => (field w 16 8).toNat == 0 && f < 4 && a != 127
  | 0xD5 => a != 127
  | _ => false

/-- The decoder: the instruction of a word, or the name of its rejection (R149 rows 2, 3 and 5). -/
noncomputable def decode (w : Word) : Except DecodeReject Instr :=
  match decodeFields w with
  | some i => .ok i
  | none =>
    let op := (opcodeOf w).toNat
    if op == 0 || op == 255 then .error .permanentlyIllegal
    else if !assignedOpcode op then .error .reservedOpcode
    else if badOperandField w then .error .badOperand
    else .error .undefinedField

/-- The word of an instruction (R137, R147); an operation of the device has none. -/
def encode : Instr → Option Word
  | .mov d w a => some (1#8 ++ d ++ w ++ a ++ 0#8)
  | .not d w a => some (1#8 ++ d ++ w ++ a ++ 1#8)
  | .neg d w a => some (1#8 ++ d ++ w ++ a ++ 2#8)
  | .abs d w a => some (1#8 ++ d ++ w ++ a ++ 3#8)
  | .popc d w a => some (1#8 ++ d ++ w ++ a ++ 4#8)
  | .clz d w a => some (1#8 ++ d ++ w ++ a ++ 5#8)
  | .brev d w a => some (1#8 ++ d ++ w ++ a ++ 6#8)
  | .sxtI8 d w a => some (1#8 ++ d ++ w ++ a ++ 8#8)
  | .sxtI16 d w a => some (1#8 ++ d ++ w ++ a ++ 9#8)
  | .zxtN8 d w a => some (1#8 ++ d ++ w ++ a ++ 10#8)
  | .zxtN16 d w a => some (1#8 ++ d ++ w ++ a ++ 11#8)
  | .sxtI64 d w a => some (1#8 ++ d ++ w ++ a ++ 12#8)
  | .zxtN64 d w a => some (1#8 ++ d ++ w ++ a ++ 13#8)
  | .mov64 d w a => some (1#8 ++ d ++ w ++ a ++ 14#8)
  | .addI32 d w a b => some (2#8 ++ d ++ w ++ a ++ b)
  | .addI32Imm d w a i => some (3#8 ++ d ++ w ++ a ++ i)
  | .subI32 d w a b => some (4#8 ++ d ++ w ++ a ++ b)
  | .subI32Imm d w a i => some (5#8 ++ d ++ w ++ a ++ i)
  | .addSatI32 d w a b => some (6#8 ++ d ++ w ++ a ++ b)
  | .addSatI32Imm d w a i => some (7#8 ++ d ++ w ++ a ++ i)
  | .addSatN32 d w a b => some (8#8 ++ d ++ w ++ a ++ b)
  | .addSatN32Imm d w a i => some (9#8 ++ d ++ w ++ a ++ i)
  | .subSatI32 d w a b => some (10#8 ++ d ++ w ++ a ++ b)
  | .subSatI32Imm d w a i => some (11#8 ++ d ++ w ++ a ++ i)
  | .subSatN32 d w a b => some (12#8 ++ d ++ w ++ a ++ b)
  | .subSatN32Imm d w a i => some (13#8 ++ d ++ w ++ a ++ i)
  | .mulI32 d w a b => some (14#8 ++ d ++ w ++ a ++ b)
  | .mulI32Imm d w a i => some (15#8 ++ d ++ w ++ a ++ i)
  | .mulSatI32 d w a b => some (16#8 ++ d ++ w ++ a ++ b)
  | .mulSatI32Imm d w a i => some (17#8 ++ d ++ w ++ a ++ i)
  | .mulSatN32 d w a b => some (18#8 ++ d ++ w ++ a ++ b)
  | .mulSatN32Imm d w a i => some (19#8 ++ d ++ w ++ a ++ i)
  | .mulhiI32 d w a b => some (20#8 ++ d ++ w ++ a ++ b)
  | .mulhiI32Imm d w a i => some (21#8 ++ d ++ w ++ a ++ i)
  | .mulhiN32 d w a b => some (22#8 ++ d ++ w ++ a ++ b)
  | .mulhiN32Imm d w a i => some (23#8 ++ d ++ w ++ a ++ i)
  | .mulwI32 d w a b => some (24#8 ++ d ++ w ++ a ++ b)
  | .mulwI32Imm d w a i => some (25#8 ++ d ++ w ++ a ++ i)
  | .mulwN32 d w a b => some (26#8 ++ d ++ w ++ a ++ b)
  | .mulwN32Imm d w a i => some (27#8 ++ d ++ w ++ a ++ i)
  | .addI64 d w a b => some (28#8 ++ d ++ w ++ a ++ b)
  | .addI64Imm d w a i => some (29#8 ++ d ++ w ++ a ++ i)
  | .subI64 d w a b => some (30#8 ++ d ++ w ++ a ++ b)
  | .subI64Imm d w a i => some (31#8 ++ d ++ w ++ a ++ i)
  | .divI32 d w a b => some (32#8 ++ d ++ w ++ a ++ b)
  | .divI32Imm d w a i => some (33#8 ++ d ++ w ++ a ++ i)
  | .divN32 d w a b => some (34#8 ++ d ++ w ++ a ++ b)
  | .divN32Imm d w a i => some (35#8 ++ d ++ w ++ a ++ i)
  | .remI32 d w a b => some (36#8 ++ d ++ w ++ a ++ b)
  | .remI32Imm d w a i => some (37#8 ++ d ++ w ++ a ++ i)
  | .remN32 d w a b => some (38#8 ++ d ++ w ++ a ++ b)
  | .remN32Imm d w a i => some (39#8 ++ d ++ w ++ a ++ i)
  | .minI32 d w a b => some (40#8 ++ d ++ w ++ a ++ b)
  | .minI32Imm d w a i => some (41#8 ++ d ++ w ++ a ++ i)
  | .maxI32 d w a b => some (42#8 ++ d ++ w ++ a ++ b)
  | .maxI32Imm d w a i => some (43#8 ++ d ++ w ++ a ++ i)
  | .minN32 d w a b => some (44#8 ++ d ++ w ++ a ++ b)
  | .minN32Imm d w a i => some (45#8 ++ d ++ w ++ a ++ i)
  | .maxN32 d w a b => some (46#8 ++ d ++ w ++ a ++ b)
  | .maxN32Imm d w a i => some (47#8 ++ d ++ w ++ a ++ i)
  | .and d w a b => some (48#8 ++ d ++ w ++ a ++ b)
  | .andImm d w a i => some (49#8 ++ d ++ w ++ a ++ i)
  | .or d w a b => some (50#8 ++ d ++ w ++ a ++ b)
  | .orImm d w a i => some (51#8 ++ d ++ w ++ a ++ i)
  | .xor d w a b => some (52#8 ++ d ++ w ++ a ++ b)
  | .xorImm d w a i => some (53#8 ++ d ++ w ++ a ++ i)
  | .shl d w a b => some (54#8 ++ d ++ w ++ a ++ b)
  | .shlImm d w a i => some (55#8 ++ d ++ w ++ a ++ i)
  | .shrN32 d w a b => some (56#8 ++ d ++ w ++ a ++ b)
  | .shrN32Imm d w a i => some (57#8 ++ d ++ w ++ a ++ i)
  | .shrI32 d w a b => some (58#8 ++ d ++ w ++ a ++ b)
  | .shrI32Imm d w a i => some (59#8 ++ d ++ w ++ a ++ i)
  | .cmpI32 p c a b => some (60#8 ++ p ++ c ++ a ++ b)
  | .cmpI32Imm p c a i => some (61#8 ++ p ++ c ++ a ++ i)
  | .cmpN32 p c a b => some (62#8 ++ p ++ c ++ a ++ b)
  | .cmpN32Imm p c a i => some (63#8 ++ p ++ c ++ a ++ i)
  | .cmpI64 p c a b => some (64#8 ++ p ++ c ++ a ++ b)
  | .plut p a b l => some (65#8 ++ p ++ 0#2 ++ a ++ b ++ l)
  | .sel d w a b => some (66#8 ++ d ++ w ++ a ++ b)
  | .nop => some (67#8 ++ 0#24)
  | .br g n o => some (72#8 ++ g ++ n ++ 0#1 ++ o)
  | .bru g n o => some (73#8 ++ g ++ n ++ 0#1 ++ o)
  | .call g n o => some (74#8 ++ g ++ n ++ 0#1 ++ o)
  | .calli a => some (75#8 ++ 0#8 ++ a ++ 0#8)
  | .ret => some (76#8 ++ 0#24)
  | .join a => some (77#8 ++ 0#8 ++ a ++ 0#8)
  | .tail => some (78#8 ++ 0#24)
  | .exit => some (79#8 ++ 0#24)
  | .brl g n o => some (80#8 ++ g ++ n ++ 0#1 ++ o)
  | .calll g n o => some (81#8 ++ g ++ n ++ 0#1 ++ o)
  | .uadd d a b i => some (82#8 ++ d ++ a ++ b ++ i ++ 0#5)
  | .usub d a b i => some (82#8 ++ d ++ a ++ b ++ i ++ 1#5)
  | .umul d a b i => some (82#8 ++ d ++ a ++ b ++ i ++ 2#5)
  | .uand d a b i => some (82#8 ++ d ++ a ++ b ++ i ++ 3#5)
  | .uor d a b i => some (82#8 ++ d ++ a ++ b ++ i ++ 4#5)
  | .uxor d a b i => some (82#8 ++ d ++ a ++ b ++ i ++ 5#5)
  | .ushl d a b i => some (82#8 ++ d ++ a ++ b ++ i ++ 6#5)
  | .ushrN64 d a b i => some (82#8 ++ d ++ a ++ b ++ i ++ 7#5)
  | .ushrI64 d a b i => some (82#8 ++ d ++ a ++ b ++ i ++ 8#5)
  | .uminI64 d a b i => some (82#8 ++ d ++ a ++ b ++ i ++ 9#5)
  | .umaxI64 d a b i => some (82#8 ++ d ++ a ++ b ++ i ++ 10#5)
  | .uminN64 d a b i => some (82#8 ++ d ++ a ++ b ++ i ++ 11#5)
  | .umaxN64 d a b i => some (82#8 ++ d ++ a ++ b ++ i ++ 12#5)
  | .umov d a b i => some (82#8 ++ d ++ a ++ b ++ i ++ 13#5)
  | .udivN64 d a b i => some (82#8 ++ d ++ a ++ b ++ i ++ 14#5)
  | .uremN64 d a b i => some (82#8 ++ d ++ a ++ b ++ i ++ 15#5)
  | .udivI64 d a b i => some (82#8 ++ d ++ a ++ b ++ i ++ 16#5)
  | .uremI64 d a b i => some (82#8 ++ d ++ a ++ b ++ i ++ 17#5)
  | .ugetFirst d x w => some (83#8 ++ d ++ 0#2 ++ x ++ w ++ 0#7)
  | .ugetAdd d x w => some (83#8 ++ d ++ 0#2 ++ x ++ w ++ 1#7)
  | .ugetMinI d x w => some (83#8 ++ d ++ 0#2 ++ x ++ w ++ 2#7)
  | .ugetMaxI d x w => some (83#8 ++ d ++ 0#2 ++ x ++ w ++ 3#7)
  | .ugetMinN d x w => some (83#8 ++ d ++ 0#2 ++ x ++ w ++ 4#7)
  | .ugetMaxN d x w => some (83#8 ++ d ++ 0#2 ++ x ++ w ++ 5#7)
  | .ugetAnd d x w => some (83#8 ++ d ++ 0#2 ++ x ++ w ++ 6#7)
  | .ugetOr d x w => some (83#8 ++ d ++ 0#2 ++ x ++ w ++ 7#7)
  | .ugetXor d x w => some (83#8 ++ d ++ 0#2 ++ x ++ w ++ 8#7)
  | .ugetAny d x w => some (83#8 ++ d ++ 0#2 ++ x ++ w ++ 9#7)
  | .ugetAll d x w => some (83#8 ++ d ++ 0#2 ++ x ++ w ++ 10#7)
  | .ugetCount d x w => some (83#8 ++ d ++ 0#2 ++ x ++ w ++ 11#7)
  | .ucmpEq d a b i => some (84#8 ++ d ++ a ++ b ++ i ++ 0#5)
  | .ucmpNe d a b i => some (84#8 ++ d ++ a ++ b ++ i ++ 1#5)
  | .ucmpLtI64 d a b i => some (84#8 ++ d ++ a ++ b ++ i ++ 2#5)
  | .ucmpGeI64 d a b i => some (84#8 ++ d ++ a ++ b ++ i ++ 3#5)
  | .ucmpLtN64 d a b i => some (84#8 ++ d ++ a ++ b ++ i ++ 4#5)
  | .ucmpGeN64 d a b i => some (84#8 ++ d ++ a ++ b ++ i ++ 5#5)
  | .uld d a b s z => some (85#8 ++ d ++ a ++ b ++ 0#3 ++ s ++ z)
  | .post d a b => some (86#8 ++ d ++ a ++ b ++ 0#6)
  | .postSelf d a => some (86#8 ++ d ++ a ++ 0#6 ++ 1#6)
  | .widen d a => some (88#8 ++ d ++ 0#1 ++ a ++ 0#8)
  | .widenCount d a => some (88#8 ++ d ++ 0#1 ++ a ++ 1#8)
  | .widenFull d => some (88#8 ++ d ++ 0#1 ++ 127#8 ++ 2#8)
  | .shrdLo d w a => some (89#8 ++ d ++ w ++ a ++ 0#8)
  | .shrdHi d w a => some (89#8 ++ d ++ w ++ a ++ 1#8)
  | .shwr d a b => some (90#8 ++ d ++ 0#1 ++ a ++ b)
  | .arrget d w f n => some (91#8 ++ d ++ w ++ 254#9 ++ f ++ n)
  | .arrgetBase64 d w n => some (91#8 ++ d ++ w ++ 255#9 ++ 0#3 ++ n)
  | .arrset n a f => some (92#8 ++ 0#2 ++ n ++ a ++ 0#6 ++ f)
  | .faddF32 d w a b => some (96#8 ++ d ++ w ++ a ++ b)
  | .fsubF32 d w a b => some (97#8 ++ d ++ w ++ a ++ b)
  | .fmulF32 d w a b => some (98#8 ++ d ++ w ++ a ++ b)
  | .fmaF32 d w a b => some (99#8 ++ d ++ w ++ a ++ b)
  | .fminF32 d w a b => some (100#8 ++ d ++ w ++ a ++ b)
  | .fmaxF32 d w a b => some (101#8 ++ d ++ w ++ a ++ b)
  | .faddF16 d w a b => some (102#8 ++ d ++ w ++ a ++ b)
  | .fmulF16 d w a b => some (103#8 ++ d ++ w ++ a ++ b)
  | .fmaF16 d w a b => some (104#8 ++ d ++ w ++ a ++ b)
  | .faddBf16 d w a b => some (105#8 ++ d ++ w ++ a ++ b)
  | .fmulBf16 d w a b => some (106#8 ++ d ++ w ++ a ++ b)
  | .fmaBf16 d w a b => some (107#8 ++ d ++ w ++ a ++ b)
  | .fmodFsub d w a t => some (108#8 ++ d ++ w ++ a ++ t ++ 0#6)
  | .fmodFmin d w a t => some (108#8 ++ d ++ w ++ a ++ t ++ 1#6)
  | .fmodFmax d w a t => some (108#8 ++ d ++ w ++ a ++ t ++ 2#6)
  | .fabs d w a t => some (108#8 ++ d ++ w ++ a ++ t ++ 3#6)
  | .fneg d w a t => some (108#8 ++ d ++ w ++ a ++ t ++ 4#6)
  | .fcps d w a t => some (108#8 ++ d ++ w ++ a ++ t ++ 5#6)
  | .rcp d w a t => some (109#8 ++ d ++ w ++ a ++ t ++ 0#6)
  | .rsq d w a t => some (109#8 ++ d ++ w ++ a ++ t ++ 1#6)
  | .sqrt d w a t => some (109#8 ++ d ++ w ++ a ++ t ++ 2#6)
  | .ex2 d w a t => some (109#8 ++ d ++ w ++ a ++ t ++ 3#6)
  | .lg2 d w a t => some (109#8 ++ d ++ w ++ a ++ t ++ 4#6)
  | .sin d w a t => some (109#8 ++ d ++ w ++ a ++ t ++ 5#6)
  | .cos d w a t => some (109#8 ++ d ++ w ++ a ++ t ++ 6#6)
  | .tanh d w a t => some (109#8 ++ d ++ w ++ a ++ t ++ 7#6)
  | .fcmpF32 p c a b => some (110#8 ++ p ++ c ++ a ++ b)
  | .fcmpH p c a b => some (111#8 ++ p ++ c ++ a ++ b)
  | .cvtF d w a r e s => some (112#8 ++ d ++ w ++ a ++ r ++ e ++ s)
  | .cvtI d w a r s e => some (113#8 ++ d ++ w ++ a ++ r ++ s ++ e)
  | .cvtn d w a i => some (114#8 ++ d ++ w ++ a ++ i)
  | .cvtnf d w a i => some (115#8 ++ d ++ w ++ a ++ i)
  | .tunp d w a m k => some (116#8 ++ d ++ w ++ a ++ 0#5 ++ m ++ k)
  | .tdot d w a b => some (117#8 ++ d ++ w ++ a ++ b)
  | .seed a => some (118#8 ++ 0#7 ++ 0#1 ++ a ++ 0#8)
  | .seedRd d w => some (118#8 ++ d ++ w ++ 127#8 ++ 1#8)
  | .fsrd d w => some (119#8 ++ d ++ w ++ 127#8 ++ 0#8)
  | .fsrdClr d w a => some (119#8 ++ d ++ w ++ a ++ 1#8)
  | .faddF64 d w a b => some (120#8 ++ d ++ w ++ a ++ b)
  | .fsubF64 d w a b => some (121#8 ++ d ++ w ++ a ++ b)
  | .fmulF64 d w a b => some (122#8 ++ d ++ w ++ a ++ b)
  | .fmaF64 d w a b => some (123#8 ++ d ++ w ++ a ++ b)
  | .fminF64 d w a => some (124#8 ++ d ++ w ++ a ++ 1#8)
  | .fmaxF64 d w a => some (124#8 ++ d ++ w ++ a ++ 2#8)
  | .fabsF64 d w a => some (124#8 ++ d ++ w ++ a ++ 3#8)
  | .fnegF64 d w a => some (124#8 ++ d ++ w ++ a ++ 4#8)
  | .fcpsF64 d w a => some (124#8 ++ d ++ w ++ a ++ 5#8)
  | .fcmpF64 p c a b => some (125#8 ++ p ++ c ++ a ++ b)
  | .cvtF64 d w a r x t => some (126#8 ++ d ++ w ++ a ++ r ++ x ++ t)
  | .rcpF64 d w a => some (127#8 ++ d ++ w ++ a ++ 0#8)
  | .rsqF64 d w a => some (127#8 ++ d ++ w ++ a ++ 1#8)
  | .sqrtF64 d w a => some (127#8 ++ d ++ w ++ a ++ 2#8)
  | .ldN8 d w x a o => some (128#8 ++ d ++ w ++ x ++ a ++ o)
  | .ldI8 d w x a o => some (129#8 ++ d ++ w ++ x ++ a ++ o)
  | .ldN16 d w x a o => some (130#8 ++ d ++ w ++ x ++ a ++ o)
  | .ldI16 d w x a o => some (131#8 ++ d ++ w ++ x ++ a ++ o)
  | .ld32 d w x a o => some (132#8 ++ d ++ w ++ x ++ a ++ o)
  | .ld64 d w x a o => some (133#8 ++ d ++ w ++ x ++ a ++ o)
  | .st8 d l x a o => some (134#8 ++ d ++ l ++ x ++ a ++ o)
  | .st16 d l x a o => some (135#8 ++ d ++ l ++ x ++ a ++ o)
  | .st32 d l x a o => some (136#8 ++ d ++ l ++ x ++ a ++ o)
  | .st64 d l x a o => some (137#8 ++ d ++ l ++ x ++ a ++ o)
  | .ldro32 d w x a o => some (138#8 ++ d ++ w ++ x ++ a ++ o)
  | .ldro64 d w x a o => some (139#8 ++ d ++ w ++ x ++ a ++ o)
  | .lds32 d w x a o => some (140#8 ++ d ++ w ++ x ++ a ++ o)
  | .sts32 d l x a o => some (141#8 ++ d ++ l ++ x ++ a ++ o)
  | .lds64 d w x a o => some (142#8 ++ d ++ w ++ x ++ a ++ o)
  | .sts64 d l x a o => some (143#8 ++ d ++ l ++ x ++ a ++ o)
  | .ldg32 d w a i => some (144#8 ++ d ++ w ++ a ++ i)
  | .stg32 d l a i => some (145#8 ++ d ++ l ++ a ++ i)
  | .ldg64 d w a i => some (146#8 ++ d ++ w ++ a ++ i)
  | .stg64 d l a i => some (147#8 ++ d ++ l ++ a ++ i)
  | .spill a k => some (148#8 ++ 0#8 ++ a ++ k)
  | .fill d k => some (149#8 ++ d ++ 127#9 ++ k)
  | .tacq x p n => some (150#8 ++ 0#8 ++ x ++ p ++ 0#1 ++ n)
  | .tacqFill i x p n => some (150#8 ++ i ++ x ++ p ++ 1#1 ++ n)
  | .trel n => some (151#8 ++ 0#8 ++ 127#8 ++ 0#2 ++ n)
  | .trelWb i x n => some (151#8 ++ i ++ x ++ 1#2 ++ n)
  | .copy i x y => some (152#8 ++ i ++ x ++ 0#7 ++ y)
  | .copym i x y => some (153#8 ++ i ++ x ++ 0#7 ++ y)
  | .mcast i x y n => some (154#8 ++ i ++ x ++ 0#1 ++ y ++ n)
  | .pfxL2 i x => some (155#8 ++ i ++ x ++ 0#8)
  | .pfxVault i x => some (155#8 ++ i ++ x ++ 1#8)
  | .ldt d w a z n => some (156#8 ++ d ++ w ++ a ++ 0#1 ++ z ++ n)
  | .stt d l a z n => some (157#8 ++ d ++ l ++ a ++ 0#1 ++ z ++ n)
  | .dsld d w a z k r => some (158#8 ++ d ++ w ++ a ++ 0#2 ++ z ++ k ++ r)
  | .dsst d l a z k r => some (159#8 ++ d ++ l ++ a ++ 0#2 ++ z ++ k ++ r)
  | .mma i x t z b a k d => some (160#8 ++ i ++ x ++ 0#1 ++ t ++ z ++ b ++ a ++ k ++ d)
  | .mmaNf i x t z b a k d => some (161#8 ++ i ++ x ++ 0#1 ++ t ++ z ++ b ++ a ++ k ++ d)
  | .mmaF64 i x t z b a k d => some (162#8 ++ i ++ x ++ 0#1 ++ t ++ z ++ b ++ a ++ k ++ d)
  | .mmaCont x => some (163#8 ++ 0#8 ++ x ++ 0#8)
  | .mmat i x z b a p y => some (164#8 ++ i ++ x ++ 0#2 ++ z ++ b ++ a ++ p ++ y)
  | .mmatCont x => some (165#8 ++ 0#8 ++ x ++ 0#8)
  | .mmatNf i x z b a p y => some (166#8 ++ i ++ x ++ 0#2 ++ z ++ b ++ a ++ p ++ y)
  | .slset n x => some (168#8 ++ 0#4 ++ n ++ x ++ 0#8)
  | .slgrow n x d => some (169#8 ++ 0#4 ++ n ++ x ++ 0#2 ++ d)
  | .slxl d w a n => some (170#8 ++ d ++ w ++ a ++ 0#4 ++ n)
  | .slxlPg d w a n => some (170#8 ++ d ++ w ++ a ++ 1#4 ++ n)
  | .slapp n x d => some (171#8 ++ 0#4 ++ n ++ x ++ 0#2 ++ d)
  | .osm r x s => some (172#8 ++ 0#1 ++ r ++ x ++ 0#1 ++ s)
  | .osmMrg r x s => some (172#8 ++ 0#1 ++ r ++ x ++ 1#1 ++ s)
  | .osmn d x s => some (173#8 ++ 0#1 ++ d ++ x ++ 0#1 ++ s)
  | .sbsend n x => some (174#8 ++ 0#2 ++ n ++ x ++ 0#8)
  | .sbmrg n x m => some (175#8 ++ 0#2 ++ n ++ x ++ 0#7 ++ m)
  | .psel n x => some (176#8 ++ 0#4 ++ n ++ x ++ 0#8)
  | .kvpk n x => some (177#8 ++ 0#4 ++ n ++ x ++ 0#8)
  | .kvunp n x => some (178#8 ++ 0#4 ++ n ++ x ++ 0#8)
  | .nbmode t b => some (180#8 ++ 8128#22 ++ t ++ b)
  | .nbbc b x i => some (181#8 ++ 0#1 ++ b ++ x ++ 0#5 ++ i)
  | .nbmac i k x a z s n => some (182#8 ++ 0#2 ++ i ++ k ++ x ++ a ++ z ++ s ++ n)
  | .nbrd k x c h n => some (183#8 ++ 0#5 ++ k ++ x ++ 0#3 ++ c ++ h ++ n)
  | .nbldw i x => some (184#8 ++ 0#5 ++ i ++ x ++ 0#8)
  | .fenceBank x s => some (185#8 ++ 0#8 ++ x ++ 0#6 ++ s)
  | .nbclr z x w => some (186#8 ++ z ++ x ++ w)
  | .bar b x => some (188#8 ++ b ++ 0#6 ++ x)
  | .bara b x => some (189#8 ++ b ++ 0#6 ++ x)
  | .cbar b x => some (190#8 ++ b ++ 0#6 ++ x)
  | .cbara b x => some (191#8 ++ b ++ 0#6 ++ x)
  | .atom32 d s o i a => some (192#8 ++ d ++ s ++ o ++ i ++ a)
  | .atom64 d s o i a => some (193#8 ++ d ++ s ++ o ++ i ++ a)
  | .cas32 d s i a => some (194#8 ++ d ++ s ++ 0#3 ++ i ++ a)
  | .cas64 d s i a => some (195#8 ++ d ++ s ++ 0#3 ++ i ++ a)
  | .red32 d s o i a => some (196#8 ++ d ++ s ++ o ++ i ++ a)
  | .red64 d s o i a => some (197#8 ++ d ++ s ++ o ++ i ++ a)
  | .fence s => some (198#8 ++ 0#21 ++ s)
  | .waitCopy n => some (199#8 ++ 0#15 ++ n ++ 0#3)
  | .waitMatrix n => some (199#8 ++ 0#15 ++ n ++ 1#3)
  | .waitGather n => some (199#8 ++ 0#15 ++ n ++ 2#3)
  | .waitNearBank n => some (199#8 ++ 0#15 ++ n ++ 3#3)
  | .waitCollective n => some (199#8 ++ 0#15 ++ n ++ 4#3)
  | .sigwSt v x => some (200#8 ++ v ++ x ++ 0#8)
  | .sigwAdd v x => some (200#8 ++ v ++ x ++ 1#8)
  | .sigwMax v x => some (200#8 ++ v ++ x ++ 2#8)
  | .ldacq d s z i a => some (201#8 ++ d ++ s ++ 0#2 ++ z ++ i ++ a)
  | .strel d s z i a => some (202#8 ++ d ++ s ++ 0#2 ++ z ++ i ++ a)
  | .trap c => some (208#8 ++ 0#8 ++ c)
  | .brk => some (209#8 ++ 0#24)
  | .tretResume => some (210#8 ++ 0#24)
  | .tretKill => some (210#8 ++ 1#24)
  | .tretKillgrid => some (210#8 ++ 2#24)
  | .tretHost => some (210#8 ++ 3#24)
  | .trrd d w a h k => some (211#8 ++ d ++ w ++ a ++ 0#3 ++ h ++ k)
  | .trwr v a k => some (212#8 ++ v ++ 0#1 ++ a ++ 0#4 ++ k)
  | .evrd d w h e n => some (213#8 ++ d ++ w ++ 127#8 ++ h ++ e ++ n)
  | .lit v => some (224#8 ++ v)
  | .blk m n s d a b => some (225#8 ++ m ++ n ++ s ++ d ++ a ++ b ++ 0#9)
  | .grd g e n => some (226#8 ++ g ++ e ++ n ++ 0#14)
  | .live o => some (227#8 ++ o)
  | .step s => some (228#8 ++ s)
  | .region => some (229#8 ++ 0#24)
  | .pref d => some (230#8 ++ d ++ 0#22)
  | .sched y h => some (231#8 ++ y ++ h ++ 0#17)
  | .registerWrite _ _ _ => none
  | .apertureRead _ _ => none
  | .apertureWrite _ _ _ => none
  | .clkceilWrite _ _ => none
  | .evmaskClear _ => none
  | .msixDelayedInterrupt => none
  | .qtailDoorbell _ _ _ => none
  | .abort _ _ => none
  | .poke _ _ => none
  | .queueEnable _ _ _ => none
  | .queueEntryTake _ _ => none
  | .dependencePoll _ => none
  | .clusterReservation _ => none
  | .blockPlace _ => none
  | .clusterPlace _ => none
  | .localCardCheck _ => none
  | .loadComplete _ _ => none
  | .writeComplete _ => none
  | .atomicComplete _ _ => none
  | .translationWalk _ _ => none
  | .invgo _ _ => none
  | .invalidationComplete _ => none
  | .placerEpoch => none
  | .pageMove => none
  | .syncCommandStart _ => none
  | .tileFillLanded _ _ => none
  | .tileDrainDone _ _ => none
  | .copyCommandComplete _ => none
  | .copyFault _ => none
  | .mmaComplete _ => none
  | .mmatStart _ => none
  | .mmatComplete _ => none
  | .bankCommandExecute _ => none
  | .sideboardFold _ _ => none
  | .slabChunkMove _ => none
  | .slabMoveRetry _ => none
  | .joinPass _ => none
  | .joinDeadlockDetect _ => none
  | .allocationDeadlock _ => none
  | .barrierPhaseComplete _ _ _ => none
  | .ugetCombine _ => none
  | .postAct _ => none
  | .trapAckPoll _ => none
  | .handlerStart _ => none
  | .tractResume _ => none
  | .tractKillGroup _ => none
  | .tractKillGrid _ => none
  | .preemptRequeue => none
  | .preemptHold => none
  | .cut => none
  | .releaseHeld => none
  | .resumeFromCut => none
  | .preemptDeadline _ => none
  | .preemptRestartDeadline _ => none
  | .saveImageWrite _ => none
  | .restore _ => none
  | .cutReduction _ => none
  | .cutComplete _ => none
  | .cutDeadline _ => none
  | .migrationPlace _ => none
  | .migrationDeadline _ => none
  | .blockComplete _ => none
  | .gridComplete _ => none
  | .nbownWrite _ _ => none
  | .governorInterval _ => none
  | .supplyOverpower _ => none
  | .watchdogFire _ _ _ => none
  | .dieReset _ => none
  | .selfTestEnd _ _ _ => none
  | .mogo _ => none
  | .mapoutFrameCopy _ => none
  | .scrubctlWrite _ => none
  | .patrolScrub => none
  | .hotRowScrub => none
  | .scoreHalving => none
  | .rowRetire => none
  | .refreshManagement => none
  | .phyCalibration => none
  | .telemetrySample _ _ => none
  | .deviceReset => none
  | .bringUpStart _ => none
  | .fullService _ _ => none
  | .attestSign => none
  | .attestSignDone => none
  | .illegalInstructionWord _ => none
  | .fetchFault => none

/-- The instruction read from a table word of `nbits` bits `w` (every bit above `nbits` is zero): LNI words are 32 bits,
little-endian, so bit 0 of the table is bit 0 of the word. -/
noncomputable def decodeTableWord (nbits w : Nat) : Option Instr :=
  match decode (BitVec.ofNat 32 (w % 2 ^ nbits)) with
  | .ok i => some i
  | .error _ => none

end Sys2Proof
end

