-- ==== Sys2Proof/Config.lean ====
section
/-! DEFINITION. What is fixed for every Limgil 960 (die kinds, core counts, limits) and the free values: constants that
the manual leaves open, opaque and without a body, so that no proof can know what they are. -/

namespace Sys2Proof.Config

/-- Compute dies (R13). -/
def dies : Nat := 8

/-- Dies 6 and 7 are CD6 dies, the others CD7 (R13). -/
def isCd6 (die : Nat) : Bool := 6 ≤ die

/-- Cores of a die (R15). -/
def coresOf (die : Nat) : Nat := if isCd6 die then 32 else 40

/-- Cores of the package (R15). -/
def cores : Nat := 304

/-- Global core index of core `c` of die `d` (R15). -/
def globalCore (d c : Nat) : Nat := if d ≤ 5 then 40 * d + c else 240 + 32 * (d - 6) + c

/-- The die of a global core (R15). -/
def dieOfCore (g : Nat) : Nat := if g < 240 then g / 40 else 6 + (g - 240) / 32

/-- The core number within its die of a global core (R15). -/
def coreInDie (g : Nat) : Nat := if g < 240 then g % 40 else (g - 240) % 32

/-- Row of a die in the mesh (R16). -/
def meshRow (d : Nat) : Nat := if d = 0 ∨ d = 6 ∨ d = 1 ∨ d = 2 then 0 else 1

/-- Column of a die in the mesh (R16). -/
def meshCol (d : Nat) : Nat :=
  if d = 0 ∨ d = 3 then 0 else if d = 6 ∨ d = 4 then 1 else if d = 1 ∨ d = 7 then 2 else 3

/-- Hops between two dies: the sum of the row and column differences (R110). -/
def hops (a b : Nat) : Nat :=
  (meshRow a - meshRow b) + (meshRow b - meshRow a) + ((meshCol a - meshCol b) + (meshCol b - meshCol a))

/-- Die generation GEN: 7 for CD7, 6 for CD6 (R26). -/
def genOf (die : Nat) : Nat := if isCd6 die then 6 else 7

/-- Feature classes FCLASS of a die: narrow, ternary and attention on CD7, double on CD6 (R14, R26, R80). -/
def fclassOf (die : Nat) : Nat := if isCd6 die then 8 else 7

/-- Stacks of the package (R20). -/
def numStacks : Nat := 12

/-- Pseudo-channels of the package (R21). -/
def pseudoChannels : Nat := 768

/-- Free value: what fixes a die type's stepping (R26 gives no number). DESIGN CHOICE (log 2), safe. -/
opaque steppingRaw : Bool → BitVec 16

/-- STEPREV of a die type (R26): fixed at manufacture, never 0. The number itself is a free value. -/
def stepRev (die : Nat) : BitVec 16 :=
  if steppingRaw (isCd6 die) = 0 then 1 else steppingRaw (isCd6 die)

/-- Free value: the 960's fixed function for an approximation (R245); arguments: operation number, type number, operand
bits. The value used is this one only where it lies within the bounds of R245. DESIGN CHOICE (log 19), safe. -/
opaque approx : Nat → Nat → DWord → DWord

/-- Free value: whether a tie between two codes of a narrow format without mantissa bits rounds up: both have a one-bit significand,
so R72 names neither as the even one (R66); arguments: the format register and the lower code. DESIGN CHOICE (log 66), safe. -/
opaque narrowTieUp : BitVec 16 → Nat → Bool

/-- Free value: an element that KVUNP must widen although the tile type cannot hold it exactly (R344); arguments: element
type and pattern. -/
opaque inexactWiden : Nat → Nat → DWord

/-- Free value: bytes that a plain TREL leaves in a region (R290), one per use of the counter and byte.
DEDUCED (log 44), safe. -/
opaque releasedByte : Nat → Nat → Byte

/-- Free value: a read-only load may see the value before or after a write of its own grid (R273). -/
opaque readOnlySeesOld : Nat → Bool

/-- Free value: which line a full read-only cache gives up for a new one (R272 names none); reduced to the lines held. -/
opaque readOnlyVictim : Nat → Nat

/-- Free value: whether an access uses the translation that a TLB holds rather than the tables' new one, until the invalidation
is complete (R130); arguments: the step, the place of the entry, and the address accessed. -/
opaque usesOldTranslation : Nat → Nat → Nat → Bool

/-- Free value: whether the trap of a ULD stops the threads of its block as well as the Lectern: R405 says that every live
thread stops, R233 that they run on up to the ULD's entry. DEDUCED (log 65), safe. -/
opaque uldThreadsStop : Nat → Bool

/-- Free value: whether the line of a granule has stayed in its home L2 between two accesses (R385): the manual fixes no
replacement. -/
opaque stayedInL2 : Nat → Bool

/-- Free value: whether a race that the device need not report is reported (R385). -/
opaque raceReported : Nat → Bool

/-- Free value: SHA3-256 of a string of bytes (R81, R473, R474); its computation is outside this manual. -/
opaque sha3 : List Byte → BitVec 256

/-- Free value: the ML-DSA-44 signature by the module's identity key, byte by byte (R473, R474). -/
opaque signatureByte : BitVec 256 → Nat → Byte

/-- Free value: the module's serial number (R474). -/
opaque serialNumber : BitVec 128

/-- Free value: the identity public key and its certificate chain, byte by byte (R474). -/
opaque identityByte : Nat → Byte


/-- Free value: what a host's read of poisoned memory returns (R455 names no value). -/
opaque poisonedRead : Nat → DWord

/-- Free value: how many k-blocks a matrix command in flight has run when a save splits it (R315), less one; reduced to the
blocks that the command has. -/
opaque splitPoint : Nat → Nat

/-- Free value: how many firmware stages there are (R473, R474). -/
opaque firmwareStages : Nat

/-- Free value: the image of a firmware stage as the n-th reset finds it (R473): the reset, the stage. -/
opaque firmwareImage : Nat → Nat → List Byte

/-- Free value: the signature that comes with a stage's image (R473): the reset, the stage. -/
opaque firmwareSignature : Nat → Nat → List Byte

/-- Free value: whether a signature over a digest verifies against the root key in the ROM (R473); the scheme is outside this
manual. -/
opaque signatureValid : BitVec 256 → List Byte → Bool

/-- Free value: the security version that a stage's image states (R473): the reset, the stage. -/
opaque firmwareVersion : Nat → Nat → Nat

/-- Free value: the security version fused into the module (R473). -/
opaque fusedVersion : Nat

/-- The digest of a firmware stage (R473, R474). -/
def firmwareDigest (boot stage : Nat) : BitVec 256 := sha3 (firmwareImage boot stage)

/-- A stage passes its checks (R473): the signature over its digest, and a security version not below the fused one. -/
def stageAccepted (boot stage : Nat) : Bool :=
  signatureValid (firmwareDigest boot stage) (firmwareSignature boot stage) && decide (fusedVersion ≤ firmwareVersion boot stage)

/-- The firmware of the n-th reset is accepted: every stage passes (R473). -/
def firmwareAccepted (boot : Nat) : Bool := (List.range firmwareStages).all (stageAccepted boot)

/-- Free value: how many events a counter's source has produced beyond those the model counts (R467 to R469). -/
opaque timingEvents : Nat → Nat → Nat → DWord

end Sys2Proof.Config
end

