-- ==== Sys2Proof/Machine/Tab.lean ====
section
/-! DEFINITION. Sparse tables and byte stores: sorted association lists in one canonical form, the plain data in which
the state keeps registers, tables and memory. -/

namespace Sys2Proof.Machine

/-- A table from numbers to values: keys strictly rising. -/
abbrev Tab (α : Type) := List (Nat × α)

/-- The entry of a key, if any. -/
def tabGet {α : Type} : Tab α → Nat → Option α
  | [], _ => none
  | (j, a) :: t, k => if j = k then some a else tabGet t k

/-- The entry of a key, or a default. -/
def tabGetD {α : Type} (t : Tab α) (k : Nat) (d : α) : α := (tabGet t k).getD d

/-- Sets the entry of a key, keeping the keys in order. -/
def tabSet {α : Type} : Tab α → Nat → α → Tab α
  | [], k, a => [(k, a)]
  | (j, b) :: t, k, a =>
    if k < j then (k, a) :: (j, b) :: t
    else if k = j then (k, a) :: t
    else (j, b) :: tabSet t k a

/-- Removes the entry of a key. -/
def tabDrop {α : Type} (t : Tab α) (k : Nat) : Tab α := t.filter fun e => e.1 != k

/-- Changes the entry of a key where it exists. -/
def tabModify {α : Type} (t : Tab α) (k : Nat) (f : α → α) : Tab α :=
  t.map fun e => if e.1 = k then (e.1, f e.2) else e

/-- Removes the entries whose key or value fails a test. -/
def tabKeep {α : Type} (t : Tab α) (p : Nat → α → Bool) : Tab α := t.filter fun e => p e.1 e.2

/-- A byte store: strictly rising addresses, no listed byte zero. -/
abbrev Bytes := List Host.Cell

/-- The byte at an address; an unlisted byte is 0. DESIGN CHOICE (log 1), unsafe. -/
def byteAt : Bytes → Nat → BitVec 8
  | [], _ => 0
  | (b, v) :: t, a => if b = a then v else if a < b then 0 else byteAt t a

/-- Sets one byte, keeping the canonical form: a zero byte is not listed. -/
def byteSet : Bytes → Nat → BitVec 8 → Bytes
  | [], a, v => if v = 0 then [] else [(a, v)]
  | (b, w) :: t, a, v =>
    if a < b then (if v = 0 then (b, w) :: t else (a, v) :: (b, w) :: t)
    else if a = b then (if v = 0 then t else (a, v) :: t)
    else (b, w) :: byteSet t a v

/-- The `n` bytes from `a`, as one little-endian number (R3). -/
def bytesAt (m : Bytes) (a : Nat) : Nat → Nat
  | 0 => 0
  | n + 1 => (byteAt m a).toNat + 256 * bytesAt m (a + 1) n

/-- Stores the low `n` bytes of `v` from `a`, little-endian (R3). -/
def bytesSet (m : Bytes) (a : Nat) : Nat → Nat → Bytes
  | 0, _ => m
  | n + 1, v => bytesSet (byteSet m a (BitVec.ofNat 8 v)) (a + 1) n (v / 256)

/-- Removes every byte from `lo` to below `hi`: they read as 0. -/
def bytesClear (m : Bytes) (lo hi : Nat) : Bytes := m.filter fun c => c.1 < lo || hi ≤ c.1

/-- The canonical form: rising addresses, each above `lo`, no zero byte. -/
def bytesWfFrom : Nat → Bytes → Bool
  | _, [] => true
  | lo, (a, v) :: t => decide (lo ≤ a) && decide (v ≠ 0) && bytesWfFrom (a + 1) t

/-- The canonical form of a byte store. -/
def bytesWf (m : Bytes) : Bool := bytesWfFrom 0 m

end Sys2Proof.Machine
end

