-- ==== Sys2Proof/Machine/Bits.lean ====
section
/-! DEFINITION. Readings of numbers as bit fields: the helpers of R6, clamping, wrapping and lane masks. -/

namespace Sys2Proof.Machine

/-- Bits [hi:lo] of a number as an unsigned integer (R6). -/
def bitsNat (x hi lo : Nat) : Nat := x / 2 ^ lo % 2 ^ (hi + 1 - lo)

/-- Bit i of a number. -/
def bitNat (x i : Nat) : Bool := x / 2 ^ i % 2 == 1

/-- The low n bits of a number read as two's complement (R6 sext). -/
def sextNat (x n : Nat) : Int :=
  let y := x % 2 ^ n
  if y < 2 ^ (n - 1) then (y : Int) else (y : Int) - (2 ^ n : Nat)

/-- The low n bits of an integer, unsigned (R7: a value assigned to a field keeps its low bits). -/
def wrapNat (n : Nat) (x : Int) : Nat := (x % ((2 ^ n : Nat) : Int)).toNat

/-- An integer assigned to a word: its low 32 bits (R7). -/
def toWord (x : Int) : Word := BitVec.ofInt 32 x

/-- An integer assigned to a double word: its low 64 bits (R7). -/
def toDWord (x : Int) : DWord := BitVec.ofInt 64 x

/-- Clamps an integer into an interval (R56). -/
def clampInt (lo hi x : Int) : Int := if x < lo then lo else if hi < x then hi else x

/-- Quotient rounded up. -/
def ceilDiv (x m : Nat) : Nat := if x % m = 0 then x / m else x / m + 1

/-- The next multiple of m. -/
def roundUp (x m : Nat) : Nat := ceilDiv x m * m

/-- The mask of a list of lanes. -/
def laneMask (lanes : List Nat) : Word :=
  lanes.foldl (fun m l => m ||| BitVec.ofNat 32 (2 ^ l)) 0

/-- Lane l stands in a mask. -/
def inMask (m : Word) (l : Nat) : Bool := m.getLsbD l

/-- The lowest of a list of numbers, or a default. -/
def leastOf (d : Nat) : List Nat → Nat
  | [] => d
  | x :: xs => xs.foldl min x

/-- The number of one bits among the low n bits. -/
def popNat (x : Nat) : Nat → Nat
  | 0 => 0
  | n + 1 => (if bitNat x n then 1 else 0) + popNat x n

/-- The bit length of a number (at most n). -/
def bitLen (x : Nat) : Nat → Nat
  | 0 => 0
  | n + 1 => if bitNat x n then n + 1 else bitLen x n

/-- The low n bits of a number in reverse order. -/
def revBits (x : Nat) : Nat → Nat
  | 0 => 0
  | n + 1 => (if bitNat x 0 then 2 ^ n else 0) + revBits (x / 2) n

/-- Puts an element before the first that does not come before it. -/
def putSorted {α : Type} (le : α → α → Bool) (x : α) : List α → List α
  | [] => [x]
  | y :: ys => if le x y then x :: y :: ys else y :: putSorted le x ys

/-- Sorts a list; equal elements keep their order. -/
def sortBy {α : Type} (le : α → α → Bool) (l : List α) : List α := l.foldr (putSorted le) []

end Sys2Proof.Machine
end

