-- ==== Sys2Proof/Machine/Fp.lean ====
section
/-! DEFINITION. Floating-point numbers (R59 to R61), exact arithmetic on them, one rounding with its mode (R72, R73), the
generator (R74), narrow formats (R63, R64, R66) and packed ternary (R67, R68). -/

namespace Sys2Proof.Machine

/-- An exact floating-point value: NaN, an infinity, or (−1)^neg × m × 2^e. -/
inductive Fl where
  | nan
  | inf (neg : Bool)
  | fin (neg : Bool) (m : Nat) (e : Int)
  deriving DecidableEq, Repr

/-- An IEEE layout (R59): exponent bits and fraction bits. -/
structure FFmt where
  ew : Nat
  fw : Nat
  deriving DecidableEq, Repr

/-- FP64, FP32, FP16 and BF16 (R59). -/
def f64 : FFmt := ⟨11, 52⟩
def f32 : FFmt := ⟨8, 23⟩
def f16 : FFmt := ⟨5, 10⟩
def bf16 : FFmt := ⟨8, 7⟩

/-- Exponent bias. -/
def FFmt.bias (f : FFmt) : Nat := 2 ^ (f.ew - 1) - 1
/-- Width in bits. -/
def FFmt.width (f : FFmt) : Nat := 1 + f.ew + f.fw
/-- Exponent field of infinities and NaNs. -/
def FFmt.top (f : FFmt) : Nat := 2 ^ f.ew - 1
/-- Exponent of the least subnormal step. -/
def FFmt.step (f : FFmt) : Int := 1 - (f.bias : Int) - (f.fw : Int)
/-- Significand precision p. -/
def FFmt.prec (f : FFmt) : Nat := f.fw + 1
/-- The canonical NaN (R59). -/
def FFmt.nan (f : FFmt) : Nat := f.top * 2 ^ f.fw + 2 ^ (f.fw - 1)

/-- The value that a pattern encodes (R59, R60). -/
def FFmt.decode (f : FFmt) (x : Nat) : Fl :=
  let neg := bitNat x (f.width - 1)
  let e := bitsNat x (f.width - 2) f.fw
  let m := x % 2 ^ f.fw
  if e = f.top then (if m = 0 then .inf neg else .nan)
  else if e = 0 then .fin neg m f.step
  else .fin neg (m + 2 ^ f.fw) (f.step + (e : Int) - 1)

/-- Bit length of a number. -/
def natLen (x : Nat) : Nat := if x = 0 then 0 else x.log2 + 1

/-- Rounding modes (R72). -/
inductive Rm where
  | rn | rz | ru | rd | rs
  deriving DecidableEq, Repr

/-- The mode of an RM value below 5. -/
def rmOf : Nat → Rm
  | 0 => .rn
  | 1 => .rz
  | 2 => .ru
  | 3 => .rd
  | _ => .rs

/-- Rounds the magnitude m × 2^e to a whole number of units 2^q (R72, R73); `x` is the drawn word. -/
def roundUnits (rm : Rm) (x : Nat) (neg : Bool) (m : Nat) (e q : Int) : Nat :=
  if q ≤ e then m * 2 ^ (e - q).toNat
  else
    let sh := (q - e).toNat
    let lo := m / 2 ^ sh
    let rem := m % 2 ^ sh
    let up := match rm with
      | .rn => decide (2 ^ sh < 2 * rem) || (2 * rem == 2 ^ sh && lo % 2 == 1)
      | .rz => false
      | .ru => !neg && rem != 0
      | .rd => neg && rem != 0
      | .rs => decide (x < rem * 2 ^ 24 / 2 ^ sh)
    if up then lo + 1 else lo

/-- A magnitude stands half-way between two numbers of units 2^q. -/
def tieAt (m : Nat) (e q : Int) : Bool := decide (e < q) && 2 * (m % 2 ^ (q - e).toNat) == 2 ^ (q - e).toNat

/-- The unit of the last place for a magnitude m × 2^e with `fw` fraction bits, not below the subnormal step. -/
def unitOf (fw : Nat) (least : Int) (m : Nat) (e : Int) : Int :=
  if m = 0 then least else max ((natLen m : Int) + e - 1 - (fw : Int)) least

/-- Overflow to an infinity rather than to the largest finite value (R72). -/
def overflowsToInf (rm : Rm) (neg : Bool) : Bool :=
  match rm with
  | .rn => true
  | .rs => true
  | .rz => false
  | .ru => !neg
  | .rd => neg

/-- The pattern of the largest finite magnitude. -/
def FFmt.maxFin (f : FFmt) : Nat := f.top * 2 ^ f.fw - 1

/-- A sign bit at its place. -/
def FFmt.sign (f : FFmt) (neg : Bool) : Nat := if neg then 2 ^ (f.width - 1) else 0

/-- Rounds an exact value into a format: one rounding (R72, R73). -/
def FFmt.round (f : FFmt) (rm : Rm) (x : Nat) : Fl → Nat
  | .nan => f.nan
  | .inf neg => f.sign neg + f.top * 2 ^ f.fw
  | .fin neg m e =>
    let q := unitOf f.fw f.step m e
    let u := roundUnits rm x neg m e q
    let mag := (q - f.step).toNat * 2 ^ f.fw + u
    f.sign neg + (if f.top * 2 ^ f.fw ≤ mag then
      (if overflowsToInf rm neg then f.top * 2 ^ f.fw else f.maxFin) else mag)

/-! ## Exact arithmetic -/

/-- The sign of an exact zero sum of operands of opposite signs (R240). -/
def zeroSign (rm : Rm) : Bool := rm == .rd

/-- A signed integer times 2^e as a value, with the sign of zero given. -/
def flOfInt (x : Int) (e : Int) (zeroNeg : Bool) : Fl :=
  if x = 0 then .fin zeroNeg 0 0 else .fin (x < 0) x.natAbs e

/-- Signed significand at a lower exponent. -/
def sigAt (neg : Bool) (m : Nat) (e lo : Int) : Int :=
  let v : Int := (m * 2 ^ (e - lo).toNat : Nat)
  if neg then -v else v

/-- Exact sum (R61, R240). -/
def Fl.add (rm : Rm) : Fl → Fl → Fl
  | .nan, _ => .nan
  | _, .nan => .nan
  | .inf a, .inf b => if a = b then .inf a else .nan
  | .inf a, _ => .inf a
  | _, .inf b => .inf b
  | .fin a m e, .fin b n d =>
    let lo := min e d
    flOfInt (sigAt a m e lo + sigAt b n d lo) lo (if m = 0 ∧ n = 0 ∧ a = b then a else zeroSign rm)

/-- The sign inverted. -/
def Fl.neg : Fl → Fl
  | .nan => .nan
  | .inf a => .inf !a
  | .fin a m e => .fin (!a) m e

/-- Exact product (R61). -/
def Fl.mul : Fl → Fl → Fl
  | .nan, _ => .nan
  | _, .nan => .nan
  | .inf a, .inf b => .inf (a != b)
  | .inf a, .fin b n _ => if n = 0 then .nan else .inf (a != b)
  | .fin a m _, .inf b => if m = 0 then .nan else .inf (a != b)
  | .fin a m e, .fin b n d => .fin (a != b) (m * n) (e + d)

/-- The value is NaN. -/
def Fl.isNan : Fl → Bool
  | .nan => true
  | _ => false

/-- The value is negative zero, positive zero or neither; its sign. -/
def Fl.isNeg : Fl → Bool
  | .nan => false
  | .inf a => a
  | .fin a _ _ => a

/-- Numeric order of two values that are not NaN: −1, 0 or 1. -/
def Fl.cmp : Fl → Fl → Int
  | .inf a, .inf b => if a = b then 0 else if a then -1 else 1
  | .inf a, _ => if a then -1 else 1
  | _, .inf b => if b then 1 else -1
  | .fin a m e, .fin b n d =>
    let lo := min e d
    let x := sigAt a m e lo - sigAt b n d lo
    if x < 0 then -1 else if x = 0 then 0 else 1
  | _, _ => 0

/-- Order with −0 below +0 (R242). -/
def Fl.below (x y : Fl) : Bool := x.cmp y == -1 || (x.cmp y == 0 && x.isNeg && !y.isNeg)

/-- FMIN and FMAX (R242). -/
def Fl.pick (greater : Bool) (x y : Fl) : Fl :=
  if x.isNan then y else if y.isNan then x
  else if x.below y != greater then x else y

/-! ## The generator -/

/-- The next generator state (R74). -/
def genNext (g : Word) : Word :=
  let a := g ^^^ (g <<< 13)
  let b := a ^^^ (a >>> 17)
  b ^^^ (b <<< 5)

/-- The word that a state yields (R74). -/
def genWord (g : Word) : Nat := bitsNat g.toNat 31 8

/-- The state and word of an element: a draw only for RM 4 (R75, R238). -/
def drawFor (rm : Rm) (g : Word) : Word × Nat :=
  if rm = .rs then (genNext g, genWord (genNext g)) else (g, 0)

/-! ## Narrow formats -/

/-- A narrow format register read (R63). -/
structure NFmt where
  sgn : Bool
  spec : Nat
  ew : Nat
  mw : Nat
  bias : Int
  /-- The register itself. -/
  raw : Half := 0
  deriving DecidableEq, Repr

/-- The fields of FMT (R63). -/
def nfOf (x : Half) : NFmt :=
  { sgn := x.getLsbD 15, spec := bitsNat x.toNat 14 13, ew := bitsNat x.toNat 12 10 + 1, mw := bitsNat x.toNat 9 8
    bias := sextNat x.toNat 8, raw := x }

/-- Element width W (R63). -/
def NFmt.width (f : NFmt) : Nat := (if f.sgn then 1 else 0) + f.ew + f.mw

/-- A valid format register (R63). -/
def NFmt.valid (f : NFmt) : Bool := f.spec != 3 && decide (f.width ≤ 8)

/-- All ones in exponent and mantissa. -/
def NFmt.ones (f : NFmt) : Nat := 2 ^ (f.ew + f.mw) - 1

/-- The value of a code (R64). -/
def NFmt.decode (f : NFmt) (c : Nat) : Fl :=
  let neg := f.sgn && bitNat c (f.width - 1)
  let em := c % 2 ^ (f.ew + f.mw)
  let e := em / 2 ^ f.mw
  let m := em % 2 ^ f.mw
  if f.spec ≠ 0 ∧ em = f.ones then .nan
  else if e = 0 then .fin neg m (1 - f.bias - (f.mw : Int))
  else .fin neg (m + 2 ^ f.mw) ((e : Int) - f.bias - (f.mw : Int))

/-- Exponent-and-mantissa code of the largest finite value. -/
def NFmt.maxFin (f : NFmt) : Nat := if f.spec = 0 then f.ones else f.ones - 1

/-- Rounds a magnitude to the units of a narrow format (R66, R72); a tie between two codes without mantissa bits goes the way of a
free value. DESIGN CHOICE (log 66), safe. -/
def NFmt.units (f : NFmt) (rm : Rm) (x : Nat) (neg : Bool) (m : Nat) (e : Int) : Nat :=
  let least := 1 - f.bias - (f.mw : Int)
  let q := unitOf f.mw least m e
  let lo := m / 2 ^ (q - e).toNat
  if f.mw = 0 ∧ rm = .rn ∧ lo = 1 ∧ tieAt m e q = true then
    (if Config.narrowTieUp f.raw ((q - least).toNat + 1) then 2 else 1)
  else roundUnits rm x neg m e q

/-- Conversion to a narrow format (R66): the code, and whether NFSAT and NFNAN are set. -/
def NFmt.encode (f : NFmt) (rm : Rm) (x : Nat) (v : Fl) : Nat × Bool × Bool :=
  let sign := fun neg : Bool => if neg && f.sgn then 2 ^ (f.width - 1) else 0
  let finite := fun (neg : Bool) (em : Nat) (nonzero : Bool) =>
    if neg && !f.sgn && nonzero then (0, true, false)
    else if em ≤ f.maxFin then (sign neg + em, false, false)
    else if f.spec = 2 then (sign neg + f.ones, false, true)
    else (sign neg + f.maxFin, true, false)
  match v with
  | .nan => if f.spec = 0 then (0, false, true) else (f.ones, false, true)
  | .inf neg => finite neg (f.ones + 1) true
  | .fin neg m e =>
    let least := 1 - f.bias - (f.mw : Int)
    let q := unitOf f.mw least m e
    let u := f.units rm x neg m e
    finite neg ((q - least).toNat * 2 ^ f.mw + u) (u != 0)

/-! ## Packed ternary -/

/-- Trit j of a byte code, 0 to 242 (R67). -/
def trit (b j : Nat) : Nat := b / 3 ^ j % 3

/-- The value of a trit (R67). -/
def tritVal (t : Nat) : Int := if t = 1 then 1 else if t = 2 then -1 else 0

/-- Element j of a byte code; zero for a code from 243 on (R69). -/
def ternElem (b j : Nat) : Int := if 243 ≤ b then 0 else tritVal (trit b j)

end Sys2Proof.Machine
end

