-- ==== Sys2Proof/Machine/Approx.lean ====
section
/-! DEFINITION. Square roots and the approximations of FUN (R244 to R246). An approximation is the free value of Config
where it lies within its bound of R245. For RCP and RSQ that is decided exactly; for the others, whose exact values are irrational,
against the function computed to more than 100 bits, or, for the smallest operands, against the number that the exact value comes
close to and the side on which it lies. -/

namespace Sys2Proof.Machine

/-- The greatest r below 2^k with r × r at most n, from the partial root `acc`. -/
def isqrtFrom (n : Nat) : Nat → Nat → Nat
  | 0, acc => acc
  | k + 1, acc => let c := acc + 2 ^ k; isqrtFrom n k (if c * c ≤ n then c else acc)

/-- Integer square root. -/
def isqrt (n : Nat) : Nat := isqrtFrom n (natLen n / 2 + 1) 0

/-- The square root of m × 2^e with at least `bits` bits, the lowest bit sticky: significand and exponent. -/
def sqrtSig (bits m : Nat) (e : Int) : Nat × Int :=
  let up := 2 * bits - natLen m
  let up' := if (e - (up : Int)) % 2 = 0 then up else up + 1
  let n := m * 2 ^ up'
  let r := isqrt n
  (2 * r + (if r * r = n then 0 else 1), (e - (up' : Int)) / 2 - 1)

/-- The value of a square root, rounded by the format afterwards (R244 SQRT). -/
def Fl.sqrt (f : FFmt) : Fl → Fl
  | .nan => .nan
  | .inf neg => if neg then .nan else .inf false
  | .fin neg m e =>
    if m = 0 then .fin neg 0 e
    else if neg then .nan
    else let r := sqrtSig (f.prec + 30) m e; .fin false r.1 r.2

/-! ## Exact functions in fixed point -/

/-- Fraction bits of the fixed-point values below. -/
def fxBits : Nat := 160
/-- One in fixed point. -/
def fxOne : Nat := 2 ^ fxBits
/-- ln 2 and 2π in fixed point. -/
def fxLn2 : Nat := 0xb17217f7d1cf79abc9e3b39803f2f6af40f34326
def fxTwoPi : Nat := 0x6487ed5110b4611a62633145c06e0e68948127044

/-- A magnitude m × 2^e in fixed point, rounded down. -/
def fxOf (m : Nat) (e : Int) : Nat :=
  let k := e + (fxBits : Int)
  if 0 ≤ k then m * 2 ^ k.toNat else m / 2 ^ (-k).toNat

/-- The series of e^y from term t = y^k / k!. -/
def fxExpFrom (y : Nat) : Nat → Nat → Nat → Nat
  | 0, _, _ => 0
  | n + 1, k, t => t + fxExpFrom y n (k + 1) (t * y / fxOne / (k + 1))

/-- 2^x for a signed fixed-point x: significand and exponent. -/
def fxExp2 (x : Int) : Nat × Int :=
  let n := x.fdiv fxOne
  let f := (x - n * fxOne).toNat
  (fxExpFrom (f * fxLn2 / fxOne) 45 0 fxOne, n - fxBits)

/-- The series of artanh: z + z³/3 + z⁵/5 and on, from power p = z^(2k+1). -/
def fxAtanhFrom (zz : Nat) : Nat → Nat → Nat → Nat
  | 0, _, _ => 0
  | n + 1, k, p => p / (2 * k + 1) + fxAtanhFrom zz n (k + 1) (p * zz / fxOne)

/-- log2 of m × 2^e, m not zero, in fixed point. -/
def fxLog2 (m : Nat) (e : Int) : Int :=
  let k := (natLen m : Int) - 1
  let x := m * fxOne / 2 ^ k.toNat
  let z := (x - fxOne) * fxOne / (x + fxOne)
  (k + e) * fxOne + ((2 * fxAtanhFrom (z * z / fxOne) 52 0 z * fxOne / fxLn2 : Nat) : Int)

/-- The alternating series of sine (odd) or cosine from term t of index k. -/
def fxTrigFrom (rr : Nat) : Nat → Nat → Nat → Int
  | 0, _, _ => 0
  | n + 1, k, t => (t : Int) - fxTrigFrom rr n (k + 2) (t * rr / fxOne / ((k + 1) * (k + 2)))

/-- sin or cos of m × 2^e in fixed point. -/
def fxTrig (cosine : Bool) (m : Nat) (e : Int) : Int :=
  let r := fxOf m e % fxTwoPi
  let rr := r * r / fxOne
  if cosine then fxTrigFrom rr 40 0 fxOne else fxTrigFrom rr 40 1 r

/-- tanh of m × 2^e below 2^−10: m × 2^e × (1 − a²/3 + 2a⁴/15 − 17a⁶/315 + 62a⁸/2835). -/
def tanhSmall (m : Nat) (e : Int) : Nat × Int :=
  let a := fxOf m e
  let a2 := a * a / fxOne
  let a4 := a2 * a2 / fxOne
  let a6 := a4 * a2 / fxOne
  (m * (fxOne - a2 / 3 + 2 * a4 / 15 - 17 * a6 / 315 + 62 * (a4 * a4 / fxOne) / 2835), e - fxBits)

/-- tanh of m × 2^e in fixed point. -/
def fxTanh (m : Nat) (e : Int) : Nat :=
  let a := fxOf m e
  if 64 * fxOne ≤ a then fxOne
  else
    let p := fxExp2 ((2 * a * fxOne / fxLn2 : Nat) : Int)
    let v := fxOf p.1 p.2
    fxOne - 2 * fxOne * fxOne / (v + fxOne)

/-! ## The approximations -/

/-- Operations of FUN (R244). -/
inductive FunOp where
  | rcp | rsq | sqrt | ex2 | lg2 | sin | cos | tanh
  deriving DecidableEq, Repr

/-- Number of an operation (R244). -/
def FunOp.code : FunOp → Nat
  | .rcp => 0 | .rsq => 1 | .sqrt => 2 | .ex2 => 3 | .lg2 => 4 | .sin => 5 | .cos => 6 | .tanh => 7

/-- Special operands (R246): the result. -/
def FunOp.special (op : FunOp) (a : Fl) : Option Fl :=
  let one : Fl := .fin false 1 0
  match a with
  | .nan => some .nan
  | .inf neg =>
    some (match op with
      | .rcp => .fin neg 0 0
      | .rsq => if neg then .nan else .fin false 0 0
      | .sqrt => if neg then .nan else .inf false
      | .ex2 => if neg then .fin false 0 0 else .inf false
      | .lg2 => if neg then .nan else .inf false
      | .sin => .nan
      | .cos => .nan
      | .tanh => .fin neg 1 0)
  | .fin neg m _ =>
    if m = 0 then
      some (match op with
        | .rcp => .inf neg
        | .rsq => .inf neg
        | .sqrt => .fin neg 0 0
        | .ex2 => one
        | .lg2 => .inf true
        | .sin => .fin neg 0 0
        | .cos => one
        | .tanh => .fin neg 0 0)
    else if neg && (op == .rsq || op == .sqrt || op == .lg2) then some .nan
    else none

/-- A significand that is a power of two: its exponent. -/
def powerOfTwo (m : Nat) (e : Int) : Option Int := if m = 2 ^ m.log2 then some ((m.log2 : Int) + e) else none

/-- Exact cases of R245, for an operand that is not special. -/
def FunOp.exact (f : FFmt) (op : FunOp) (neg : Bool) (m : Nat) (e : Int) : Option Fl :=
  match op with
  | .rcp => (powerOfTwo m e).map fun k => Fl.fin neg 1 (-k)
  | .lg2 => (powerOfTwo m e).map fun k => flOfInt k 0 false
  | .ex2 =>
    -- an integer operand whose power is representable
    if 0 ≤ e ∨ m % (2 ^ (-e).toNat) = 0 then
      let mag : Nat := if 0 ≤ e then m * 2 ^ (min e.toNat 20) else m / 2 ^ (-e).toNat
      let n : Int := mag
      let k := if neg then -n else n
      if f.step ≤ k ∧ k ≤ (f.bias : Int) then some (.fin false 1 k) else none
    else none
  | _ => none

/-- For a magnitude m × 2^e below 2^−46: a number, and on which side of it the exact value lies, closer than any edge of a bound: COS
just below 1, EX2 beside 1, TANH just inside the operand, SIN beside 0. -/
def FunOp.beside (op : FunOp) (neg : Bool) (m : Nat) (e : Int) : Option ((Int × Int) × Int) :=
  if (natLen m : Int) + e ≤ -46 then
    match op with
    | .cos => some ((1, 0), -1)
    | .ex2 => some ((1, 0), if neg then -1 else 1)
    | .tanh => some ((if neg then -(m : Int) else m, e), if neg then 1 else -1)
    | .sin => some ((0, 0), if neg then -1 else 1)
    | _ => none
  else none

/-- The exact value to 2^−150, and for the smallest operands to more bits than any format keeps: sign, significand, exponent. -/
def FunOp.value (op : FunOp) (neg : Bool) (m : Nat) (e : Int) : Bool × Nat × Int :=
  let fx := fun x : Int => (decide (x < 0), x.natAbs, -(fxBits : Int))
  let tiny := (op.beside neg m e).isSome
  let inside := (neg, m * 2 ^ 60 - 1, e - 60)
  match op with
  | .rcp => let n := natLen m + fxBits; (neg, 2 ^ n / m, -(n : Int) - e)
  | .rsq =>
    let up : Nat := if e % 2 = 0 then 0 else 1
    let n := 2 * (natLen m / 2 + fxBits)
    -- 1 / sqrt(m × 2^up × 2^(e − up))
    (false, isqrt (2 ^ (2 * n) / (m * 2 ^ up)), -(n : Int) - (e - (up : Int)) / 2)
  | .sqrt => let r := sqrtSig 200 m e; (false, r.1, r.2)
  | .ex2 =>
    if tiny then (false, if neg then 2 ^ 60 - 1 else 2 ^ 60 + 1, -60) else
    let x : Int := if 12 < (natLen m : Int) + e then 4096 * fxOne else fxOf m e
    let r := fxExp2 (if neg then -x else x)
    (false, r.1, r.2)
  | .lg2 => fx (fxLog2 m e)
  | .sin => if tiny then inside else let x := fxTrig false m e; fx (if neg then -x else x)
  | .cos => if tiny then (false, 2 ^ 60 - 1, -60) else fx (fxTrig true m e)
  | .tanh =>
    if tiny then inside
    else if (natLen m : Int) + e ≤ -10 then let r := tanhSmall m e; (neg, r.1, r.2)
    else (neg, fxTanh m e, -(fxBits : Int))

/-- The bound of R245 about an exact value (m, e): a number of units 2^k. -/
def FunOp.bound (f : FFmt) (op : FunOp) (am : Nat) (ae : Int) (m : Nat) (e : Int) : Nat × Int :=
  let ulps := fun n : Nat => (n, unitOf f.fw f.step m e)
  -- the operand's magnitude lies in [2^(top−1), 2^top)
  let top := (natLen am : Int) + ae
  match op with
  | .rcp => ulps 1
  | .rsq => ulps 2
  | .sqrt => ulps 1
  | .ex2 => ulps 2
  | .lg2 => if 0 ≤ top ∧ (top ≤ 1 ∨ powerOfTwo am ae = some 1) then (1, -22) else ulps 2
  | .sin => (1, -21)
  | .cos => (1, -21)
  | .tanh => if top ≤ -10 then ulps 2 else (1, -21)

/-- A number times 2^e in units of 2^lo. -/
def inUnits (v : Int × Int) (lo : Int) : Int := v.1 * ((2 ^ (v.2 - lo).toNat : Nat) : Int)

/-- A value lies within a bound of a number, or of what lies beside it on a side, closer than any value comes to the bound's edge. -/
def withinBound (y x : Int × Int) (side : Int) (b : Nat × Int) : Bool :=
  let lo := min (min y.2 x.2) b.2
  let d := inUnits y lo - inUnits x lo
  let w := inUnits ((b.1 : Int), b.2) lo
  decide ((d.natAbs : Int) < w) || (decide ((d.natAbs : Int) = w) && decide (0 ≤ d * side))

/-- y lies within a bound of 1 / a: |y × a − 1| is at most the bound times |a|. -/
def rcpWithin (y a : Int × Int) (b : Nat × Int) : Bool :=
  let lo := min (min (y.2 + a.2) (b.2 + a.2)) 0
  decide ((inUnits (y.1 * a.1, y.2 + a.2) lo - inUnits (1, 0) lo).natAbs ≤ (inUnits ((b.1 : Int) * a.1, b.2 + a.2) lo).natAbs)

/-- y lies within a bound of 1 / √a, a positive: (y − b)² × a ≤ 1 ≤ (y + b)² × a, with y − b negative allowed. -/
def rsqWithin (y a : Int × Int) (b : Nat × Int) : Bool :=
  let lo := min y.2 b.2
  let less := inUnits y lo - inUnits ((b.1 : Int), b.2) lo
  let more := inUnits y lo + inUnits ((b.1 : Int), b.2) lo
  let unit := min (2 * lo + a.2) 0
  let square := fun v : Int => inUnits (v * v * a.1, 2 * lo + a.2) unit
  (decide (less ≤ 0) || decide (square less ≤ inUnits (1, 0) unit)) && decide (0 < more) &&
    decide (inUnits (1, 0) unit ≤ square more)

/-- SIN or COS of a magnitude above 2^15 (R245). -/
def FunOp.far (op : FunOp) (m : Nat) (e : Int) : Bool :=
  (op == .sin || op == .cos) && (decide (16 < (natLen m : Int) + e) ||
    ((natLen m : Int) + e == 16 && powerOfTwo m e != some 15))

/-- A pattern is an allowed result (R245, R246). -/
def FunOp.allows (f : FFmt) (op : FunOp) (neg : Bool) (m : Nat) (e : Int) (y : Nat) : Bool :=
  match f.decode y with
  | .nan => false
  | .inf yn =>
    -- only where the exact result overflows, counting the last unit below it
    let v := op.value neg m e
    !op.far m e && yn == v.1 && decide ((f.bias : Int) + 1 ≤ (natLen (v.2.1 + v.2.1 / 2 ^ (f.prec - 1)) : Int) - 1 + v.2.2)
  | .fin yn ym ye =>
    if op.far m e then decide ((natLen ym : Int) + ye ≤ 0) || (powerOfTwo ym ye == some 0)
    else
      let v := op.value neg m e
      let y : Int × Int := (if yn then -(ym : Int) else ym, ye)
      let b := op.bound f m e v.2.1 v.2.2
      match op with
      | .rcp => rcpWithin y (if neg then -(m : Int) else m, e) b
      | .rsq => rsqWithin y (m, e) b
      | _ => match op.beside neg m e with
        | some (c, side) => withinBound y c side b
        | none => withinBound y (if v.1 then -(v.2.1 : Int) else v.2.1, v.2.2) 0 b

/-- The result of an approximation in FP32 or FP64 (R245, R246): special, exact, or the fixed function's value where it
is allowed, and otherwise the exact value rounded. -/
def FunOp.run (f : FFmt) (op : FunOp) (a : Nat) : Nat :=
  let v := f.decode a
  match op.special v with
  | some x => f.round .rn 0 x
  | none =>
    match v with
    | .fin neg m e =>
      match op.exact f neg m e with
      | some x => f.round .rn 0 x
      | none =>
        let y := (Config.approx op.code (if f = f64 then 3 else 0) (BitVec.ofNat 64 a)).toNat % 2 ^ f.width
        if op.allows f neg m e y then y
        else let x := op.value neg m e; f.round .rn 0 (.fin x.1 x.2.1 x.2.2)
    | _ => f.nan

end Sys2Proof.Machine
end

