-- ==== Sys2Proof/Machine/Types.lean ====
section
/-! DEFINITION. The plain data that the state is made of: threads, home groups, blocks, grids, the engines' commands,
trap records and the registers of the device. Every type derives DecidableEq and Repr; no field is a function. -/

namespace Sys2Proof.Machine

/-! ## Threads and home groups -/

/-- What an agent has seen at an instance: for each thread, its latest clock that happens-before (R374). -/
abbrev View := Tab Nat

/-- An interval of signed values (R185): the shadow of an index register, or the interval of a source. -/
structure Interval where
  lo : Int := 0
  hi : Int := 0
  deriving DecidableEq, Repr

/-- An open GRD span: instructions still covered, and the guard g (R156). -/
structure Span where
  left : Nat
  g : Bool
  deriving DecidableEq, Repr

/-- The hint group that a thread carries to its next word (R151, R152). -/
structure HintGroup where
  /-- Address of the group's first word. -/
  start : DWord
  lit : Option (BitVec 24) := none
  blk : Option (BitVec 24) := none
  grd : Bool := false
  live : Option DWord := none
  step : Option (BitVec 24) := none
  region : Bool := false
  pref : Option (BitVec 2) := none
  sched : Option (BitVec 7) := none
  deriving DecidableEq, Repr

/-- A value in a bypass latch with the result interval of its producer (R143, R187). -/
structure Latch where
  value : DWord
  iv : Interval
  /-- The step at which its load or atomic issued, whose result may still be on its way (R168). -/
  born : Option Nat := none
  deriving DecidableEq, Repr

/-- What a thread waits for after its instruction has issued (R168, R182, R305, R400, R448). -/
inductive Wait where
  /-- It does not wait. -/
  | none
  /-- At a JOIN with its lane mask (R182). -/
  | join (addr : DWord) (mask : Word)
  /-- At a TAIL or MMA until every live thread of the group stands there (R305, R448). -/
  | whole (addr : DWord)
  /-- At BAR or CBAR for a phase of a barrier (R400). -/
  | bar (cluster : Bool) (b : Nat) (phase : Nat)
  deriving DecidableEq, Repr

/-- Why a thread is held at its position by a save or a cut (R425, R426, R436, R439). -/
inductive Halt where
  | none
  /-- Stopped at a LIVE point whose descriptor stands at the address. -/
  | live (desc : DWord)
  /-- Stopped before its next word or where it waits, for a save. -/
  | full
  /-- Stopped by the second deadline: it resumes at RENTRY. -/
  | restart
  /-- Stopped at a step boundary by a cut, with its SNUM. -/
  | cut (snum : BitVec 24)
  /-- Stopped by a migration: it has taken the migrate trap at the instruction address. -/
  | migrate (pc : DWord) (word : Word)
  deriving DecidableEq, Repr

/-- A live thread (R38, R166). -/
structure Thread where
  /-- Linear index in its block (R40). -/
  lin : Nat := 0
  /-- Program counter (R135). -/
  pc : DWord := 0
  /-- Call depth, 0 to 32 (R167). -/
  cd : Nat := 0
  /-- v0 to v95: the value each register reads as; an unmapped register is not listed and reads 0 (R139, R177). -/
  v : Tab Word := []
  /-- p0 to p63; p0 reads 1 (R10). -/
  p : BitVec 64 := 1
  /-- The generator state G (R74). -/
  gen : Word := 1
  /-- Region entry address, entry counter, recorded generator and span (R410). -/
  rentry : DWord := 0
  rcount : Word := 0
  rgen : Word := 1
  rspan : Option Span := none
  /-- The open GRD span (R156). -/
  span : Option Span := none
  /-- The hint group carried to the next word (R151). -/
  hints : Option HintGroup := none
  /-- The open latch run: results of its instructions, newest first (R143). -/
  run : Option (List (Option Latch)) := none
  /-- Uniform position (R174). -/
  upos : Nat := 0
  /-- Step count STEPS, and the SNUM of the barrier at which it waits (R158). -/
  steps : Word := 0
  snum : BitVec 24 := 0xFFFFFF
  wait : Wait := .none
  halt : Halt := .none
  /-- Set when the thread must resume at its region entry (R413). -/
  restart : Bool := false
  /-- Set by a BRK it executed (R422). -/
  brk : Bool := false
  /-- A FENCE.BANK that the thread has reached: the bundles that must complete, and what happened-before their issue (R368,
  R377). -/
  fence : Option (List Nat × View) := none
  /-- Cycle of its core from which it has been ready without issue (R170): of its last issue, or when it was next found ready or set
  going. -/
  since : Nat := 0
  /-- Its next instruction was tried and could not issue (R168). -/
  notReady : Bool := false
  /-- It has stalled on allocation, since this tick, for this many rows, and has not issued since (R178, R179). -/
  stalled : Option (Nat × Nat) := none
  deriving DecidableEq, Repr

/-- A refinement tag of a predicate (R192): register, relation CC of R210, bound. -/
structure Tag where
  reg : Nat
  cc : Nat
  c : Int
  deriving DecidableEq, Repr

/-- Results on their way to one thread's registers: lane, first register, whether a pair, value, the step at which the
instruction issued, and whether it is an acquire, which holds back the thread's later accesses (R389). -/
structure Landing where
  lane : Nat
  reg : Nat
  wide : Bool
  value : DWord
  born : Nat := 0
  acq : Bool := false
  deriving DecidableEq, Repr

/-- The continuation block of a split matrix command (R316). -/
structure Cont where
  opc : Byte
  fbyte : Byte
  tid : Byte
  xbyte : Byte
  nextkb : Byte
  rank : Nat := 0
  litv : BitVec 24 := 0
  litb : Bool := false
  qval : DWord := 0
  pc : DWord := 0
  deriving DecidableEq, Repr

/-- An MMA in flight (R306): its D and A ranges, its results and flags, what it has written after each k-block, and what
a split would write (R315). -/
structure MmaRun where
  dreg : Nat
  areg : Nat
  anum : Nat
  lastA : Bool
  /-- Results and INV after each k-block run, oldest first. -/
  stages : List (List Landing × Bool)
  cont : Cont
  deriving DecidableEq, Repr

/-- A class of outstanding operations (R376). -/
inductive OpClass where
  | copy | matrix | gather | bank | coll
  deriving DecidableEq, Repr

/-- An operation that a group has counted, for the WAITs that adopt it (R377): its class; its uniform position, bundle number,
or for a collective addition 1 for the cluster's barriers; and what happened-before its start, or what its phase released. -/
structure Op where
  cls : OpClass
  tag : Nat
  hb : View := []
  deriving DecidableEq, Repr

/-- The phase that a collective addition waits for (R400): the barrier, the phase, and, as phases complete, what their arrivals
released. -/
structure Phase where
  cluster : Bool
  bar : Nat
  /-- The first and the last phase of the bundle's arrivals. -/
  first : Nat
  phase : Nat
  done : Bool := false
  hb : View := []
  deriving DecidableEq, Repr

/-- A home group in its slot (R38, R112). -/
structure Group where
  /-- Key of its block. -/
  blk : Nat := 0
  /-- Number in its block (R40). -/
  num : Nat := 0
  /-- Mapped registers with their last-use masks (R177). -/
  rows : Tab Word := []
  /-- The bank of the register file that each mapped register's row lies in (R181). -/
  banks : Tab Nat := []
  /-- Shadows of v0 to v31; an unlisted one is [0, 0] (R186). -/
  shadows : Tab Interval := []
  /-- Refinement tags of p1 to p63 (R192). -/
  tags : Tab Tag := []
  /-- FSTAT (R62). -/
  fstat : Word := 0
  /-- NBM (R351). -/
  nbm : BitVec 2 := 0
  /-- Outstanding-operation counters (R376). -/
  nCopy : Nat := 0
  nMatrix : Nat := 0
  nGather : Nat := 0
  nBank : Nat := 0
  nColl : Nat := 0
  /-- The phases of its collective arrivals whose additions still count, oldest first (R400). -/
  coll : List Phase := []
  /-- The operations counted, oldest first, that a WAIT may adopt (R377). -/
  ops : List Op := []
  /-- Killed, while no Hatstand entry is free for what it leaves: it issues nothing and retires once one is (R414, R450). -/
  dying : Bool := false
  /-- Bank-command bundles not yet complete, oldest first: the bundle's number, and commands still to execute (R357). -/
  bankOut : List (Nat × Nat) := []
  /-- Loads and atomics whose results have not returned, oldest first (R168, R391). -/
  loads : List (List Landing) := []
  atomics : List (List Landing) := []
  mma : Option MmaRun := none
  /-- A continuation that must run before any thread of the group issues (R318). -/
  cont : Option Cont := none
  /-- Write bundles that must complete until no SPILL store is outstanding (R117). -/
  spill : Nat := 0
  /-- A load on its way has met a poisoned word at this physical address (R455). -/
  bad : Option Nat := none
  deriving DecidableEq, Repr

/-! ## Blocks -/

/-- A save asked of a block (R424, R179, R439): its SKIND; how many deadlines have passed since (R426); and whether the
image is held for a POP 4. -/
structure Saving where
  kind : Nat
  late : Nat := 0
  held : Bool := false
  deriving DecidableEq, Repr

/-- An array register (R48, R198). -/
structure ArrayReg where
  base : BitVec 57 := 0
  extent : BitVec 31 := 0
  esize : BitVec 2 := 0
  mode : Bool := true
  pclass : BitVec 2 := 0
  deriving DecidableEq, Repr

/-- STATE of a Cupboard entry (R268). -/
inductive TileState where
  | empty | filling | ready | draining
  deriving DecidableEq, Repr

/-- A Cupboard entry (R268). -/
structure Tile where
  state : TileState := .empty
  /-- SPACE: the core's own vault rather than the block's shared memory. -/
  vault : Bool := false
  offset : BitVec 16 := 0
  len : BitVec 16 := 0
  tid : Byte := 0
  /-- The model's own: the count of `fresh` when a region that released tiles had held was acquired, else 0 (R290). -/
  taken : Nat := 0
  deriving DecidableEq, Repr

/-- A named or cluster barrier (R399). `count = none`: unset; `some none`: live-count mode. -/
structure Barrier where
  phase : Nat := 0
  arrivals : Nat := 0
  count : Option (Option Nat) := none
  /-- Threads with an arrival in the phase, as block and linear index (R399 live-count mode). -/
  who : List (Nat × Nat) := []
  /-- What the arrivals of the phase release, and what those of each completed phase released that has departures to come
  (R372, R373). -/
  cur : View := []
  past : List (Nat × View) := []
  deriving DecidableEq, Repr

/-- What a uniform-stream instruction does besides its entry (R173, R176, R285). -/
inductive UniKind where
  /-- Its effect is complete. -/
  | plain
  /-- A UGET, whose value needs every live thread (R234): operation and 64-bit sources. -/
  | uget (op : BitVec 4) (wide : Bool)
  /-- A POST, which acts once every live thread has issued it (R235). -/
  | post (qa qb : DWord) (self : Bool)
  /-- A command counted in the copy counter (R286, R336). -/
  | copy
  /-- A command counted in the matrix counter (R313). -/
  | matrix
  deriving DecidableEq, Repr

/-- An entry of the decision queue (R173). -/
structure DqEntry where
  addr : DWord
  /-- Where a consuming thread continues: the next word, or the recorded outcome of a BRU. -/
  taken : Bool := false
  next : DWord
  kind : UniKind := .plain
  /-- The q register written; the value is absent until every contribution is in. -/
  wq : Option (Nat × Option DWord) := none
  wa : Option (Nat × ArrayReg) := none
  wk : Option (Nat × Option DWord) := none
  /-- Contributions of threads: linear index and value (R234). -/
  contrib : List (Nat × DWord) := []
  /-- What the threads that pass a POST release (R100, R372). -/
  hb : View := []
  /-- Flags of its command, once complete, for the groups that pass the entry later (R299, R336). -/
  flags : BitVec 6 := 0
  deriving DecidableEq, Repr

/-- Why the Lectern stands still (R173, R176, R235, R285). -/
inductive LectWait where
  | none
  /-- Until the entry with this uniform position has every contribution. -/
  | entry (pos : Nat)
  deriving DecidableEq, Repr

/-- The uniform stream of a block (R173). -/
structure Lectern where
  pc : DWord := 0
  ended : Bool := false
  wait : LectWait := .none
  hints : Option HintGroup := none
  /-- The Lectern's own latest values. -/
  q : Tab DWord := []
  a : Tab ArrayReg := []
  k : Tab DWord := []
  /-- Stopped by a word that fails a check of R149 (R226). -/
  stuck : Bool := false
  deriving DecidableEq, Repr

/-- What an engine command of a block is (R285, R310, R317, R336, R338). -/
inductive CmdKind where
  | fill | drain | copy | copym | mcast | mmat | kvpk | kvunp | psel | sbsend | sbmrg | release
  | slset | slapp | slgrow
  deriving DecidableEq, Repr

/-- Where an engine command stands (R285, R286, R288, R312). -/
inductive CmdState where
  /-- Issued, waiting for its SYNC condition. -/
  | sync
  /-- Ready to be carried out when its turn in stream order comes. -/
  | ready
  /-- Carried out; its bytes are on their way. -/
  | moved
  /-- Complete, but an earlier command of the block is not. -/
  | done
  /-- Stopped by a fault, waiting for resumption (R288). -/
  | failed
  /-- A Sideboard send that a save has taken back: it is executed again (R335). -/
  | withdrawn
  deriving DecidableEq, Repr

/-- An engine command in its block's stream (R285, R286). -/
structure Cmd where
  kind : CmdKind
  state : CmdState
  word : Word
  /-- Address of the instruction. -/
  pc : DWord
  /-- Uniform position of its entry. -/
  pos : Nat
  /-- ID, tile and tensor numbers and operand values as the kind needs them. -/
  src : Nat := 0
  dst : Nat := 0
  d0 : DWord := 0
  d1 : DWord := 0
  flag : Bool := false
  /-- Address of the slab record that it names, as bound when it was issued (R321). -/
  slab : DWord := 0
  /-- Groups (slots) that counted it. -/
  counted : List Nat := []
  /-- Groups (slots; while its block is saved, their numbers in the block) that passed its entry before a save, which left their
  counters at zero (R376); they take its flags (R299). -/
  passed : List Nat := []
  /-- Counted in the copy (false) or matrix (true) counter. -/
  matrix : Bool := false
  /-- First k-block of a continuation, and whether a save has split the MMAT: the rest runs before the Lectern goes on (R315,
  R318). -/
  from_ : Nat := 0
  split : Bool := false
  /-- What the threads that pass its entry release to its SYNC start (R285, R372). -/
  hb : View := []
  deriving DecidableEq, Repr

/-- A resident block in its context (R38, R112). -/
structure Block where
  gid : Nat := 0
  /-- `%block` (R41). -/
  num : Word := 0
  /-- Cluster number, or none in a block grid (R41). -/
  cluster : Option Nat := none
  rank : Nat := 0
  /-- Home-group slots of its groups, in group order (R112). -/
  slots : List Nat := []
  /-- A thread or its Lectern has issued a word (R119). -/
  started : Bool := false
  /-- Order of placement on the package (R179). -/
  placedAt : Nat := 0
  /-- Committed uniform, array and slab registers (R175, R198, R321); an unlisted slab is unbound. -/
  q : Tab DWord := []
  a : Tab ArrayReg := []
  k : Tab DWord := []
  /-- Shared memory (R114). -/
  shared : Bytes := []
  tiles : Tab Tile := []
  bars : Tab Barrier := []
  lect : Lectern := {}
  /-- Decision queue, oldest entry first, and the uniform position of the oldest. -/
  dq : List DqEntry := []
  dqBase : Nat := 0
  cmds : List Cmd := []
  /-- Sideboard rounds sent by this rank and rounds taken (rank 0) (R334). -/
  sbSent : Nat := 0
  sbTaken : Nat := 0
  /-- What happened-before the starts of its completed commands (R377). -/
  engineHb : View := []
  /-- A save in progress (R427). -/
  saving : Option Saving := none
  /-- Killed (R414): what fails of its commands is abandoned (R288). -/
  killed : Bool := false
  deriving DecidableEq, Repr

/-- The Sideboard channel of a cluster (R334, R335). -/
structure Channel where
  round : Nat := 0
  nextRank : Nat := 0
  nr : Nat := 0
  dv : Nat := 0
  /-- The running partial, as bytes in the layout of a partial tile. -/
  partialSum : Bytes := []
  mismatch : Option Nat := none
  deriving DecidableEq, Repr

/-- What a cluster shares (R118, R399). -/
structure Cluster where
  die : Nat := 0
  bars : Tab Barrier := []
  channel : Option Channel := none
  deriving DecidableEq, Repr

/-! ## Grids and queues -/

/-- The launch record as read (R42). -/
structure Launch where
  kind : Nat := 0
  prio : Nat := 0
  dieMask : Byte := 0
  migrate : Bool := false
  body7 : DWord := 0
  body6 : DWord := 0
  image : DWord := 0
  gridX : Nat := 0
  gridY : Nat := 0
  gridZ : Nat := 0
  blkX : Nat := 1
  blkY : Nat := 1
  blkZ : Nat := 1
  clSize : Nat := 0
  nTile : Nat := 0
  regBase : Nat := 1
  regMax : Nat := 1
  shmem : Nat := 0
  nBar : Nat := 0
  nCBar : Nat := 0
  deadline : Nat := 200
  args : DWord := 0
  trapH : DWord := 0
  trapArea : DWord := 0
  trapN : Nat := 1
  save : DWord := 0
  saveLen : Nat := 0
  jobId : Word := 0
  waitAddr : DWord := 0
  waitVal : DWord := 0
  sigAddr : DWord := 0
  sigVal : DWord := 0
  sigOp : Nat := 0
  deriving DecidableEq, Repr

/-- An entry of the tensor table (R49); a continuation entry has `etype` 255. -/
structure Tensor where
  base : BitVec 57 := 0
  scale : BitVec 57 := 0
  fmt : Half := 0
  etype : Nat := 0
  layout : Nat := 0
  ndim : Nat := 1
  scgran : Nat := 0
  tilem : Nat := 0
  tilen : Nat := 0
  /-- Extents and strides of its eight dimensions. -/
  ext : List Nat := []
  stride : List Int := []
  deriving DecidableEq, Repr

/-- Where a grid came from: a die queue or a core's local queue (R94, R99). -/
inductive Origin where
  | die (d : Nat) (q : Nat)
  | core (g : Nat)
  deriving DecidableEq, Repr

/-- Stage of a grid (R97, R105, R107). -/
inductive GridStage where
  | waiting | eligible | killed
  deriving DecidableEq, Repr

/-- What the host has asked of a grid (R424, R436). -/
inductive GridHold where
  | none
  /-- POP 2: saved blocks are held, and no further block is placed. -/
  | hold
  /-- POP 3: threads stop at step boundaries; the target M once it is known. -/
  | cut (m : Option Nat)
  /-- The cut is complete. -/
  | cutDone
  deriving DecidableEq, Repr

/-- A grid from the moment its record passed its checks (R45, R97). -/
structure Grid where
  launch : Launch := {}
  /-- Address of its launch record. -/
  addr : DWord := 0
  asid : BitVec 6 := 0
  origin : Origin := .die 0 0
  stage : GridStage := .waiting
  /-- Order in which heads became eligible (R102). -/
  since : Nat := 0
  const : List DWord := []
  arrays : List ArrayReg := []
  tensors : List Tensor := []
  /-- Next block (or cluster) to place. -/
  nextBlock : Nat := 0
  /-- Blocks (or clusters) retired. -/
  done : Nat := 0
  hold : GridHold := .none
  /-- Code lengths of its bodies (R80). -/
  codeLen7 : Nat := 0
  codeLen6 : Nat := 0
  /-- FCLASS of the CD7 body names attention: its clusters hold a Sideboard channel (R118, R430). -/
  attention : Bool := false
  /-- The core that posted its card (R102). -/
  poster : Nat := 0
  /-- A POP 2 that stood when its cut began still holds it (R424, R436). -/
  held : Bool := false
  /-- What happens-before its first instructions: at the die of its post, and at the package (R372). -/
  postHb : View := []
  startHb : View := []
  /-- What happened-before the operations that its retired groups and blocks had counted or started: its completion adopts them
  (R377). -/
  endHb : View := []
  deriving DecidableEq, Repr

/-- A die queue (R95). -/
structure Queue where
  base : DWord := 0
  size : BitVec 5 := 0
  en : Bool := false
  evt : Bool := false
  tail : Word := 0
  head : Word := 0
  /-- The grid of the head entry. -/
  cur : Option Nat := none
  /-- Entries up to here are discarded once the head has finished placing (R98). -/
  abortTo : Option Word := none
  asid : BitVec 6 := 0
  /-- Doorbells still needed: QTAIL as written, and the time (R102). -/
  rings : List (Word × Nat) := []
  deriving DecidableEq, Repr

/-- A job card in a local queue (R99). -/
structure Card where
  addr : DWord
  asid : BitVec 6
  /-- The posting core (R102). -/
  poster : Nat
  /-- What the posting threads release (R100). -/
  hb : View := []
  /-- Time of the post (R102). -/
  since : Nat := 0
  deriving DecidableEq, Repr

/-- A local queue of a core with the grid of its head (R99, R101). -/
structure Local where
  cards : List Card := []
  cur : Option Nat := none
  deriving DecidableEq, Repr

/-- A cluster reservation (R103). -/
structure Reservation where
  gid : Nat
  die : Nat
  /-- It stands; otherwise its cluster waits for the reservation that stands on the die to end. -/
  stands : Bool := false
  deriving DecidableEq, Repr

/-- A Hatstand entry (R450). -/
structure Hat where
  ctx : Nat
  slot : Nat
  copy : Nat
  matrix : Nat
  gather : Nat
  nbank : Nat
  bankOut : List (Nat × Nat) := []
  /-- Write bundles until no SPILL store of the slot is outstanding (R117). -/
  spill : Nat := 0
  deriving DecidableEq, Repr

/-! ## Traps -/

/-- A trap record from its raising to its answer (R53, R405 to R415). -/
structure Rec where
  code : Nat
  resumable : Bool
  host : Bool
  die : Nat
  core : Nat
  slot : Nat
  gid : Nat
  /-- Number of its group in the block; the group and block are found by grid and `%block`, also after a save. -/
  grpNum : Nat
  blkNum : Word
  cluster : Word
  jobId : Word
  lanes : Word
  pc : DWord
  rentry : DWord
  rcount : Word
  addr : DWord
  info : List DWord
  /-- A block trap rather than a group trap (R405). -/
  block : Bool
  /-- A block trap stops the threads of the block too; that of a ULD does not (R233). -/
  threads : Bool := true
  /-- Record number once written (R52), and the 128 bytes as written. -/
  seq : Option Nat := none
  raw : Nat := 0
  /-- Delivered to the host (answerable through TRACT). -/
  toHost : Bool := false
  /-- Being handled by the handler context of its core. -/
  inHandler : Bool := false
  /-- An answer given while its block is saved: it takes effect at the restore (R415). -/
  answer : Option Nat := none
  /-- What the handler context released when its TRET passed the record to the host (R420). -/
  hb : View := []
  deriving DecidableEq, Repr

/-- A block saved in its image slot (R424, R429); beside the image, what the image format does not carry: the members of
live-count phases, what a queue entry writes beside its value, its commands, the scratch slices of its threads (R115), the vault
bytes of its tiles (R271), the rows it needs beyond its reservations (R113), whether it had started (R119), and what its threads
and engines had released. -/
structure Saved where
  gid : Nat
  num : Word
  cluster : Option Nat
  rank : Nat
  slot : Nat
  /-- The die it was saved on. -/
  die : Nat
  kind : Nat
  /-- Held by POP 2 until POP 4. -/
  held : Bool
  /-- Its last restore was refused or met a fault: the next waits for POP 4 (R435, R444). -/
  refused : Bool := false
  bars : Tab Barrier := []
  clBars : Tab Barrier := []
  dq : List DqEntry := []
  /-- Uniform position of the oldest entry. -/
  base : Nat := 0
  cmds : List Cmd := []
  /-- Byte o of the slice of the thread with linear index i, at 1024 i + o. -/
  slices : Bytes := []
  /-- Bytes of its ready vault tiles, by their offset in the vault. -/
  vault : Bytes := []
  /-- When its tiles' regions were acquired, by entry (R290). -/
  taken : Tab Nat := []
  /-- STEPS of its live threads, which a cut of its grid takes into account (R437). -/
  steps : List Nat := []
  grown : Nat := 0
  started : Bool := true
  sent : Nat := 0
  drawn : Nat := 0
  engineHb : View := []
  view : View := []
  /-- What each group had counted for its WAITs (R377), by its number in the block. -/
  ops : Tab (List Op) := []
  deriving DecidableEq, Repr

/-- A unit being migrated (R439): its grid, its cluster or block number, its blocks while they are resident, the class it
needs, the groups that took the migrate trap, its die, and whether it is saved. -/
structure Migration where
  gid : Nat
  unit : Option Nat × Nat
  blks : List Nat
  cls : Nat
  trapped : List Nat
  srcDie : Nat
  saved : Bool := false
  deriving DecidableEq, Repr

/-- A relocation of a slab in progress (R326, R327, R330). -/
structure Reloc where
  /-- Core of the copy engine. -/
  core : Nat
  asid : BitVec 6
  /-- Virtual address of the record. -/
  record : DWord
  /-- Next chunk to move. -/
  chunk : Nat
  /-- The chunk's lock has been written. -/
  locked : Bool := false
  /-- The chunk has met a fault and is retried (R330). -/
  retry : Bool := false
  deriving DecidableEq, Repr

/-! ## Near-bank units -/

/-- What of an accumulator an NBRD writes into one granule (R366): lanes 0 to 7, lanes 8 to 15, or all as half-words. -/
inductive BankPart where
  | low | high | halves
  deriving DecidableEq, Repr

/-- What a bank executes for one granule (R354, R363 to R367), named by its physical address. -/
inductive BankOp where
  | bc (w : Nat) (elems : List Half)
  | ldw (w : Nat) (granule : Nat)
  | mac (k : Nat) (w : Nat) (granule : Nat) (scalar : Option Nat) (zc : Bool)
  | rd (k : Nat) (granule : Nat) (part : BankPart) (clr : Bool)
  | clr (z w : Byte)
  deriving DecidableEq, Repr

/-- A command in a bank's queue (R357): its operation, element type BF16?, the group it counts for, and the model's number
of its bundle. -/
structure BankCmd where
  op : BankOp
  bf : Bool
  grp : Nat
  tag : Nat
  /-- Address space whose translation gave the granule (R130). -/
  asid : Nat := 0
  /-- What happened-before its issue, for the threads that adopt it (R377). -/
  hb : View := []
  deriving DecidableEq, Repr

/-- A bank unit (R349): z and w registers (unlisted ones are +0) and its queue. -/
structure Bank where
  z : Tab (List Word) := []
  w : Tab (List Half) := []
  queue : List BankCmd := []
  deriving DecidableEq, Repr

/-! ## Registers of the device -/

/-- Self-test and service state of a die (R458). DESIGN CHOICE (log 9), unsafe. -/
structure Die where
  /-- CLKCEIL, CLKNOW in MHz (R26, R32). -/
  clkCeil : Nat := 3300
  clkNow : Nat := 1100
  /-- Hot until the junction falls below 100 (R33). -/
  hot : Bool := false
  tj : Byte := 0
  coreOff : BitVec 40 := 0
  off : Bool := false
  /-- STATE: 0 self-test, 1 in service, 2 out of service. -/
  st : BitVec 2 := 0
  deriving DecidableEq, Repr

/-- A stack's map-out registers (R459) and its scrub state (R463, R464). -/
structure Stack where
  laymap : List Nat := [0, 1, 2, 3, 4, 5, 6, 7, 8, 9, 10, 11, 12, 13, 14, 15]
  cap : Nat := 0
  layOff : Half := 0
  moLayer : BitVec 4 := 0
  moStat : BitVec 3 := 0
  moGo : Bool := false
  /-- The layer being mapped out, frames of its slot already copied (R461), and whether a poisoned granule was met. -/
  moOut : BitVec 4 := 0
  moFrame : Nat := 0
  moPoison : Bool := false
  /-- Hot list: row number and score (R463). -/
  hot : List (Nat × Nat) := []
  /-- Spare rows used per bank of the stack (R464). -/
  spares : Tab Nat := []
  /-- A frame list: FRBASE, FRCOUNT, FRCAP (R134). -/
  frBase : DWord := 0
  frCount : Half := 0
  frCap : Half := 0
  deriving DecidableEq, Repr

/-- An event counter (R467): COUNT, SRC, EN, USR. -/
structure Counter where
  count : DWord := 0
  src : Byte := 0
  en : Bool := false
  usr : Bool := false
  deriving DecidableEq, Repr

/-- Registers of one address space (R122). -/
structure Space where
  root : DWord := 0
  invVa : DWord := 0
  invSz : BitVec 2 := 0
  en : Bool := false
  invGo : Bool := false
  deriving DecidableEq, Repr

/-- TRACT of a die (R415). -/
structure Tract where
  area : DWord := 0
  seq : DWord := 0
  err : Bool := false
  busy : Bool := false
  deriving DecidableEq, Repr

/-- PRECTL (R423). -/
structure Prectl where
  job : Word := 0
  pop : BitVec 3 := 0
  err : Bool := false
  go : Bool := false
  stat : BitVec 4 := 0
  cnt : Word := 0
  /-- The grid of the command in progress. -/
  gid : Nat := 0
  deriving DecidableEq, Repr

/-- A page move in progress (R132): ASID, virtual page, the entry that the placer walked with its place, the destination stack
and the frame taken from its list. -/
structure PageMove where
  asid : Nat
  va : Nat
  entry : Nat
  slot : Nat
  stack : Nat
  frame : Nat
  deriving DecidableEq, Repr

/-- PLCTL (R134), and the pages chosen at the end of the last epoch: ASID, 2 MiB virtual page, stack (R131). -/
structure Placer where
  en : Bool := false
  rate : BitVec 4 := 4
  plMin : Half := 64
  plMax : Byte := 16
  moves : List (Nat × Nat × Nat) := []
  /-- The move in progress (R132). -/
  moving : Option PageMove := none
  deriving DecidableEq, Repr

/-- A translation cache: a core's, or the shared one of a die (R128). -/
inductive TlbOwner where
  | core (c : Nat)
  | die (d : Nat)
  deriving DecidableEq, Repr

/-- A translation held in a cache (R128): address space, virtual page address, and the leaf with its place. -/
structure TlbEntry where
  owner : TlbOwner
  asid : Nat
  va : Nat
  entry : Nat
  log : Nat
  slot : Nat
  deriving DecidableEq, Repr

/-- The event ring (R27, R28). -/
structure EventRing where
  base : DWord := 0
  size : BitVec 5 := 0
  en : Bool := false
  mask : Bool := false
  ovf : Bool := false
  head : Word := 0
  tail : Word := 0
  lost : Word := 0
  /-- An interrupt is held back by the 2 us limit; the limit is running. -/
  held : Bool := false
  limit : Bool := false
  /-- Interrupts raised on MSI-X vector 0. -/
  raised : Nat := 0
  deriving DecidableEq, Repr

/-- SCRUBCTL (R465). -/
structure Scrub where
  en : Bool := true
  period : Nat := 12
  rthr : Byte := 64
  deriving DecidableEq, Repr

/-- Attestation registers (R474). -/
structure Attest where
  nonce : BitVec 256 := 0
  go : Bool := false
  err : Bool := false
  meas : BitVec 256 := 0
  /-- The digest being signed while AGO reads 1. -/
  digest : BitVec 256 := 0
  /-- The digest whose signature ASIG holds; none: ASIG reads 0. -/
  sig : Option (BitVec 256) := none
  deriving DecidableEq, Repr

/-- An error in a storage cell of a core that is to be met at the next step (R454, R455): a correctable one, in a structure
numbered as in R29 (0 register file, 1 L1 and shared memory, 3 L2, 4 Cupboard or decision queue), or, beyond correction, a register row of a home
group, or a word that a block holds: of its shared memory, a Cupboard entry or its decision queue. -/
inductive CellError where
  | correctable (core part : Nat)
  | row (group : Nat)
  | held (block : Nat)
  deriving DecidableEq, Repr

/-- DEVSTATE (R470). -/
inductive DevState where
  | reset | bringUp | full | failed
  deriving DecidableEq, Repr

/-! ## Happens-before and race detection -/

/-- A scope instance (R371). -/
inductive Inst where
  | thread (tid : Nat)
  | block (gid : Nat) (num : Nat)
  | cluster (gid : Nat) (cl : Nat)
  | die (d : Nat)
  | package
  | fabric
  deriving DecidableEq, Repr

/-- What one thread has seen at one instance (R374); the same shape holds what a fence of it made ready to release, and
what its relaxed atomics read (R375). -/
structure Seen where
  inst : Inst
  tid : Nat
  view : View
  deriving DecidableEq, Repr

/-- A location that holds the value of a release, or of a chain of atomics from it (R373). -/
structure Released where
  loc : Nat
  size : Nat
  inst : Inst
  view : View
  deriving DecidableEq, Repr

/-- A checked access recorded for a granule (R384). -/
structure Checked where
  gran : Nat
  va : DWord
  asid : BitVec 6
  gid : Nat
  cluster : Option Nat
  blk : Word
  lin : Nat
  core : Nat
  bytes : Nat
  wrote : Bool
  /-- The instance of an atomic; none for a plain access. -/
  atomic : Option Inst
  clock : Nat
  rcount : Word
  deriving DecidableEq, Repr

/-- The order of accesses that race detection needs (R370 to R377, R384). -/
structure Order where
  /-- Each thread's own clock; an unlisted one is 1. -/
  clocks : Tab Nat := []
  seen : List Seen := []
  /-- What each thread has adopted: ordered before it at every instance (R377). -/
  adopted : Tab View := []
  fenced : List Seen := []
  pending : List Seen := []
  /-- What the fences of an instance have ordered (R375). -/
  fences : List (Inst × View) := []
  words : List Released := []
  checked : List Checked := []
  deriving DecidableEq, Repr

/-! ## The model's own fields -/

/-- Who executes the instruction given to exec. -/
inductive Agent where
  /-- A bundle of threads (R170); a handler context is one thread in slot 64. -/
  | threads
  /-- The Lectern of a block (R173). -/
  | lectern
  deriving DecidableEq, Repr

/-- The issue that step has chosen: the agent, its core and block context, the word's address, the word, and the
members of the bundle in lane order. -/
structure Issue where
  agent : Agent := .threads
  core : Nat := 0
  ctx : Nat := 0
  pc : DWord := 0
  word : Word := 0
  members : List Nat := []
  /-- Reason of R126 of a fetch that faulted. -/
  fetchReason : Option Nat := none
  deriving DecidableEq, Repr

end Sys2Proof.Machine
end

