-- ==== Sys2Proof/Machine/State.lean ====
section
/-! DEFINITION. The machine's state: everything the manual gives the Limgil 960, as plain data, with the state after
reset; and the reasons for which a step can stop. -/

namespace Sys2Proof.Machine

/-- Why the machine stops. -/
inductive Fault where
  /-- A device operation or an issue names a die, core, queue, stack or other unit that the package does not have
  (R13 to R21). Raised by the operations of the device for such an argument; safe: no such unit can act. -/
  | noSuchUnit
  deriving DecidableEq, Repr

/-- Why an instruction has no meaning here. -/
inductive Refusal where
  /-- The instruction has no meaning yet. Raised by the dispatch only; safe. -/
  | notModelled (mnemonic : String)
  deriving DecidableEq, Repr

/-- Which agent moves next: an operation of the device or of the host, a picker, the Lectern of a block, or the handler
context of a core. -/
inductive Turn where
  | device (i : Instr)
  | pick (core : Nat)
  | lectern (core ctx : Nat)
  | handler (core : Nat)
  deriving DecidableEq, Repr

/-- Device management: what no LNI instruction writes. -/
structure Mgmt where
  /-- DEVSTATE (R470). -/
  devState : DevState := .reset
  /-- Resets the ROM has performed, to index its verdict (R473). -/
  boots : Nat := 0
  /-- Clocks, temperatures and service state of the eight dies (R26, R458). -/
  dies : List Die := []
  /-- The twelve stacks (R134, R459, R463). -/
  hbm : List Stack := []
  /-- GOVEST in W (R25). -/
  govEst : Half := 0
  scrub : Scrub := {}
  attest : Attest := {}
  placer : Placer := {}
  deriving DecidableEq, Repr

/-- The host interface: control BAR registers outside the management of dies and stacks. -/
structure HostIf where
  /-- APBASE [51:32] (R25). -/
  apBase : BitVec 20 := 0x00100
  /-- The value that the last aperture read returned. -/
  apRead : DWord := 0
  ring : EventRing := {}
  /-- Address spaces by ASID; an unlisted one is at its reset value (R122). -/
  spaces : Tab Space := []
  /-- TRACT by die; an unlisted one is at its reset value (R415). -/
  tract : Tab Tract := []
  prectl : Prectl := {}
  /-- NBOWN by global pseudo-channel: ASID and EN (R350). -/
  nbown : Tab (BitVec 6 × Bool) := []
  /-- What the host's aperture reads have acquired at the package instance (R25). -/
  view : View := []
  deriving DecidableEq, Repr

/-- A core: what it holds beside its blocks and groups. -/
structure Core where
  /-- Open latch runs held by its pickers: the members of each (R171). -/
  runs : List (List Nat) := []
  /-- Hatstand entries in use (R450). -/
  hats : List Hat := []
  /-- The local queue (R99). -/
  queue : Local := {}
  /-- The handler context runs, with TRET not yet executed (R416). -/
  handling : Bool := false
  /-- The cycle in progress (R170): its number, how many of the four pickers have issued in it, and the threads that they took. -/
  cycle : Nat := 0
  picks : Nat := 0
  taken : List Nat := []
  /-- The read-only cache: words by physical address / 4 (R272, R273). DEDUCED (log 43), unsafe. -/
  ro : Tab Word := []
  deriving DecidableEq, Repr

/-- The state of the Limgil 960. -/
structure State where
  mgmt : Mgmt := {}
  host : HostIf := {}
  /-- Event counters: key core × 16 + c, or 4864 + die × 64 + n (R467). -/
  counters : Tab Counter := []
  /-- Physical memory: HBM, vaults with their scratch slices, and the far tier (R120). -/
  mem : Bytes := []
  /-- Physical addresses of poisoned 32-bit words; a poisoned HBM granule lists its eight words (R455).
  DESIGN CHOICE (log 8), unsafe. -/
  poison : List Nat := []
  /-- The poisoned granules and words whose detection has been reported to the host (R29, R454). -/
  found : List Nat := []
  /-- The poisoned granules whose row has been retired with them: the marks went to the spare row with the data (R464). -/
  carried : List Nat := []
  /-- Regions of released tiles, as location, bytes and the count of `fresh` at the release, without what has been stored there since:
  what they hold is unspecified to later tiles (R290). -/
  released : List (Nat × Nat × Nat) := []
  /-- Physical addresses of 32-byte granules that hold a correctable error (R454, R463): faults come from outside. -/
  weak : List Nat := []
  /-- Residue mismatches to come, by core: 1 a transient fault, 2 one that repeats (R456): faults come from outside. -/
  upsets : Tab Nat := []
  /-- Errors in the cores' own storage cells that the next step meets (R454, R455): faults come from outside. -/
  cells : List CellError := []
  /-- Translations held in the TLBs of cores and dies, oldest first (R128). DEDUCED (log 34), unsafe. -/
  tlb : List TlbEntry := []
  /-- Samples of the placer's epoch (R131): ASID, 2 MiB virtual page, die; and the memory bundles that each core has issued
  since its last sample. -/
  samples : List (Nat × Nat × Nat) := []
  sampling : Tab Nat := []
  /-- Happens-before, and the checked accesses recorded (R374, R384). -/
  order : Order := {}
  /-- Near-bank units by global bank number 1024 × stack + 16 × pseudo-channel + bank (R349). -/
  banks : Tab Bank := []
  /-- Die queues by 64 × die + queue; an unlisted one is at its reset value (R95, R123). -/
  queues : Tab Queue := []
  /-- Grids by their number, and the number of the next grid. -/
  grids : Tab Grid := []
  nextGrid : Nat := 0
  /-- Cluster reservations (R103). -/
  reservations : List Reservation := []
  cores : Tab Core := []
  /-- Blocks by 16 × core + context. -/
  blocks : Tab Block := []
  /-- Clusters by grid × 2^64 + cluster. -/
  clusters : Tab Cluster := []
  /-- Home groups by 65 × core + slot; slot 64 is the core's handler context (R416). -/
  groups : Tab Group := []
  /-- Live threads by 32 × group key + lane. -/
  threads : Tab Thread := []
  /-- Trap records not yet answered (R52, R413). -/
  records : List Rec := []
  /-- Saved blocks (R424). -/
  saved : List Saved := []
  migrations : List Migration := []
  relocs : List Reloc := []
  /-- Model: the agents that move next. DEDUCED (log 4), safe. -/
  turns : List Turn := []
  /-- Model: who executes the instruction given to exec. -/
  issue : Issue := {}
  /-- Model: counter for free values. DESIGN CHOICE (log 3), safe. -/
  fresh : Nat := 0
  /-- Model: count of steps, for the ages of R170 and R102. -/
  tick : Nat := 0
  deriving DecidableEq, Repr

/-- The machine after reset: every register at the value its table states. -/
def State.reset : State :=
  { mgmt := { dies := List.replicate 8 {}, hbm := List.replicate 12 {} } }

/-- The outcome of an instruction or a step. -/
abbrev Res := Host.Outcome State Fault Refusal

end Sys2Proof.Machine
end

