-- ==== Sys2Proof/Machine/Ops.lean ====
section
/-! DEFINITION. The named operations over the state: keys and accessors, the physical map and address translation,
events, the end of threads, groups, blocks and grids, and taking and answering a trap. -/

namespace Sys2Proof.Machine

/-! ## Keys and accessors -/

/-- Key of a home group: core and slot; slot 64 is the handler context. -/
def gKey (core slot : Nat) : Nat := 65 * core + slot

/-- Key of a thread: group key and lane. -/
def tKey (g lane : Nat) : Nat := 32 * g + lane

/-- Key of a block: core and context. -/
def bKey (core ctx : Nat) : Nat := 16 * core + ctx

/-- Group key of a thread key. -/
def grpOf (t : Nat) : Nat := t / 32

/-- Lane of a thread key. -/
def laneOf (t : Nat) : Nat := t % 32

/-- Core of a group key. -/
def coreOfG (g : Nat) : Nat := g / 65

/-- Slot of a group key. -/
def slotOfG (g : Nat) : Nat := g % 65

/-- Core of a block key. -/
def coreOfB (b : Nat) : Nat := b / 16

/-- A group is the handler context of its core (R416). -/
def isHandler (g : Nat) : Bool := slotOfG g == 64

/-- A thread, with default fields where there is none. -/
def State.thread (s : State) (k : Nat) : Thread := tabGetD s.threads k {}

/-- A group, with default fields where there is none. -/
def State.group (s : State) (g : Nat) : Group := tabGetD s.groups g {}

/-- A block, with default fields where there is none. -/
def State.block (s : State) (b : Nat) : Block := tabGetD s.blocks b {}

/-- A grid, with default fields where there is none. -/
def State.grid (s : State) (n : Nat) : Grid := tabGetD s.grids n {}

/-- A core, with default fields where there is none. -/
def State.core (s : State) (c : Nat) : Core := tabGetD s.cores c {}

/-- The cycle of the core that issues (R170). -/
def State.now (s : State) : Nat := (s.core s.issue.core).cycle

/-- The cycle of a thread's core (R170). -/
def State.cycleOf (s : State) (k : Nat) : Nat := (s.core (coreOfG (grpOf k))).cycle

/-- A die's registers. -/
def State.die (s : State) (d : Nat) : Die := s.mgmt.dies.getD d {}

/-- A stack's registers. -/
def State.stack (s : State) (n : Nat) : Stack := s.mgmt.hbm.getD n {}

/-- The block of a group. -/
def State.blockOf (s : State) (g : Nat) : Block := s.block (s.group g).blk

/-- The grid of a block. -/
def State.gridOf (s : State) (b : Nat) : Grid := s.grid (s.block b).gid

/-- The address space of a block (R123). -/
def State.asidOf (s : State) (b : Nat) : BitVec 6 := (s.gridOf b).asid

/-- REGMAX of a group: 16 in the handler context (R113, R416). -/
def State.regMaxOf (s : State) (g : Nat) : Nat :=
  if isHandler g then 16 else (s.gridOf (s.group g).blk).launch.regMax

def State.setThread (s : State) (k : Nat) (t : Thread) : State := { s with threads := tabSet s.threads k t }
def State.setGroup (s : State) (g : Nat) (x : Group) : State := { s with groups := tabSet s.groups g x }
def State.setBlock (s : State) (b : Nat) (x : Block) : State := { s with blocks := tabSet s.blocks b x }
def State.setGrid (s : State) (n : Nat) (x : Grid) : State := { s with grids := tabSet s.grids n x }
def State.setCore (s : State) (c : Nat) (x : Core) : State := { s with cores := tabSet s.cores c x }
def State.setDie (s : State) (d : Nat) (x : Die) : State :=
  { s with mgmt := { s.mgmt with dies := s.mgmt.dies.set d x } }
def State.setStack (s : State) (n : Nat) (x : Stack) : State :=
  { s with mgmt := { s.mgmt with hbm := s.mgmt.hbm.set n x } }
def State.modThread (s : State) (k : Nat) (f : Thread → Thread) : State :=
  { s with threads := tabModify s.threads k f }
def State.modGroup (s : State) (g : Nat) (f : Group → Group) : State :=
  { s with groups := tabModify s.groups g f }
def State.modBlock (s : State) (b : Nat) (f : Block → Block) : State :=
  { s with blocks := tabModify s.blocks b f }
def State.modGrid (s : State) (n : Nat) (f : Grid → Grid) : State := { s with grids := tabModify s.grids n f }

/-- Live threads of a group: their keys, in lane order (R40, R447). -/
def State.liveOf (s : State) (g : Nat) : List Nat :=
  (s.threads.filter fun e => grpOf e.1 == g).map (·.1)

/-- Group keys of a block, in group order; the handler context is none of them. -/
def State.groupsOf (s : State) (b : Nat) : List Nat :=
  (s.block b).slots.map (gKey (coreOfB b)) |>.filter fun g => (tabGet s.groups g).isSome

/-- Live threads of a block, in order of group and lane. -/
def State.liveOfBlock (s : State) (b : Nat) : List Nat := (s.groupsOf b).flatMap s.liveOf

/-- Blocks of a grid, by key. -/
def State.blocksOf (s : State) (gid : Nat) : List Nat :=
  (s.blocks.filter fun e => e.2.gid == gid).map (·.1)

/-- Key of a cluster in the cluster table. -/
def clKey (gid cl : Nat) : Nat := gid * 2 ^ 64 + cl

/-- Blocks of a cluster, by key. -/
def State.blocksOfCluster (s : State) (gid cl : Nat) : List Nat :=
  (s.blocks.filter fun e => e.2.gid == gid && e.2.cluster == some cl).map (·.1)

/-- The block of a rank of a cluster, if it is resident. -/
def State.blockOfRank (s : State) (gid cl rank : Nat) : Option Nat :=
  (s.blocks.find? fun e => e.2.gid == gid && e.2.cluster == some cl && e.2.rank == rank).map (·.1)

/-- Threads per block (R112). -/
def Launch.threads (r : Launch) : Nat := r.blkX * r.blkY * r.blkZ

/-- Home groups per block (R112). -/
def Launch.groups (r : Launch) : Nat := ceilDiv r.threads 32

/-- Shared memory of a block in bytes, rounded under R114. -/
def Launch.sharedBytes (r : Launch) : Nat := roundUp (r.shmem * 1024) 16384

/-- Body header of the launch record for a die (R109). -/
def Launch.bodyFor (r : Launch) (die : Nat) : DWord := if Config.isCd6 die then r.body6 else r.body7

/-- The first code word on a die (R80). -/
def Launch.codeFor (r : Launch) (die : Nat) : DWord := r.bodyFor die + 128

/-- Lexicographic order on lists of numbers. -/
def keyLess : List Nat → List Nat → Bool
  | [], _ => false
  | _ :: _, [] => false
  | a :: as, b :: bs => decide (a < b) || (a == b && keyLess as bs)

/-- The first of a list by a key. -/
def firstBy {α : Type} (key : α → List Nat) : List α → Option α
  | [] => none
  | x :: xs => some (xs.foldl (fun m y => if keyLess (key y) (key m) then y else m) x)

/-! ## Physical memory and translation -/

/-- What a physical address belongs to (R120). -/
inductive Region where
  | hbm | vault | scratch | far | reserved
  deriving DecidableEq, Repr

/-- First physical address of the vaults (R120). -/
def vaultBase : Nat := 0x10000000000

/-- First physical address of the far tier (R120). -/
def farBase : Nat := 0x8000000000000

/-- The region of a physical address, with the slots out of service (R461) and the ranges that bring-up reserves
(R471). -/
def physRegion (m : Mgmt) (a : Nat) : Region :=
  if a < 12 * 2 ^ 36 then
    if m.devState == .full && decide (a % 2 ^ 36 / 2 ^ 32 < (m.hbm.getD (a / 2 ^ 36) {}).cap) then .hbm
    else .reserved
  else if vaultBase ≤ a ∧ a < vaultBase + 304 * 2 ^ 23 then
    let o := a - vaultBase
    if m.devState != .full && decide (o / 2 ^ 23 < 240) then .reserved
    else if o % 2 ^ 23 < 6 * 2 ^ 20 then .vault else .scratch
  else if farBase ≤ a ∧ a < 2 ^ 52 then (if m.devState == .full then .far else .reserved)
  else .reserved

/-- Physical address of byte `o` of the vault of a global core (R120). -/
def vaultAddr (core o : Nat) : Nat := vaultBase + 2 ^ 23 * core + o

/-- Physical address of a lane's scratch slice (R115). -/
def sliceAddr (core slot lane : Nat) : Nat := vaultAddr core (6 * 2 ^ 20 + 1024 * (32 * slot + lane))

/-- Base of the vault window of a global core (R121). -/
def windowBase (core : Nat) : Nat := 0x1F0000000000000 + 2 ^ 23 * core

/-- The top 2 MiB of some core's vault window (R121). -/
def inWindowTop (va : Nat) : Bool :=
  decide (windowBase 0 ≤ va) && decide (va < windowBase 304) &&
    decide (6 * 2 ^ 20 ≤ (va - windowBase 0) % 2 ^ 23)

/-- What an access does, for the reasons of R126. -/
inductive Access where
  | load | store | fetch
  /-- Copy engine: far pages are allowed. -/
  | copyRead | copyWrite
  /-- Near-bank command, and near-bank write-back. -/
  | bank | bankWrite
  deriving DecidableEq, Repr

/-- A page leaf found by a walk (R125). -/
structure Leaf where
  entry : Nat
  /-- log2 of the page size: 16, 21 or 30. -/
  log : Nat
  /-- Physical address of the entry itself. -/
  slot : Nat
  deriving DecidableEq, Repr

/-- Physical page address of a leaf. -/
def Leaf.page (l : Leaf) : Nat := bitsNat l.entry 51 16 * 2 ^ 16
/-- W, X, CHK, CC, FAR and PIN of a leaf (R125). -/
def Leaf.w (l : Leaf) : Bool := bitNat l.entry 2
def Leaf.x (l : Leaf) : Bool := bitNat l.entry 3
def Leaf.chk (l : Leaf) : Bool := bitNat l.entry 4
def Leaf.cc (l : Leaf) : Bool := bitNat l.entry 5
def Leaf.far (l : Leaf) : Bool := bitNat l.entry 6
def Leaf.pin (l : Leaf) : Bool := bitNat l.entry 7

/-- Lowest virtual address bit of each level of the walk, from level 4 to level 0 (R124). -/
def walkShifts : List Nat := [48, 39, 30, 21, 16]

/-- A page table may stand at a physical address (R120, R260, R261): in HBM or a vault; the far tier serves the copy engine alone, and
a scratch slice its threads. -/
def tableStands (m : Mgmt) (a : Nat) : Bool := physRegion m a == .hbm || physRegion m a == .vault

/-- Walks the tables from `table` for `va` (R124 to R126): a leaf, or the reason NOTVALID or FORMAT.
DEDUCED (log 56), unsafe. -/
def walkFrom (m : Mgmt) (mem : Bytes) (va : Nat) (table : Nat) : List Nat → Except Nat Leaf
  | [] => .error 1
  | sh :: rest =>
    let idx := va / 2 ^ sh % (if sh = 16 then 32 else 512)
    let slot := table + 8 * idx
    if !tableStands m slot then .error 1
    else
      let e := bytesAt mem slot 8
      if !bitNat e 0 then .error 0
      else if bitsNat e 63 52 != 0 then .error 1
      else if bitNat e 1 then
        if 30 < sh || bitsNat e 15 8 != 0 || bitsNat e 51 16 % 2 ^ (sh - 16) != 0 then .error 1
        else .ok { entry := e, log := sh, slot := slot }
      else if sh = 16 || bitsNat e 7 2 != 0 || (sh != 21 && bitsNat e 11 8 != 0) then .error 1
      else walkFrom m mem va (bitsNat e 51 8 * 256) rest

/-- The physical addresses of the entries that a walk reads, from the root's level on (R124). -/
def slotsFrom (m : Mgmt) (mem : Bytes) (va : Nat) (table : Nat) : List Nat → List Nat
  | [] => []
  | sh :: rest =>
    let slot := table + 8 * (va / 2 ^ sh % (if sh = 16 then 32 else 512))
    let e := bytesAt mem slot 8
    if !tableStands m slot then []
    else if !bitNat e 0 || bitNat e 1 then [slot]
    else slot :: slotsFrom m mem va (bitsNat e 51 8 * 256) rest

/-- A translation cache that serves a core: its own, or its die's (R128). -/
def TlbOwner.serves (o : TlbOwner) (core : Nat) : Bool :=
  match o with
  | .core c => c == core
  | .die d => d == Config.dieOfCore core

/-- The translation of an address that the TLBs of the acting core hold (R128). -/
def cached (s : State) (asid : BitVec 6) (va : Nat) : Option Leaf :=
  (s.tlb.find? fun e => e.owner.serves s.issue.core && e.asid == asid.toNat && e.va == va / 2 ^ e.log * 2 ^ e.log).map fun e =>
    { entry := e.entry, log := e.log, slot := e.slot }

/-- The root table of an address space (R122). -/
def rootTable (s : State) (asid : BitVec 6) : Nat := bitsNat ((tabGetD s.host.spaces asid.toNat {}).root.toNat) 51 12 * 4096

/-- A walk of the tables of an address space (R124, R127). -/
def walkTables (s : State) (asid : BitVec 6) (va : Nat) : Except Nat Leaf :=
  if 2 ^ 57 ≤ va then .error 0 else walkFrom s.mgmt s.mem va (rootTable s asid) walkShifts

/-- The table entries that an access reads (R128): none where a TLB holds the translation. -/
def walkSlots (s : State) (asid : BitVec 6) (va : Nat) : List Nat :=
  if decide (2 ^ 57 ≤ va) || (cached s asid va).isSome then [] else slotsFrom s.mgmt s.mem va (rootTable s asid) walkShifts

/-- The leaf that maps a virtual address in an address space (R128, R130): the walk's, or, where a TLB still holds another,
either of the two. DEDUCED (log 34), safe. -/
def walk (s : State) (asid : BitVec 6) (va : Nat) : Except Nat Leaf :=
  match cached s asid va with
  | some old =>
    match walkTables s asid va with
    | .ok l => if l = old then .ok l else if Config.usesOldTranslation s.tick old.slot va then .ok old else .ok l
    | .error r => if Config.usesOldTranslation s.tick old.slot va then .ok old else .error r
  | none => walkTables s asid va

/-- The reasons of R126 that an access through a leaf meets, in order of their codes. -/
def leafReasons (m : Mgmt) (l : Leaf) (va : Nat) (acc : Access) : List (Nat × Bool) :=
  let pa := l.page + va % 2 ^ l.log
  let far := physRegion m pa == .far
  [ (1, physRegion m l.page == .reserved || physRegion m pa == .reserved),
    (2, !l.w && (acc == .store || acc == .copyWrite || acc == .bankWrite)),
    (3, !l.x && acc == .fetch),
    (4, l.far != far || (l.far && acc != .copyRead && acc != .copyWrite)),
    (5, (acc == .bank || acc == .bankWrite) &&
        !(l.cc && l.pin && !l.far && l.log == 21 && physRegion m pa == .hbm)),
    (6, physRegion m l.page == .scratch || physRegion m pa == .scratch || inWindowTop va) ]

/-- Translates one access: the physical address, or the lowest reason of R126. -/
def translate (s : State) (asid : BitVec 6) (va : DWord) (acc : Access) : Except Nat Nat :=
  match walk s asid va.toNat with
  | .error r => .error r
  | .ok l =>
    match (leafReasons s.mgmt l va.toNat acc).find? (·.2) with
    | some (r, _) => .error r
    | none => .ok (l.page + va.toNat % 2 ^ l.log)

/-- Translates the `n` bytes from `va`, byte by byte: an access that crosses pages faults with its lowest address. -/
def translateRange (s : State) (asid : BitVec 6) (va : DWord) (acc : Access) : Nat → Except (DWord × Nat) Unit
  | 0 => .ok ()
  | n + 1 =>
    match translate s asid va acc with
    | .error r => .error (va, r)
    | .ok _ =>
      -- the rest of this 64 KiB granule has the same translation
      let room := 65536 - va.toNat % 65536
      if n + 1 ≤ room then .ok () else
        match translateRange s asid (va + BitVec.ofNat 64 room) acc (n + 1 - room - 1) with
        | .error e => .error e
        | .ok _ => translateLast s asid (va + BitVec.ofNat 64 n) acc
where
  /-- The last byte of a range. -/
  translateLast (s : State) (asid : BitVec 6) (va : DWord) (acc : Access) : Except (DWord × Nat) Unit :=
    match translate s asid va acc with
    | .error r => .error (va, r)
    | .ok _ => .ok ()

/-- Reads `n` bytes at a virtual address, byte by byte through the translation; the fault carries its address. -/
def readVirt (s : State) (asid : BitVec 6) (va : DWord) (acc : Access) : Nat → Except (DWord × Nat) Nat
  | 0 => .ok 0
  | n + 1 =>
    match translate s asid va acc with
    | .error r => .error (va, r)
    | .ok pa =>
      -- the bytes lie in one page
      if va.toNat % 65536 + n < 65536 then .ok (bytesAt s.mem pa (n + 1))
      else
        match readVirt s asid (va + 1) acc n with
        | .error e => .error e
        | .ok hi => .ok ((byteAt s.mem pa).toNat + 256 * hi)

/-- The later clocks of two views. -/
def joinView (a b : View) : View := b.foldl (fun v e => tabSet v e.1 (max (tabGetD v e.1 0) e.2)) a

/-- What is left of a release's bytes beside a range. -/
def Released.outside (w : Released) (loc size : Nat) : List Released :=
  (if w.loc < loc then [{ w with size := min w.size (loc - w.loc) }] else []) ++
    (if loc + size < w.loc + w.size then
      [{ w with loc := max w.loc (loc + size), size := w.loc + w.size - max w.loc (loc + size) }] else [])

/-- A release's bytes meet a range. -/
def Released.meets (w : Released) (loc size : Nat) : Bool := decide (w.loc < loc + size) && decide (loc < w.loc + w.size)

/-- What the releases leave beside a range that is written: each keeps its other bytes. DEDUCED (log 60), unsafe. -/
def Order.without (o : Order) (loc size : Nat) : List Released := o.words.flatMap (·.outside loc size)

/-- What the bytes of a range have released at an instance (R373). DEDUCED (log 60), unsafe. -/
def Order.viewAt (o : Order) (loc size : Nat) (i : Inst) : View :=
  (o.words.filter fun w => w.meets loc size && decide (w.inst = i)).foldl
    (fun v w => joinView v w.view) []

/-- A write that is no release ends what its bytes released: an acquire of them reads another value (R373). -/
def Order.plainWrite (o : Order) (loc size : Nat) : Order :=
  if o.words.isEmpty then o else { o with words := o.without loc size }

/-- The regions of released tiles without the bytes that a store writes (R290). -/
def unreleased (rs : List (Nat × Nat × Nat)) (loc n : Nat) : List (Nat × Nat × Nat) :=
  if rs.isEmpty then rs else
  (rs.flatMap fun r => if r.1 < loc + n ∧ loc < r.1 + r.2.1
    then [(r.1, loc - r.1, r.2.2), (loc + n, r.1 + r.2.1 - (loc + n), r.2.2)] else [r]).filter (·.2.1 != 0)

/-- What a store leaves at a location beside its bytes: no earlier release there (R373), and nothing unspecified (R290). -/
def State.written (s : State) (loc n : Nat) : State :=
  { s with order := s.order.plainWrite loc n, released := unreleased s.released loc n }

/-- Writes `n` bytes at physical addresses. -/
def State.store (s : State) (pa n v : Nat) : State := { s.written pa n with mem := bytesSet s.mem pa n v }

/-- The location of a byte of a block's shared memory, for the order of releases. -/
def sharedLoc (s : State) (b off : Nat) : Nat :=
  2 ^ 60 + ((s.block b).gid * 2 ^ 32 + (s.block b).num.toNat) * 2 ^ 20 + off

/-- Writes `n` bytes in the shared memory of a block. -/
def State.storeShared (s : State) (b off n v : Nat) : State :=
  (s.written (sharedLoc s b off) n).modBlock b fun x => { x with shared := bytesSet x.shared off n v }

/-- `n` bytes of value `v` at a location, as a tile reads them that was acquired when `fresh` was `taken`: those of regions released
before are free values (R290). -/
def seenBytes (s : State) (taken loc n v : Nat) : Nat :=
  if taken = 0 ∨ s.released.isEmpty = true then v else
  (List.range n).foldl (fun x i =>
    let old := s.released.any fun r => decide (r.2.2 < taken) && decide (r.1 ≤ loc + i) && decide (loc + i < r.1 + r.2.1)
    x + (if old then (Config.releasedByte taken (loc + i)).toNat else v / 256 ^ i % 256) * 256 ^ i) 0

/-- Writes `n` bytes at a virtual address whose translation has been checked. -/
def writeVirt (s : State) (asid : BitVec 6) (va : DWord) (acc : Access) : Nat → Nat → Except (DWord × Nat) State
  | 0, _ => .ok s
  | n + 1, v =>
    match translate s asid va acc with
    | .error r => .error (va, r)
    | .ok pa =>
      if va.toNat % 65536 + n < 65536 then .ok (s.store pa (n + 1) v)
      else
        match writeVirt s asid (va + 1) acc n (v / 256) with
        | .error e => .error e
        | .ok s' => .ok (s'.store pa 1 (v % 256))

/-- A host's write of a register that state 3 does not serve is ignored there (R470). DEDUCED (log 57), unsafe. -/
def hostWrite (s : State) (r : Res) : Res := if s.mgmt.devState = .failed then .next s else r

/-! ## Rings in memory -/

/-- Bytes of a range all lie in HBM or in vaults (R96), where `slices` is set their scratch slices too (R28 shuts them out). -/
def ringInMemory (m : Mgmt) (slices : Bool) (base len : Nat) : Bool :=
  let ok := fun a => physRegion m a == .hbm || physRegion m a == .vault || (slices && physRegion m a == .scratch)
  decide (0 < len) && (List.range (len / 2 ^ 21 + 1)).all fun k => ok (base + min (k * 2 ^ 21) (len - 1)) &&
    ok (base + (len - 1))

/-- Raises MSI-X vector 0, or holds it back (R28). -/
def raiseVector (r : EventRing) : EventRing :=
  if r.limit then { r with held := true }
  else if r.mask then r
  else { r with raised := r.raised + 1, limit := true }

/-- A die's dispatcher serves its queues (R457, R458, R471). -/
def dieServes (s : State) (d : Nat) : Bool :=
  !(s.die d).off && (s.die d).st == 1 &&
    (s.mgmt.devState == .full || (s.mgmt.devState == .bringUp && Config.isCd6 d))

/-- A core is in service (R456, R457). -/
def coreServes (s : State) (g : Nat) : Bool :=
  dieServes s (Config.dieOfCore g) && !(s.die (Config.dieOfCore g)).coreOff.getLsbD (Config.coreInDie g)

/-! ## Event counters -/

/-- Adds to every enabled counter of the core, and of its die while the core is in service, whose source is `src` (R467, R468). -/
def countCore (s : State) (core src n : Nat) : State :=
  let d := Config.dieOfCore core
  { s with counters := s.counters.map fun e =>
      if (e.1 / 16 == core || (4864 ≤ e.1 && (e.1 - 4864) / 64 == d && coreServes s core)) && e.2.en && e.2.src.toNat == src then
        (e.1, { e.2 with count := e.2.count + BitVec.ofNat 64 n }) else e }

/-- Adds to every enabled counter of the die whose source is `src` (R467, R468). -/
def countDie (s : State) (d src n : Nat) : State :=
  { s with counters := s.counters.map fun e =>
      if 4864 ≤ e.1 && (e.1 - 4864) / 64 == d && e.2.en && e.2.src.toNat == src then
        (e.1, { e.2 with count := e.2.count + BitVec.ofNat 64 n }) else e }

/-! ## Marks of errors -/

/-- A poisoned word that shares a byte with the `n` bytes from a physical address. -/
def poisonAt (s : State) (pa n : Nat) : Option Nat := s.poison.find? fun w => decide (w < pa + n) && decide (pa < w + 4)

/-- Bytes of the unit that carries a poison mark: 32 of a granule in HBM, else 4 of a word (R455). -/
def unitBytes (w : Nat) : Nat := if w < 12 * 2 ^ 36 then 32 else 4

/-- The unit that carries a poison mark: the granule of a word in HBM, else the word (R455). -/
def markUnit (w : Nat) : Nat := w / unitBytes w * unitBytes w

/-- Ranges of bytes, as addresses and lengths, cover `n` bytes from an address. -/
def covers (rs : List (Nat × Nat)) (a n : Nat) : Bool :=
  (List.range n).all fun i => rs.any fun r => decide (r.1 ≤ a + i) && decide (a + i < r.1 + r.2)

/-- Ranges of bytes hold one of `n` bytes from an address. -/
def touches (rs : List (Nat × Nat)) (a n : Nat) : Bool := rs.any fun r => decide (a < r.1 + r.2) && decide (r.1 < a + n)

/-- A write of whole words, or for HBM of whole granules, clears their marks (R455); a whole granule's correctable error goes as
well. The ranges are what one write request covers (R266). -/
def clearMarks (s : State) (rs : List (Nat × Nat)) : State :=
  if s.poison.isEmpty && s.weak.isEmpty then s else
  let stays := fun w : Nat => !covers rs (markUnit w) (unitBytes w)
  { s with poison := s.poison.filter stays, found := s.found.filter stays, weak := s.weak.filter fun g => !covers rs g 32
           carried := s.carried.filter stays }

/-! ## Events -/

/-- Sends an event (R28 to R30): the record, then EVHEAD, then the interrupt; or counts it as lost.
DEDUCED (log 25), unsafe. -/
def sendEvent (s : State) (code die core : Nat) (p0 p1 p2 : DWord) : State :=
  let r := s.host.ring
  let n := r.head.toNat
  let slots := 2 ^ r.size.toNat
  if r.en && decide (6 ≤ r.size.toNat) && decide (r.size.toNat ≤ 16) &&
      ringInMemory s.mgmt false r.base.toNat (32 * slots) && decide ((r.head - r.tail).toNat < slots) then
    let v := code + die * 2 ^ 16 + core * 2 ^ 24 + ((n + 1) % 2 ^ 32) * 2 ^ 32 + p0.toNat * 2 ^ 64 +
      p1.toNat * 2 ^ 128 + p2.toNat * 2 ^ 192
    let s1 := clearMarks (s.store (r.base.toNat + 32 * (n % slots)) 32 v) [(r.base.toNat + 32 * (n % slots), 32)]
    { s1 with host := { s1.host with ring := raiseVector { r with head := r.head + 1 } } }
  else
    { s with host := { s.host with ring :=
      { r with lost := if r.lost = 0xFFFFFFFF then r.lost else r.lost + 1, ovf := true } } }

/-! ## Corrected errors -/

/-- The structure number of an address in a corrected-error event (R29): 5 HBM, 2 a vault. -/
def structureOf (pa : Nat) : Nat := if pa < 12 * 2 ^ 36 then 5 else 2

/-- The die beside the memory at a physical address (R20, R120). -/
def dieBeside (pa : Nat) : Nat :=
  if pa < 12 * 2 ^ 36 then pa / 2 ^ 37 else Config.dieOfCore ((pa - vaultBase) / 2 ^ 23)

/-- A row of a stack enters its hot list or gains score (R463, R464); a full list of 512 loses its lowest score. -/
def heatRow (l : List (Nat × Nat)) (row score : Nat) : List (Nat × Nat) :=
  if l.any fun e => e.1 == row then l.map fun e => if e.1 == row then (e.1, e.2 + score) else e
  else if l.length < 512 then l ++ [(row, score)]
  else
    let low := l.foldl (fun m e => min m e.2) ((l.headD (0, 0)).2)
    match l.find? fun e => e.2 == low with
    | some e => l.erase e ++ [(row, score)]
    | none => l ++ [(row, score)]

/-- A correctable error in a granule is found and corrected (R454, R463, R464): the event, and for HBM the row's score. -/
def corrected (s : State) (g : Nat) : State :=
  let d := dieBeside g
  let s1 := countDie (sendEvent { s with weak := s.weak.filter (· != g) } 0x0011 d 0xFF (BitVec.ofNat 64 g)
    (BitVec.ofNat 64 (structureOf g)) 0) d 0x4A 1
  if g < 12 * 2 ^ 36 then
    let x := s1.stack (g / 2 ^ 36)
    s1.setStack (g / 2 ^ 36) { x with hot := heatRow x.hot (g / 1024) 16 }
  else s1

/-- A demand read of a physical range corrects the errors that it meets (R454, R463). -/
def demand (s : State) (pa n : Nat) : State :=
  (s.weak.filter fun g => decide (g < pa + n) && decide (pa < g + 32)).foldl corrected s

/-- A poisoned word or granule is found (R454): it is counted for the die beside it the first time (R468). -/
def foundAt (s : State) (u : Nat) : State :=
  if s.found.contains u then s else countDie { s with found := u :: s.found } (dieBeside u) 0x4B 1

/-- An error beyond correction is found by an agent that consumes nothing, and reported once: a poison event without a grid
(R29, R454). -/
def reportPoison (s : State) (u : Nat) : State :=
  if s.found.contains u then s
  else sendEvent (foundAt s u) 0x000F 0xFF 0xFF (BitVec.ofNat 64 u) 0xFFFFFFFFFFFFFFFF 0

/-- The errors beyond correction in a physical range are found (R454). -/
def detect (s : State) (pa n : Nat) : State :=
  ((s.poison.filter fun w => decide (w < pa + n) && decide (pa < w + 4)).map markUnit).foldl reportPoison s

/-- A write merges a granule of HBM: it has a byte of it, and not all (R267). -/
def mergesAt (rs : List (Nat × Nat)) (g : Nat) : Bool := decide (g < 12 * 2 ^ 36) && touches rs g 32 && !covers rs g 32

/-- What a write request does to the marks of errors: what it writes whole is clean (R455); a granule of HBM that it writes in part
is merged in the stack, which reads it: it corrects an error there, or finds one beyond correction (R267, R454, R463). -/
def settleMarks (s : State) (rs : List (Nat × Nat)) : State :=
  if s.poison.isEmpty && s.weak.isEmpty then s else
  let s1 := clearMarks s rs
  let s2 := ((s1.poison.map markUnit).filter (mergesAt rs)).foldl reportPoison s1
  (s2.weak.filter (mergesAt rs)).foldl corrected s2

/-- What a write of `n` bytes does to the marks of errors. -/
def clearPoison (s : State) (pa n : Nat) : State := settleMarks s [(pa, n)]

/-- A write of a hardware store to physical memory, with what it does to the marks (R455). -/
def storeClean (s : State) (pa n v : Nat) : State := clearPoison (s.store pa n v) pa n

/-- The pieces of a virtual range that lie in one 64 KiB page: address and length. -/
def pagePieces (va n : Nat) : List (Nat × Nat) :=
  (List.range (n / 65536 + 2)).filterMap fun i =>
    let lo := max va (va / 65536 * 65536 + 65536 * i)
    let hi := min (va + n) (va / 65536 * 65536 + 65536 * (i + 1))
    if lo < hi then some (lo, hi - lo) else none

/-- The walk for an address corrects the errors that it meets in the tables (R454, R463). -/
def meetWalk (s : State) (asid : BitVec 6) (va : Nat) : State :=
  if s.weak.isEmpty then s else (walkSlots s asid va).foldl (fun s a => demand s a 8) s

/-- A poisoned table entry that the walk for an address reads (R455). -/
def walkPoison (s : State) (asid : BitVec 6) (va : Nat) : Option Nat :=
  if s.poison.isEmpty then none else (walkSlots s asid va).findSome? fun a => poisonAt s a 8

/-- A poisoned word that an access of `n` bytes at a virtual address meets, in the tables or in what it reads. -/
def poisonVirt (s : State) (asid : BitVec 6) (va : DWord) (acc : Access) (n : Nat) : Option Nat :=
  if s.poison.isEmpty then none else
  (pagePieces va.toNat n).findSome? fun p => (walkPoison s asid p.1).or
    (match translate s asid (BitVec.ofNat 64 p.1) acc with
    | .ok pa => poisonAt s pa p.2
    | .error _ => none)

/-- Reads of an engine, a Lectern, a matrix array or a fetch at virtual addresses correct the errors that they meet (R454, R463). -/
def meets (s : State) (asid : BitVec 6) (acc : Access) (ranges : List (DWord × Nat)) : State :=
  if s.weak.isEmpty then s else
  (ranges.flatMap fun r => pagePieces r.1.toNat r.2).foldl (fun s p => match translate s asid (BitVec.ofNat 64 p.1) acc with
    | .ok pa => demand (meetWalk s asid p.1) pa p.2
    | .error _ => meetWalk s asid p.1) s

/-- What a write through the translation does to the marks of errors, in the tables and in what it writes. -/
def clearVirt (s : State) (asid : BitVec 6) (va : DWord) (acc : Access) (n : Nat) : State :=
  if s.poison.isEmpty && s.weak.isEmpty then s else
  (pagePieces va.toNat n).foldl (fun s p => match translate s asid (BitVec.ofNat 64 p.1) acc with
    | .ok pa => clearPoison (meetWalk s asid p.1) pa p.2
    | .error _ => meetWalk s asid p.1) s

/-- A poisoned table entry that the walks for a range of virtual addresses read. -/
def walksPoison (s : State) (asid : BitVec 6) (va : DWord) (n : Nat) : Option Nat :=
  if s.poison.isEmpty then none else (pagePieces va.toNat n).findSome? fun p => walkPoison s asid p.1

/-- Stands beside the reasons of R126 for an access that meets a poisoned word; its address is physical. -/
def poisonReason : Nat := 256

/-- A write of a range through the translation, with what it does to the marks. -/
def writeMarked (s : State) (asid : BitVec 6) (va : DWord) (acc : Access) (n v : Nat) : Except (DWord × Nat) State :=
  match writeVirt s asid va acc n v with
  | .error e => .error e
  | .ok s1 => .ok (clearVirt s1 asid va acc n)

/-- The same for an agent whose grid a poisoned table entry costs (R455). -/
def writeClean (s : State) (asid : BitVec 6) (va : DWord) (acc : Access) (n v : Nat) : Except (DWord × Nat) State :=
  match walksPoison s asid va n with
  | some pa => .error (BitVec.ofNat 64 pa, poisonReason)
  | none => writeMarked s asid va acc n v

/-! ## Barriers -/

/-- A named or cluster barrier as a block sees it (R398, R399). -/
def getBar (s : State) (b : Nat) (cl : Bool) (n : Nat) : Barrier :=
  let x := s.block b
  if cl then tabGetD (tabGetD s.clusters (clKey x.gid (x.cluster.getD 0)) {}).bars n {} else tabGetD x.bars n {}

/-- Sets a barrier. -/
def setBar (s : State) (b : Nat) (cl : Bool) (n : Nat) (v : Barrier) : State :=
  let x := s.block b
  if cl then
    let key := clKey x.gid (x.cluster.getD 0)
    let c := tabGetD s.clusters key {}
    { s with clusters := tabSet s.clusters key { c with bars := tabSet c.bars n v } }
  else s.setBlock b { x with bars := tabSet x.bars n v }

/-- Blocks whose threads take part in a barrier. -/
def barBlocks (s : State) (b : Nat) (cl : Bool) : List Nat :=
  let x := s.block b
  if cl then s.blocksOfCluster x.gid (x.cluster.getD 0) else [b]

/-- Identity of a thread in a live-count phase: its block's `%block` and its linear index. -/
def barId (s : State) (k : Nat) : Nat × Nat := ((s.blockOf (grpOf k)).num.toNat, (s.thread k).lin)

/-- Identities of the live threads that take part (R399). -/
def barLive (s : State) (b : Nat) (cl : Bool) : List (Nat × Nat) :=
  (barBlocks s b cl).flatMap fun x => (s.liveOfBlock x).map (barId s)

/-- The next phase of a barrier (R399, R400): what the arrivals of the completed one released is kept for its departures. -/
def Barrier.nextPhase (x : Barrier) : Barrier := { phase := x.phase + 1, past := x.past ++ [(x.phase, x.cur)] }

/-- A phase is complete (R399): counted arrivals reach the count, or every live thread has arrived. -/
def Barrier.full (x : Barrier) (live : List (Nat × Nat)) : Bool :=
  match x.count with
  | none => false
  | some (some n) => x.arrivals == n
  | some none => live.all x.who.contains

/-- The barriers of a table with the phases ended that are complete. -/
def endPhases (live : List (Nat × Nat)) (bars : Tab Barrier) : Tab Barrier :=
  bars.map fun e => (e.1, if e.2.full live then e.2.nextPhase else e.2)

/-- The live-count phases that wait for no thread any more end, in a block and in its cluster (R399). -/
def endLivePhases (s : State) (b : Nat) : State :=
  match tabGet s.blocks b with
  | none => s
  | some x =>
    let s1 := s.setBlock b { x with bars := endPhases (barLive s b false) x.bars }
    match x.cluster with
    | none => s1
    | some c => { s1 with clusters := tabModify s1.clusters (clKey x.gid c) fun y =>
        { y with bars := endPhases (barLive s b true) y.bars } }

/-! ## The end of threads, groups, blocks and grids -/

/-- Frees the rows whose last-use mask covers every live lane (R177, R447). -/
def sweepRows (live : Word) (g : Group) : Group :=
  let gone := (g.rows.filter fun e => e.2 &&& live == live).map (·.1)
  { g with rows := g.rows.filter fun e => !(gone.contains e.1)
           banks := g.banks.filter fun e => !(gone.contains e.1)
           shadows := gone.foldl (fun sh n => if n < 32 then tabDrop sh n else sh) g.shadows
           tags := g.tags.filter fun e => !(gone.contains e.2.reg) }

/-- What happened-before the operations that a group counted goes to its grid, whose completion adopts them (R377). -/
def keepOps (s : State) (gid : Nat) (x : Group) : State :=
  match x.ops.foldl (fun v y => joinView v y.hb) [] with
  | [] => s
  | v => s.modGrid gid fun g => { g with endHb := joinView g.endHb v }

/-- Retires a group whose last thread has left (R449): the Hatstand takes its counters, its rows and slot are freed,
and the stream of a block without live threads ends (R176). -/
def retireGroup (s : State) (g : Nat) : State :=
  let x := s.group g
  let c := coreOfG g
  let core := s.core c
  let hat : Hat := { ctx := x.blk % 16, slot := slotOfG g, copy := x.nCopy, matrix := x.nMatrix, gather := x.nGather,
                     nbank := x.nBank, bankOut := x.bankOut, spill := x.spill }
  let s1 := if x.nCopy + x.nMatrix + x.nGather + x.nBank = 0 then s
            else s.setCore c { core with hats := core.hats ++ [hat] }
  let s2 := keepOps { s1 with groups := tabDrop s1.groups g } (s.block x.blk).gid x
  if (s2.liveOfBlock x.blk).isEmpty then
    s2.modBlock x.blk fun b => { b with lect := { b.lect with ended := true, wait := .none } }
  else s2

/-- Frees the entries that every live thread has passed, folding what they wrote into the committed registers (R173,
R175); an entry still to be written stays. -/
def foldQueue (least : Nat) (b : Block) : List DqEntry → Block
  | [] => { b with dq := [] }
  | e :: es =>
    let open_ := match e.wq with | some (_, none) => true | _ => false
    if b.dqBase < least && !open_ then
      foldQueue least { b with
        dqBase := b.dqBase + 1
        q := match e.wq with | some (n, some v) => tabSet b.q n v | _ => b.q
        a := match e.wa with | some (n, v) => tabSet b.a n v | none => b.a
        k := match e.wk with | some (n, some v) => tabSet b.k n v | some (n, none) => tabDrop b.k n | none => b.k } es
    else { b with dq := e :: es }

/-- Frees passed entries of a block. -/
def freeEntries (s : State) (b : Nat) : State :=
  match (s.liveOfBlock b).map fun k => (s.thread k).upos with
  | [] => s
  | u :: us => s.modBlock b fun x => foldQueue (us.foldl min u) x x.dq

/-- A command with SYNC that no thread will pass any more is dropped with the last live thread of its block (R176, R285):
`upos` is that thread's uniform position. -/
def dropSync (s : State) (b upos : Nat) : State :=
  if (s.liveOfBlock b).isEmpty then
    s.modBlock b fun x => { x with cmds := x.cmds.filter fun c =>
      c.state != .sync || !c.counted.isEmpty || decide (c.pos < upos) }
  else s

/-- A thread leaves the live set (R183, R447); the group retires with its last thread. -/
def exitThread (s : State) (k : Nat) : State :=
  let g := grpOf k
  let b := (s.group g).blk
  let upos := (s.thread k).upos
  let s1 := { s with threads := tabDrop s.threads k }
  let live := s1.liveOf g
  let s2 := if live.isEmpty then dropSync (retireGroup s1 g) b upos
    else s1.modGroup g (sweepRows (laneMask (live.map laneOf)))
  freeEntries (endLivePhases s2 b) b

/-- A group leaves something for the Hatstand to count (R449, R450). -/
def Group.needsHat (x : Group) : Bool := x.nCopy + x.nMatrix + x.nGather + x.nBank != 0

/-- A group's last thread may leave: the Hatstand has a free entry, or none is needed (R450). -/
def hatFree (s : State) (g : Nat) : Bool :=
  !(s.group g).needsHat || decide ((s.core (coreOfG g)).hats.length < 16)

/-- Every live thread of a group leaves as EXIT would (R414 action 1); the last one stays while it needs a Hatstand entry and
none is free (R450). -/
def killGroup (s : State) (g : Nat) : State :=
  let c := coreOfG g
  let core := s.core c
  let ks := s.liveOf g
  let s1 := s.setCore c { core with runs := core.runs.filter fun r => !(r.any ks.contains) }
  let s2 := s1.modGroup g fun x => { x with loads := [], atomics := [], mma := none, cont := none, dying := true }
  let s3 := ks.dropLast.foldl exitThread s2
  match ks.getLast? with
  | none => s3
  | some k => if hatFree s3 g then exitThread s3 k else s3

/-- Killed groups for which a Hatstand entry has become free retire (R450). -/
def retireDying (s : State) : State :=
  ((s.groups.filter fun e => e.2.dying).map (·.1)).foldl (fun s g => if hatFree s g then killGroup s g else s) s

/-- A record concerns a block. -/
def Rec.ofBlock (r : Rec) (b : Block) : Bool := r.gid == b.gid && r.blkNum == b.num

/-- Lowers the counters that counted a command (R286, R313, R450): of the Hatstand entries of retired groups, or of the
groups. -/
def uncount (s : State) (b : Nat) (c : Cmd) : State :=
  let core := coreOfB b
  let down := fun (s : State) (slot : Nat) =>
    let x := s.core core
    let mine := fun h : Hat => h.ctx == b % 16 && h.slot == slot &&
      (if c.matrix then h.matrix != 0 else h.copy != 0)
    let hat := fun h : Hat => if mine h then
        (if c.matrix then { h with matrix := h.matrix - 1 } else { h with copy := h.copy - 1 }) else h
    if x.hats.any mine then
      s.setCore core { x with hats := (x.hats.map hat).filter fun h => h.copy + h.matrix + h.gather + h.nbank != 0 }
    else s.modGroup (gKey core slot) fun g =>
      if c.matrix then { g with nMatrix := g.nMatrix - 1 } else { g with nCopy := g.nCopy - 1 }
  c.counted.foldl down s

/-- A command that a kill abandons (R288): it has failed, or has not started: it waits with SYNC, was withdrawn, or is an MMAT
that the commands before it still hold back. -/
def Cmd.idle (c : Cmd) : Bool :=
  c.state == .sync || c.state == .failed || c.state == .withdrawn || (c.kind == .mmat && c.state == .ready)

/-- The idle commands of a killed block are abandoned and count as complete; what has started runs on (R288, R451, R453). -/
def abandonCmds (s : State) (b : Nat) : State :=
  let blk := s.block b
  (blk.cmds.filter Cmd.idle).foldl (fun s c => uncount s b c)
    (s.setBlock b { blk with cmds := blk.cmds.filter fun c => !c.idle, killed := true })

/-- Every group of a block is killed (R414 action 1 for a block trap). -/
def killBlock (s : State) (b : Nat) : State :=
  let s1 := abandonCmds s b
  let s2 := (s1.groupsOf b).foldl killGroup s1
  (s2.modBlock b fun x => { x with lect := { x.lect with ended := true, wait := .none } })

/-- The handler context of a core ends (R416, R417). -/
def endHandler (s : State) (core : Nat) : State :=
  let g := gKey core 64
  let c := s.core core
  { s with groups := tabDrop s.groups g, threads := tabKeep s.threads fun k _ => grpOf k != g,
           cores := tabSet s.cores core { c with handling := false } }

/-- The home die of a grid, for events (R94). -/
def Origin.die? : Origin → Nat
  | .die d _ => d
  | .core g => Config.dieOfCore g

/-- The entry of a head is taken: the queue moves to its next entry, or past those that an ABORT discarded (R97, R98). -/
def takeHead (s : State) (o : Origin) : State :=
  match o with
  | .die d q =>
    let x := tabGetD s.queues (64 * d + q) {}
    let y : Queue := { x with head := x.abortTo.getD (x.head + 1), cur := none, abortTo := none }
    { s with queues := tabSet s.queues (64 * d + q) y }
  | .core g =>
    let c := s.core g
    s.setCore g { c with queue := { cards := c.queue.cards.tail, cur := none } }

/-- A grid is still the head of its queue. -/
def State.isHead (s : State) (gid : Nat) : Bool :=
  match (s.grid gid).origin with
  | .die d q => (tabGetD s.queues (64 * d + q) {}).cur == some gid
  | .core g => (s.core g).queue.cur == some gid

/-- Kills a grid (R414 action 2): its blocks, those not yet placed, its saved blocks and its records; the grid-killed
event follows. -/
def killGrid (s : State) (gid : Nat) (p1 p2 : DWord) : State :=
  let gr := s.grid gid
  if gr.stage == .killed || (tabGet s.grids gid).isNone then s else
  let s1 := (s.blocksOf gid).foldl killBlock (s.modGrid gid fun g => { g with stage := .killed, hold := .none })
  let handlers := (s1.records.filter fun r => r.gid == gid && r.inHandler).map fun r => Config.globalCore r.die r.core
  let s2 := handlers.foldl endHandler s1
  let s3 := { s2 with records := s2.records.filter (fun r => r.gid != gid)
                      saved := s2.saved.filter (fun x => x.gid != gid)
                      migrations := s2.migrations.filter (fun x => x.gid != gid)
                      reservations := s2.reservations.filter (fun x => x.gid != gid) }
  let s4 := if s3.isHead gid then takeHead s3 gr.origin else s3
  sendEvent s4 0x0005 0xFF 0xFF (gr.launch.jobId.setWidth 64) p1 p2

/-- The consumer of a poisoned word loses its grid (R455). -/
def poisonKill (s : State) (gid pa : Nat) : State :=
  let job := (s.grid gid).launch.jobId.setWidth 64
  sendEvent (killGrid (foundAt s (markUnit pa)) gid 0 0) 0x000F 0xFF 0xFF (BitVec.ofNat 64 pa) job 0

/-! ## Taking a trap -/

/-- The 128 bytes of a record (R53), with its number. -/
def Rec.bytes (r : Rec) (seq : Nat) : Nat :=
  let flags := 1 + (if r.resumable then 2 else 0) + (if r.host then 4 else 0)
  let info := fun i => (r.info.getD i 0).toNat
  r.code + flags * 2 ^ 16 + r.die * 2 ^ 32 + r.core * 2 ^ 40 + r.slot * 2 ^ 48 + r.jobId.toNat * 2 ^ 64 +
    r.blkNum.toNat * 2 ^ 96 + r.cluster.toNat * 2 ^ 128 + r.lanes.toNat * 2 ^ 160 + r.pc.toNat * 2 ^ 192 +
    r.rentry.toNat * 2 ^ 256 + r.rcount.toNat * 2 ^ 320 + r.addr.toNat * 2 ^ 384 +
    info 0 * 2 ^ 448 + info 1 * 2 ^ 512 + info 2 * 2 ^ 576 + info 3 * 2 ^ 640 + info 4 * 2 ^ 704 +
    info 5 * 2 ^ 768 + info 6 * 2 ^ 832 + (seq + 1) * 2 ^ 896

/-- Delivers a written record to the host: the trap event (R408). -/
def trapEvent (s : State) (r : Rec) (seq : Nat) : State :=
  sendEvent s 0x0004 r.die r.core (r.jobId.setWidth 64) (BitVec.ofNat 64 (seq + 1))
    (s.grid r.gid).launch.trapArea

/-- Tries to write a record that stands in the list (R52, R408): a full area leaves it pending; a faulting access kills
the grid. -/
def tryWrite (s : State) (r : Rec) : State :=
  let gr := s.grid r.gid
  let area := gr.launch.trapArea
  match readVirt s gr.asid (area + 8) .load 8, readVirt s gr.asid area .load 8 with
  | .error (a, _), _ => killGrid s r.gid a 1
  | _, .error (a, _) => killGrid s r.gid a 1
  | .ok ack, .ok head =>
    match poisonVirt s gr.asid area .load 16 with
    | some pa => poisonKill s r.gid pa
    | none =>
    let s := meets s gr.asid .load [(area, 16)]
    if gr.launch.trapN ≤ (head + 2 ^ 64 - ack) % 2 ^ 64 then s
    else
      let slot := area + BitVec.ofNat 64 (64 + 128 * (head % gr.launch.trapN))
      match writeMarked s gr.asid slot .store 128 (r.bytes head) with
      | .error (a, _) => killGrid s r.gid a 1
      | .ok s1 =>
        match writeMarked s1 gr.asid area .store 8 ((head + 1) % 2 ^ 64) with
        | .error (a, _) => killGrid s r.gid a 1
        | .ok s2 =>
          let r' := { r with seq := some head, raw := r.bytes head, toHost := r.host }
          let s3 := countCore { s2 with records := s2.records.map fun x => if x == r then r' else x }
            (Config.globalCore r.die r.core) 14 1
          if r.host then trapEvent s3 r' head else s3

/-- A trap area: an address in an address space (R52). -/
def areaOf (s : State) (gid : Nat) : BitVec 6 × DWord := ((s.grid gid).asid, (s.grid gid).launch.trapArea)

/-- Records of a trap area that wait for room, oldest first. -/
def pendingOf (s : State) (area : BitVec 6 × DWord) : List Rec :=
  s.records.filter fun r => r.seq.isNone && areaOf s r.gid == area

/-- Records pending in an area are written, oldest first, while there is room (R52). -/
def flushPending (s : State) (area : BitVec 6 × DWord) : State :=
  (pendingOf s area).foldl (fun s r => if (pendingOf s area).head? = some r then tryWrite s r else s) s

/-- Raises a record: it is written after those already pending in its area (R52). -/
def writeRecord (s : State) (r : Rec) : State :=
  let area := areaOf s r.gid
  let s1 := { s with records := s.records ++ [r] }
  if (pendingOf s area).isEmpty then tryWrite s1 r else s1

/-- A thread that stops inside a hint group stands at the group's first word (R153): what its hints have recorded and counted
stays, and they are executed again (R413, R438); the span that a GRD of the group opened is open no more.
DEDUCED (log 20), unsafe. -/
def backToGroup (t : Thread) : Thread :=
  match t.hints with
  | none => t
  | some h => { t with pc := h.start, hints := none, wait := .none, span := if h.grd then none else t.span }

/-- Where a thread stops that no other stop already holds (R405). -/
def stopsAt (t : Thread) : Thread := if t.restart || t.halt != .none then t else backToGroup t

/-- A thread returns to its region entry with the generator and span recorded there (R172, R413). -/
def toRegion (t : Thread) : Thread :=
  { t with pc := t.rentry, gen := t.rgen, span := t.rspan, hints := none, run := none, restart := false, wait := .none, fence := none
           stalled := none }

/-- Drops a register from a thread: its last use has passed, so it reads 0 (R139, R177). -/
def dropReg (v : Tab Word) (n : Nat) (wide : Bool) : Tab Word :=
  if wide then tabDrop (tabDrop v n) (n + 1) else tabDrop v n

/-- Writes a register or a pair (R12); the canonical table lists no zero. -/
def putReg (v : Tab Word) (n : Nat) (wide : Bool) (x : DWord) : Tab Word :=
  let one := fun (v : Tab Word) (n : Nat) (y : Word) => if y = 0 then tabDrop v n else tabSet v n y
  if wide then one (one v n (x.setWidth 32)) (n + 1) ((x >>> 32).setWidth 32) else one v n (x.setWidth 32)

/-- Registers that results on their way will write, written at once: instructions that a stopped thread issued have
taken their whole effect (R406). -/
def landAll (s : State) (g : Nat) : State :=
  let x := s.group g
  let s1 := (x.loads.flatten ++ x.atomics.flatten).foldl (fun s l =>
    s.modThread (tKey g l.lane) fun t => { t with v := putReg t.v l.reg l.wide l.value }) s
  s1.modGroup g fun x => { x with loads := [], atomics := [] }

/-- Breaks every open latch run that has a member among `ks` (R172): members that stop restart at their region entry;
the others return to theirs at once. -/
def breakRuns (s : State) (core : Nat) (ks : List Nat) (stops : Nat → Bool) : State :=
  let c := s.core core
  let broken := (c.runs.filter fun r => r.any ks.contains).flatten
  let s1 := s.setCore core { c with runs := c.runs.filter fun r => !(r.any ks.contains) }
  broken.foldl (fun s k => s.modThread k fun t =>
    if stops k then { t with restart := true, run := none } else toRegion t) s1

/-- The fields that every record of a block shares (R53). -/
def recOf (s : State) (b : Nat) (code : Nat) (resumable : Bool) : Rec :=
  let blk := s.block b
  let gr := s.grid blk.gid
  { code := code, resumable := resumable, host := code == 2 || code == 3 || gr.launch.trapH == 0
    die := Config.dieOfCore (coreOfB b), core := Config.coreInDie (coreOfB b), slot := 0, gid := blk.gid, grpNum := 0
    blkNum := blk.num, cluster := match blk.cluster with | some c => BitVec.ofNat 32 c | none => 0xFFFFFFFF
    jobId := gr.launch.jobId, lanes := 0, pc := 0, rentry := 0, rcount := 0, addr := 0, info := [], block := false }

/-- The handler fault (R417): a record naming the group of the current record, whose delivery passes to the host; the
context ends. -/
def handlerFault (s : State) (core : Nat) (code : Nat) (addr info1 : DWord) : State :=
  let g := gKey core 64
  let t := s.thread (tKey g 0)
  match s.records.find? fun r => r.inHandler && Config.globalCore r.die r.core == core with
  | none => endHandler s core
  | some r =>
    let seq := r.seq.getD 0
    let hf : Rec := { r with
      code := 2, resumable := false, host := true, inHandler := false, seq := none, addr := addr
      info := [BitVec.ofNat 64 (seq + 1), BitVec.ofNat 64 code, info1, t.pc] }
    let s1 := { s with records := s.records.map fun x => if x == r then { r with inHandler := false, toHost := true } else x }
    trapEvent (writeRecord (endHandler s1 core) hf) r seq

/-- One group trap (R405 to R407): the lanes stop at the instruction and will restart at their region entry, the rest
of the group stops where it stands, and the record is written. -/
def groupTrap (s : State) (g : Nat) (ks : List Nat) (code : Nat) (resumable : Bool) (pc addr : DWord)
    (info : List DWord) : State :=
  if isHandler g then handlerFault s (coreOfG g) code addr (info.getD 1 0) else
  let x := s.group g
  let first := s.thread (ks.headD 0)
  let r := { recOf s x.blk code resumable with
    slot := slotOfG g, grpNum := x.num, lanes := laneMask (ks.map laneOf), pc := pc, rentry := first.rentry
    rcount := first.rcount, addr := addr, info := info }
  let s1 := landAll s g
  let s2 := ks.foldl (fun s k => s.modThread k fun t => { t with restart := true }) s1
  let live := s2.liveOf g
  let s3 := breakRuns s2 (coreOfG g) live (fun k => grpOf k == g)
  let s4 := live.foldl (fun s k => s.modThread k stopsAt) s3
  writeRecord s4 r

/-- One trap of a bundle: one record for each group with a trapping lane, in slot order (R405). `at g` gives address and
trap-specific fields of a group's record. -/
def bundleTrap (s : State) (ks : List Nat) (code : Nat) (resumable : Bool) (fields : Nat → DWord × List DWord) : State :=
  let gs := sortBy (fun a b => decide (a ≤ b)) (ks.map grpOf).eraseDups
  -- a run that reaches over several of the groups breaks for all of them at once
  let s0 := if gs.length ≤ 1 then s else breakRuns s (coreOfG (gs.headD 0)) (gs.flatMap s.liveOf) (fun k => gs.contains (grpOf k))
  -- an earlier record whose write kills the grid leaves no group to stop
  let traps := fun s' : State => fun g => (tabGet s'.groups g).isSome && !(s'.group g).dying
  gs.foldl (fun s' g => if traps s' g then groupTrap s' g (ks.filter fun k => grpOf k == g) code resumable s.issue.pc
    (fields g).1 (fields g).2 else s') s0

/-- The stop of a block trap (R405): every live thread of the block stops where it stands. -/
def blockStop (s : State) (b : Nat) : State :=
  let live := s.liveOfBlock b
  let s1 := (s.groupsOf b).foldl landAll s
  let s2 := breakRuns s1 (coreOfB b) live (fun k => live.contains k)
  live.foldl (fun s k => s.modThread k stopsAt) s2

/-- The record of a block trap (R233, R405). -/
def blockRec (s : State) (b : Nat) (code : Nat) (resumable : Bool) (pc addr : DWord) (info : List DWord) : Rec :=
  let g := grpOf ((s.liveOfBlock b).headD 0)
  { recOf s b code resumable with
    slot := slotOfG g, grpNum := (s.group g).num, pc := pc, addr := addr, info := info, block := true }

/-- A block trap (R405): the Lectern and every live thread of the block stop, and one record is written. -/
def blockTrap (s : State) (b : Nat) (code : Nat) (resumable : Bool) (pc addr : DWord) (info : List DWord) : State :=
  writeRecord (blockStop s b) (blockRec s b code resumable pc addr info)

/-- The trap of a ULD: the Lectern stops; a free value says whether the threads run on up to its entry (R233) or stop as at every
block trap (R405). DEDUCED (log 65), safe. -/
def uldTrap (s : State) (b : Nat) (code : Nat) (resumable : Bool) (pc addr : DWord) (info : List DWord) : State :=
  let s1 := { s with fresh := s.fresh + 1 }
  if Config.uldThreadsStop s.fresh then blockTrap s1 b code resumable pc addr info
  else writeRecord s1 { blockRec s1 b code resumable pc addr info with threads := false }

/-- The illegal-instruction trap of the issue's bundle, or of the threads named, with a reason of R150. -/
def illegal (s : State) (ks : List Nat) (reason : Nat) : State :=
  bundleTrap s ks 0x0008 false fun _ => (0, [s.issue.word.setWidth 64, BitVec.ofNat 64 reason])

/-! ## Answers -/

/-- A record stops a group: its own group, or every group of its block unless it stops the Lectern alone (R233, R405, R407). -/
def Rec.names (r : Rec) (s : State) (g : Nat) : Bool :=
  r.ofBlock (s.blockOf g) && (if r.block then r.threads else r.grpNum == (s.group g).num)

/-- A group is stopped while a record that names it has no answer (R407, R413). -/
def State.stopped (s : State) (g : Nat) : Bool := !isHandler g && s.records.any fun r => r.names s g

/-- A block's Lectern is stopped by an unanswered block trap (R405). -/
def State.lectStopped (s : State) (b : Nat) : Bool := s.records.any fun r => r.block && r.ofBlock (s.block b)

/-- Threads of a group continue once no record names it any more (R413). -/
def resumeGroup (s : State) (g : Nat) : State :=
  if s.stopped g then s
  else (s.liveOf g).foldl (fun s k => s.modThread k fun t =>
    if t.restart then { toRegion t with since := s.cycleOf k } else { t with brk := false, since := s.cycleOf k }) s

/-- The groups a record names. -/
def Rec.groups (s : State) (r : Rec) : List Nat :=
  ((s.groups.filter fun e => !isHandler e.1).map (·.1)).filter fun g => r.names s g

/-- A thread that a save or a cut held goes on (R434): at its region entry where it was to restart. -/
def Thread.release (t : Thread) : Thread :=
  match t.halt with
  | .none => t
  | .restart => { toRegion t with halt := .none }
  | _ => { t with halt := .none }

/-- The threads of blocks go on, and their save ends. -/
def releaseBlocks (s : State) (blks : List Nat) : State :=
  let free := fun (s : State) (k : Nat) => s.modThread k fun t => { t.release with since := s.cycleOf k }
  blks.foldl (fun s b => (s.liveOfBlock b).foldl free (s.modBlock b fun x => { x with saving := none })) s

/-- Whether a cut holds a thread that has reached a step boundary with this count (R436, R437). -/
def cutStops (h : GridHold) (steps : Word) : Bool :=
  match h with
  | .cut none => true
  | .cut (some m) => decide (m ≤ steps.toNat)
  | _ => false

/-- A thread that already waits at a barrier when a cut reaches it stops there, with the SNUM of its group, unless it has still
to reach the cut's count (R158, R436, R437). -/
def cutWaiting (h : GridHold) (t : Thread) : Thread :=
  match t.wait, t.halt with
  | .bar _ _ _, .none => if cutStops h t.steps then { t with halt := .cut t.snum } else t
  | _, _ => t

/-- Threads that wait at a barrier while their grid is cut stop there (R436). -/
def cutThreads (s : State) (gid : Nat) (ks : List Nat) : State :=
  ks.foldl (fun s k => s.modThread k (cutWaiting (s.grid gid).hold)) s

/-- What a cut asks of a block's threads at their boundaries (R436): nothing while the block migrates (R443). -/
def State.cutAsked (s : State) (b : Nat) : GridHold :=
  match (s.block b).saving with
  | some v => if v.kind = 3 then .none else (s.gridOf b).hold
  | none => (s.gridOf b).hold

/-- A pre-emption that named the grid of a migrating unit applies to the unit's blocks once they have moved or their
migration has ended (R443). -/
def applyLate (s : State) (gid : Nat) (blks : List Nat) : State :=
  let p := s.host.prectl
  let ks := blks.flatMap s.liveOfBlock
  if p.go && p.gid == gid && (p.pop == 1 || p.pop == 2) then
    let v : Saving := { kind := 0, held := p.pop == 2 }
    let ask := fun (s : State) (b : Nat) => s.modBlock b fun x => if x.saving.isNone then { x with saving := some v } else x
    ks.foldl (fun s k => s.modThread k fun t => { t with notReady := false }) (blks.foldl ask s)
  else s

/-- What the host has asked of the blocks of a migration that has ended where they stand (R442, R443). -/
def afterMigration (s : State) (gid : Nat) (blks : List Nat) : State :=
  let s1 := applyLate s gid blks
  cutThreads s1 gid (blks.flatMap s1.liveOfBlock)

/-- A kill answer ends the migration of the unit that holds one of the blocks (R443). -/
def endMigration (s : State) (blks : List Nat) : State :=
  match s.migrations.find? fun m => m.blks.any blks.contains with
  | none => s
  | some m => afterMigration (releaseBlocks { s with migrations := s.migrations.filter (· != m) } m.blks) m.gid m.blks

/-- Answers a record with an action of R414. -/
def answer (s : State) (r : Rec) (action : Nat) : State :=
  let area := areaOf s r.gid
  let act := if action = 0 ∧ r.resumable = false then 1 else action
  let gs := r.groups s
  let s0 := { s with records := s.records.erase r }
  let s1 :=
    if act = 0 then
      let blks := (s0.blocks.filter fun e => r.ofBlock e.2).map (·.1)
      let s1 := if r.block then blks.foldl (fun s b => s.modBlock b fun x =>
        { x with cmds := x.cmds.map fun c => if c.state == .failed && c.pc == r.pc then { c with state := .ready } else c
                 tiles := x.tiles.map fun t =>
                   if x.cmds.any (fun c => c.state == .failed && c.pc == r.pc && c.kind == .fill && c.dst == t.1)
                   then (t.1, { t.2 with state := .filling }) else t }) s0 else s0
      gs.foldl resumeGroup s1
    else if act = 1 then
      let s1 := { s0 with records := s0.records.filter fun x =>
        !(gs.any fun g => !x.block && x.names s g) && !(r.block && x.gid == r.gid && x.blkNum == r.blkNum) }
      let blks := (s1.blocks.filter fun e => r.ofBlock e.2).map (·.1)
      endMigration (if r.block then blks.foldl killBlock s1 else gs.foldl killGroup s1) blks
    else killGrid s0 r.gid 0 0
  flushPending s1 area

end Sys2Proof.Machine
end

