-- ==== Sys2Proof/Machine/Flags.lean ====
section
/-! DEFINITION. Side results of instructions: result intervals (R188, R189), the shadow write rule (R190), refinement
tags (R192), last-use marks and row mapping (R177), and the flags of FSTAT (R62). -/

namespace Sys2Proof.Machine

/-! ## Intervals -/

/-- Least and greatest signed word. -/
def minI32 : Int := -2147483648
def maxI32 : Int := 2147483647

/-- The interval full (R185). -/
def Interval.full : Interval := ⟨minI32, maxI32⟩

/-- The exact interval of a value. -/
def Interval.exact (x : Int) : Interval := ⟨x, x⟩

/-- The hull of two intervals (R185). -/
def Interval.hull (a b : Interval) : Interval := ⟨min a.lo b.lo, max a.hi b.hi⟩

/-- An interval whose ends may have left the signed range: then full (R188). -/
def Interval.fit (lo hi : Int) : Interval :=
  if lo < minI32 ∨ maxI32 < lo ∨ hi < minI32 ∨ maxI32 < hi then .full else ⟨lo, hi⟩

/-- An interval whose ends are clamped to the signed range (R188, the .sat.i32 row). -/
def Interval.clamp (lo hi : Int) : Interval := ⟨clampInt minI32 maxI32 lo, clampInt minI32 maxI32 hi⟩

/-- Least and greatest of four products. -/
def Interval.prodLo (a b : Interval) : Int := min (min (a.lo * b.lo) (a.lo * b.hi)) (min (a.hi * b.lo) (a.hi * b.hi))
def Interval.prodHi (a b : Interval) : Int := max (max (a.lo * b.lo) (a.lo * b.hi)) (max (a.hi * b.lo) (a.hi * b.hi))

/-- The value of an exact interval. -/
def Interval.exact? (b : Interval) : Option Int := if b.lo = b.hi then some b.lo else none

/-- Both intervals start at or above zero. -/
def Interval.bothNat (a b : Interval) : Bool := decide (0 ≤ a.lo) && decide (0 ≤ b.lo)

/-- Result intervals of the integer instructions, row by row of R188. -/
inductive IvRow where
  | mov | add | sub | mul | addSat | subSat | mulSat | min | max | divI | divN | remI | remN | addSatN | mulSatN
  | minN | maxN | subSatN | and | or | shl | shrI | shrN | not | neg | abs | count | zext8 | zext16 | sext8 | sext16
  | sel | full
  deriving DecidableEq, Repr

/-- `a` restricted to a range when it lies in it, else the range (R188, the extensions). -/
def Interval.within (lo hi : Int) (a : Interval) : Interval := if lo ≤ a.lo ∧ a.hi ≤ hi then a else ⟨lo, hi⟩

/-- The shift amount of an exact count: min(c, 32), with the count read unsigned (R207). -/
def Interval.shift (b : Interval) : Option Nat :=
  b.exact?.map fun c => min (wrapNat 32 c) 32

/-- R188: the interval of a result from the intervals of its sources. -/
def IvRow.apply (r : IvRow) (a b : Interval) : Interval :=
  match r with
  | .mov => a
  | .add => .fit (a.lo + b.lo) (a.hi + b.hi)
  | .sub => .fit (a.lo - b.hi) (a.hi - b.lo)
  | .mul => .fit (a.prodLo b) (a.prodHi b)
  | .addSat => .clamp (a.lo + b.lo) (a.hi + b.hi)
  | .subSat => .clamp (a.lo - b.hi) (a.hi - b.lo)
  | .mulSat => .clamp (a.prodLo b) (a.prodHi b)
  | .min => ⟨Min.min a.lo b.lo, Min.min a.hi b.hi⟩
  | .max => ⟨Max.max a.lo b.lo, Max.max a.hi b.hi⟩
  | .divI =>
    match b.exact? with
    | some 0 => .exact (-1)
    | some c => if 1 ≤ c then ⟨a.lo.tdiv c, a.hi.tdiv c⟩ else .full
    | none => .full
  | .divN =>
    match b.exact? with
    | some 0 => .exact (-1)
    | some c => if 1 ≤ c ∧ 0 ≤ a.lo then ⟨a.lo.tdiv c, a.hi.tdiv c⟩ else .full
    | none => .full
  | .remI =>
    match b.exact? with
    | some 0 => a
    | some c => if 1 ≤ c then (if 0 ≤ a.lo then ⟨0, Min.min a.hi (c - 1)⟩ else ⟨1 - c, c - 1⟩) else .full
    | none => .full
  | .remN =>
    match b.exact? with
    | some 0 => a
    | some c => if 1 ≤ c then (if 0 ≤ a.lo then ⟨0, Min.min a.hi (c - 1)⟩ else ⟨0, c - 1⟩) else .full
    | none => .full
  | .addSatN => if a.bothNat b && decide (a.hi + b.hi ≤ maxI32) then ⟨a.lo + b.lo, a.hi + b.hi⟩ else .full
  | .mulSatN => if a.bothNat b && decide (a.hi * b.hi ≤ maxI32) then ⟨a.lo * b.lo, a.hi * b.hi⟩ else .full
  | .minN => if a.bothNat b then ⟨Min.min a.lo b.lo, Min.min a.hi b.hi⟩ else .full
  | .maxN => if a.bothNat b then ⟨Max.max a.lo b.lo, Max.max a.hi b.hi⟩ else .full
  | .subSatN => if a.bothNat b then ⟨Max.max (a.lo - b.hi) 0, Max.max (a.hi - b.lo) 0⟩ else .full
  | .and =>
    if 0 ≤ a.lo then (if 0 ≤ b.lo then ⟨0, Min.min a.hi b.hi⟩ else ⟨0, a.hi⟩)
    else if 0 ≤ b.lo then ⟨0, b.hi⟩ else .full
  | .or => if a.bothNat b then ⟨0, (2 ^ bitLen (Max.max a.hi b.hi).toNat 32 : Nat) - 1⟩ else .full
  | .shl => match b.shift with
    | some s => .fit (a.lo * (2 ^ s : Nat)) (a.hi * (2 ^ s : Nat))
    | none => .full
  | .shrI => match b.shift with
    | some s => ⟨a.lo.fdiv (2 ^ s : Nat), a.hi.fdiv (2 ^ s : Nat)⟩
    | none => .full
  | .shrN => match b.shift with
    | some s => if 0 ≤ a.lo ∨ s = 0 then ⟨a.lo.fdiv (2 ^ s : Nat), a.hi.fdiv (2 ^ s : Nat)⟩
                else ⟨0, (2 ^ (32 - s) : Nat) - 1⟩
    | none => .full
  | .not => ⟨-a.hi - 1, -a.lo - 1⟩
  | .neg => .fit (-a.hi) (-a.lo)
  | .abs => if 0 ≤ a.lo then a else if a.hi ≤ 0 then .fit (-a.hi) (-a.lo) else .fit 0 (Max.max (-a.lo) a.hi)
  | .count => ⟨0, 32⟩
  | .zext8 => a.within 0 255
  | .zext16 => a.within 0 65535
  | .sext8 => a.within (-128) 127
  | .sext16 => a.within (-32768) 32767
  | .sel => a.hull b
  | .full => .full

/-! ## Shadows, tags, rows -/

/-- The shadow of vn; v32 and above have none and count as full (R185, R187). -/
def Group.shadow (g : Group) (n : Nat) : Interval := if n < 32 then tabGetD g.shadows n {} else .full

/-- Sets the shadow of vn, n below 32; a change clears the tags that name vn (R192). -/
def Group.setShadow (g : Group) (n : Nat) (i : Interval) : Group :=
  if 32 ≤ n then g
  else if g.shadow n = i then g
  else { g with shadows := if i = {} then tabDrop g.shadows n else tabSet g.shadows n i
                tags := g.tags.filter fun e => e.2.reg != n }

/-- Clears the tags that name vn: a write to the register (R192). -/
def Group.clearTags (g : Group) (n : Nat) : Group := { g with tags := g.tags.filter fun e => e.2.reg != n }

/-- A last-use read of vn by the lanes of `m` (R142, R177, R186): the lanes are marked, the shadow takes in zero, and a
row whose mask covers every live lane is freed. What the marked lanes read has changed, so the tags that name vn go, also where the
shadow held zero before (R185, R192). An unmapped register has nothing to release. -/
def Group.lastUse (g : Group) (live m : Word) (n : Nat) : Group :=
  match tabGet g.rows n with
  | none => g
  | some mask =>
    let mask' := mask ||| m
    if mask' &&& live = live then { ((g.clearTags n).setShadow n {}) with rows := tabDrop g.rows n, banks := tabDrop g.banks n }
    else { ((g.clearTags n).setShadow n ((g.shadow n).hull {})) with rows := tabSet g.rows n mask' }

/-- A write of vn by the lanes of `m` (R177, R190): the register is mapped, the lanes' marks are cleared, and the shadow
follows the write rule. -/
def Group.wrote (g : Group) (live m : Word) (n : Nat) (i : Interval) : Group :=
  if m = 0 then g
  else
    let rows := match tabGet g.rows n with
      | none => tabSet g.rows n 0
      | some mask => tabSet g.rows n (mask &&& ~~~m)
    { ((g.setShadow n (if m &&& live = live then i else (g.shadow n).hull i)).clearTags n) with rows := rows }

/-- Sets flags of FSTAT (R62). -/
def Group.flag (g : Group) (f : BitVec 6) : Group := { g with fstat := g.fstat ||| f.setWidth 32 }

/-- Flags of FSTAT (R62). -/
def fInv : BitVec 6 := 1
def fNfsat : BitVec 6 := 2
def fNfnan : BitVec 6 := 4
def fTernbad : BitVec 6 := 8
def fSmnan : BitVec 6 := 16
def fEmpty : BitVec 6 := 32

/-- A write to a predicate clears its tag (R192). -/
def Group.clearTag (g : Group) (p : Nat) : Group := { g with tags := tabDrop g.tags p }

end Sys2Proof.Machine
end

