-- ==== Sys2Proof/Machine/Operands.lean ====
section
/-! DEFINITION. Operands of thread instructions: what a source reads (R139, R140, R175), its interval (R187), the checks
of a field (R138, R139, R141 to R143), and the common course of a thread instruction: guards, checks, last uses, the
write of the destination, latches and the advance of the program counter (R142, R143, R156, R204). -/

namespace Sys2Proof.Machine

/-! ## Reading sources -/

/-- Entries of a block's decision queue below a uniform position. -/
def Block.below (b : Block) (upos : Nat) : List DqEntry := b.dq.take (upos - b.dqBase)

/-- The value of qn that a thread at a uniform position sees (R175); an entry still to be written gives none.
DEDUCED (log 41), unsafe. -/
def Block.qView (b : Block) (upos n : Nat) : Option DWord :=
  match ((b.below upos).filterMap fun e => match e.wq with
      | some (m, v) => if m == n then some v else none
      | none => none).getLast? with
  | some v => v
  | none => some (tabGetD b.q n 0)

/-- The value of an that a thread at a uniform position sees (R198). -/
def Block.aView (b : Block) (upos n : Nat) : ArrayReg :=
  match ((b.below upos).filterMap fun e => match e.wa with
      | some (m, v) => if m == n then some v else none
      | none => none).getLast? with
  | some v => v
  | none => tabGetD b.a n {}

/-- The record address bound to kn that a thread at a uniform position sees; none when unbound (R321). -/
def Block.kView (b : Block) (upos n : Nat) : Option DWord :=
  match ((b.below upos).filterMap fun e => match e.wk with
      | some (m, v) => if m == n then some v else none
      | none => none).getLast? with
  | some v => v
  | none => tabGet b.k n

/-- The uniform position at which a thread reads uniform registers; the handler context reads the committed ones
(R416). -/
def viewPos (s : State) (k : Nat) (t : Thread) : Nat :=
  if isHandler (grpOf k) then (s.blockOf (grpOf k)).dqBase else t.upos

/-- The special values (R140); in the handler context lane and thread position read 0 (R416). -/
def special (s : State) (k : Nat) (t : Thread) (code : Nat) : DWord :=
  let g := grpOf k
  let b := s.blockOf g
  let r := (s.grid b.gid).launch
  let h := isHandler g
  let n := fun x : Nat => BitVec.ofNat 64 x
  match code with
  | 116 => if h then 0 else n (laneOf k)
  | 117 => if h then 0 else n (t.lin % r.blkX)
  | 118 => if h then 0 else n (t.lin / r.blkX % r.blkY)
  | 119 => if h then 0 else n (t.lin / (r.blkX * r.blkY))
  | 120 => b.num.setWidth 64
  | 121 => match b.cluster with | some c => n (c % 2 ^ 32) | none => 0xFFFFFFFF
  | 122 => n b.rank
  | 123 => r.args
  | 124 => n (windowBase (coreOfG g))
  | 125 => n (coreOfG g)
  | 126 => n r.threads
  | _ => 0

/-- A register or pair of a thread (R12, R139). -/
def Thread.reg (t : Thread) (n : Nat) : Word := tabGetD t.v n 0

/-- An even–odd pair of a thread (R12). -/
def Thread.pair (t : Thread) (n : Nat) : DWord := (t.reg n).setWidth 64 ||| ((t.reg (n + 1)).setWidth 64 <<< 32)

/-- The latch that y(i) names (R143). -/
def Thread.latch (t : Thread) (i : Nat) : Option Latch := ((t.run.getD []).getD i none)

/-- What a source reads (R139): in a 32-bit position the low word, in a 64-bit position the whole operand. -/
def srcValue (s : State) (k : Nat) (t : Thread) (wide : Bool) (code : Nat) : DWord :=
  if code < 96 then (if wide then t.pair code else (t.reg code).setWidth 64)
  else
    let x := if code < 100 then ((t.latch (code - 96)).map (·.value)).getD 0
      else if code < 116 then ((s.blockOf (grpOf k)).qView (viewPos s k t) (code - 100)).getD 0
      else special s k t code
    if wide then x else x &&& 0xFFFFFFFF

/-- The operand code and last-use bit of a source field (R137). -/
def codeOf (f : BitVec 8) : Nat := f.toNat % 128
def lastOf (f : BitVec 8) : Bool := f.getLsbD 7

/-- A double word's low half read as a signed 32-bit value. -/
def lowInt (x : DWord) : Int := (x.setWidth 32 : Word).toInt

/-- The interval of a source for a bundle (R187): a y operand's is the hull of what its producer gave each member's group. -/
def srcIv (s : State) (ks : List Nat) (code : Nat) : Interval :=
  if code < 32 then
    match (ks.map grpOf).eraseDups.map fun g => (s.group g).shadow code with
    | [] => .full
    | i :: is => is.foldl Interval.hull i
  else if code < 96 then .full
  else if code < 100 then
    match ks.map fun k => (((s.thread k).latch (code - 96)).map (·.iv)).getD .full with
    | [] => .full
    | i :: is => is.foldl Interval.hull i
  else
    let r := (s.gridOf (s.group (grpOf (ks.headD 0))).blk).launch
    match code with
    | 116 => ⟨0, 31⟩
    | 117 => ⟨0, (r.blkX : Int) - 1⟩
    | 118 => ⟨0, (r.blkY : Int) - 1⟩
    | 119 => ⟨0, (r.blkZ : Int) - 1⟩
    | _ => match ks.map fun k => Interval.exact (lowInt (srcValue s k (s.thread k) false code)) with
      | [] => .full
      | i :: is => is.foldl Interval.hull i

/-! ## Checks of fields -/

/-- The lowest reason of R150 among those that apply. DESIGN CHOICE (log 11), unsafe. -/
def lowestReason (l : List (Nat × Bool)) : Option Nat :=
  ((l.filter (·.2)).map (·.1)).foldl (fun m r => match m with | none => some r | some x => some (min x r)) none

/-- A y operand is illegal (R143): no run is open, or the instruction there produced no value. -/
def badLatch (t : Thread) (code : Nat) : Bool := 96 ≤ code && code < 100 && (t.latch (code - 96)).isNone

/-- Checks of an 8-bit source field (R139, R141 to R143, R113). -/
def fieldChecks (rmax : Nat) (t : Thread) (f : BitVec 8) (wide : Bool) : List (Nat × Bool) :=
  let c := codeOf f
  [ (4, (lastOf f && decide (96 ≤ c)) || badLatch t c),
    (5, decide (c < 96) && (decide (rmax ≤ c) || (wide && decide (c % 2 = 0) && decide (rmax ≤ c + 1)))),
    (6, wide && decide (c < 96) && decide (c % 2 = 1)) ]

/-- The mark, above every reason, of an instruction that waits (R168). -/
def waitMark : Nat := 100

/-- The wait for a q operand whose value is still to come (R168, R234). -/
def qWait (s : State) (code : Nat) : Nat × Bool :=
  (waitMark, decide (100 ≤ code) && decide (code < 116) &&
    s.issue.members.any fun k => ((s.blockOf (grpOf k)).qView (viewPos s k (s.thread k)) (code - 100)).isNone)

/-- A result on its way writes register n of a lane. -/
def Landing.hits (y : Landing) (lane n : Nat) : Bool := y.lane == lane && (y.reg == n || (y.wide && y.reg + 1 == n))

/-- A load or an atomic has still to write register n of a lane (R168). -/
def Group.onWay (x : Group) (lane n : Nat) : Bool := (x.loads ++ x.atomics).any fun l => l.any fun y => y.hits lane n

/-- A load or an atomic has still to write one of `num` registers from `lo` of the group (R168). -/
def Group.onWayIn (x : Group) (lo num : Nat) : Bool :=
  (x.loads ++ x.atomics).any fun l => l.any fun y => decide (y.reg < lo + num) && decide (lo < y.reg + (if y.wide then 2 else 1))

/-- Register n is a D register of the MMA in flight, or for a write one of its A registers (R306). -/
def Group.mmaHolds (x : Group) (n : Nat) (write : Bool) : Bool :=
  match x.mma with
  | none => false
  | some r => (decide (r.dreg ≤ n) && decide (n < r.dreg + 64)) ||
      (write && decide (r.areg ≤ n) && decide (n < r.areg + r.anum))

/-- A register of a thread is held: its value is still being produced, or an MMA of the group needs it (R168, R306). -/
def held (s : State) (k n : Nat) (write : Bool) : Bool :=
  let x := s.group (grpOf k)
  x.onWay (laneOf k) n || x.mmaHolds n write

/-- The value of a latch is still being produced for a thread (R168). -/
def latchHeld (s : State) (k i : Nat) : Bool :=
  match (s.thread k).latch i with
  | some { born := some b, .. } =>
    let x := s.group (grpOf k)
    (x.loads ++ x.atomics).any fun l => l.any fun y => y.lane == laneOf k && y.born == b
  | _ => false

/-- The v registers of an operand. -/
def vRegs (wide : Bool) (n : Nat) : List Nat := if n < 96 then (if wide then [n, n + 1] else [n]) else []

/-- A source of some member is still being produced (R168). -/
def srcHeld (s : State) (wide : Bool) (code : Nat) : Bool :=
  s.issue.members.any fun k => (vRegs wide code).any (held s k · false) ||
    (decide (96 ≤ code) && decide (code < 100) && latchHeld s k (code - 96))

/-- A destination of some member is held: by an MMA (R306), or by a result on its way, which lands first.
DEDUCED (log 59), safe. -/
def dstHeld (s : State) (wide : Bool) (n : Nat) : Bool :=
  s.issue.members.any fun k => (vRegs wide n).any (held s k · true)

/-- Checks of an 8-bit source field that the members read, with the waits for its value. -/
def srcChecks (s : State) (f : BitVec 8) (wide : Bool) : List (Nat × Bool) :=
  let lead := s.thread (s.issue.members.headD 0)
  fieldChecks (s.regMaxOf (grpOf (s.issue.members.headD 0))) lead f wide ++
    [qWait s (codeOf f), (waitMark, srcHeld s wide (codeOf f))]

/-- Checks of a source field that names a 64-bit address: an even v code, a latch, a q register, %args or %vault
(R281). -/
def addrChecks (s : State) (f : BitVec 8) : List (Nat × Bool) :=
  (4, decide (116 ≤ codeOf f) && codeOf f != 123 && codeOf f != 124) :: srcChecks s f true

/-- Checks of the hint group of an instruction that takes no LIT, or that takes or needs one; BLK binds only where
`blk` (R154, R155). -/
def hintChecks (t : Thread) (lit need blk : Bool) : List (Nat × Bool) :=
  let h := t.hints.getD { start := 0 }
  [ (7, (h.lit.isSome && !lit) || (need && h.lit.isNone)), (10, h.blk.isSome && !blk) ]

/-- The bound LIT value (R154). -/
def Thread.lit (t : Thread) : Option (BitVec 24) := t.hints.bind (·.lit)

/-! ## The common course of a thread instruction -/

/-- The members of the issued bundle, in lane order. -/
def State.members (s : State) : List Nat := s.issue.members

/-- A thread is enabled: no span is open, or its guard is 1 (R156). -/
def Thread.enabled (t : Thread) : Bool := match t.span with | none => true | some sp => sp.g

/-- The enabled members. -/
def State.enabled (s : State) : List Nat := s.members.filter fun k => (s.thread k).enabled

/-- The representative member, which carries the bundle's hints and run (R169, R171). -/
def State.lead (s : State) : Thread := s.thread (s.members.headD 0)

/-- The group of the representative member. -/
def State.leadGroup (s : State) : Nat := grpOf (s.members.headD 0)

/-- REGMAX for the bundle. -/
def State.regMax (s : State) : Nat := s.regMaxOf s.leadGroup

/-- Checks of a destination field with its W bit (R138, R113, R141), with the waits for its registers.
DEDUCED (log 13), unsafe. -/
def dstChecks (s : State) (d : BitVec 7) (w : BitVec 1) (wide : Bool) : List (Nat × Bool) :=
  let n := d.toNat
  if w = 1 then [(4, decide (n ≠ 0))]
  else [ (4, decide (96 ≤ n)),
         (5, decide (n < 96) && (decide (s.regMax ≤ n) || (wide && decide (n % 2 = 0) && decide (s.regMax ≤ n + 1)))),
         (6, wide && decide (n % 2 = 1)), (waitMark, dstHeld s wide n) ]

/-- The issued bundle is the handler context (R416). -/
def State.inHandler (s : State) : Bool := isHandler s.leadGroup

/-- The latch run of a thread after an instruction (R143): W = 1 opens one, and it closes after its fourth follower. -/
def nextRun (t : Thread) (w : Bool) (l : Option Latch) : Option (List (Option Latch)) :=
  match t.run with
  | none => if w then some [l] else none
  | some r => if r.length < 4 then some (l :: r) else none

/-- The GRD span of a thread after a non-hint instruction (R156). -/
def nextSpan (sp : Option Span) : Option Span :=
  match sp with
  | some x => if x.left ≤ 1 then none else some { x with left := x.left - 1 }
  | none => none

/-- A thread after an instruction that falls through (R143, R151, R156). -/
def Thread.advance (t : Thread) (tick : Nat) (w : Bool) (l : Option Latch) : Thread :=
  { t with pc := t.pc + 4, hints := none, run := nextRun t w l, span := nextSpan t.span, since := tick }

/-- A thread after a taken branch, call, return or another redirection (R143, R156). -/
def Thread.jump (t : Thread) (tick : Nat) (target : DWord) : Thread :=
  { t with pc := target, hints := none, run := none, span := none, since := tick }

/-- Applies a change to the listed entries of a table, all from the same earlier state (R6). -/
def tabOver {α : Type} (t : Tab α) (ks : List Nat) (f : Nat → α → α) : Tab α :=
  t.map fun e => if ks.contains e.1 then (e.1, f e.1 e.2) else e

/-- The open latch runs of a core after the members have issued (R171). -/
def settleRuns (s : State) (ks : List Nat) : State :=
  let c := coreOfG (grpOf (ks.headD 0))
  let core := s.core c
  let inRun := ks.filter fun k => match tabGet s.threads k with | some t => t.run.isSome | none => false
  let rest := core.runs.filter fun r => !(r.any ks.contains)
  if rest.length == core.runs.length && inRun.isEmpty then s
  else s.setCore c { core with runs := if inRun.isEmpty then rest else rest ++ [inRun] }

/-- Every member falls through; each gets its latch value. A thread that a trap has stopped meanwhile is left alone. -/
def advanceAll (s : State) (w : Bool) (l : Nat → Option Latch) : State :=
  settleRuns { s with threads := tabOver s.threads s.members fun k t => t.advance s.now w (l k) } s.members

/-- Every member falls through without a latch value. -/
def advanceNone (s : State) : State := advanceAll s false fun _ => none

/-- Closes the idempotent region of the members (R410, R411): the next region starts where each stands. -/
def closeRegions (s : State) (ks : List Nat) : State :=
  { s with threads := tabOver s.threads ks fun _ t =>
      { t with rentry := t.pc, rcount := t.rcount + 1, rgen := t.gen, rspan := t.span } }

/-- Feature classes of R148. -/
inductive Class where
  | base | narrow | ternary | attention | double
  deriving DecidableEq, Repr

/-- The feature class of an opcode (R148). -/
def classOf (op : Nat) : Class :=
  if op = 0x72 ∨ op = 0x73 ∨ op = 0xA1 ∨ op = 0xA6 then .narrow
  else if op = 0x74 ∨ op = 0x75 then .ternary
  else if 0xA8 ≤ op ∧ op ≤ 0xB2 then .attention
  else if (0x78 ≤ op ∧ op ≤ 0x7F) ∨ op = 0xA2 then .double
  else .base

/-- Bit of a class in FCLASS (R80). -/
def Class.bit : Class → Nat
  | .base => 0 | .narrow => 0 | .ternary => 1 | .attention => 2 | .double => 3

/-- A die holds a class (R14). -/
def Class.onDie (c : Class) (d : Nat) : Bool := c == .base || bitNat (Config.fclassOf d) c.bit

/-- A migrate trap is available for a class (R111, R149): MIGRATE = 1 and DIEMASK holds a die of a type with it. -/
def canMigrate (r : Launch) (c : Class) : Bool :=
  r.migrate && (List.range 8).any fun d => r.dieMask.getLsbD d && c.onDie d

/-- The threads of the bundle take the migrate trap (R439): each returns to its region entry and waits there. -/
def migrateTrap (s : State) (c : Class) : State :=
  let ks := s.members
  let b := (s.group s.leadGroup).blk
  let blk := s.block b
  let blks := match blk.cluster with
    | some cl => s.blocksOfCluster blk.gid cl
    | none => [b]
  let s1 := breakRuns s (coreOfB b) ks (fun _ => false)
  -- a block that another save already stops meets the instruction again after its restore
  let other := match blk.saving with | some v => v.kind != 3 | none => false
  let held : Halt := if other then .full else .migrate s.issue.pc s.issue.word
  let s2 := { s1 with threads := tabOver s1.threads ks fun _ t => { toRegion t with halt := held } }
  let gs := (ks.map grpOf).eraseDups
  if other then s2 else
  match s2.migrations.find? fun m => m.blks.contains b with
  | some _ => { s2 with migrations := s2.migrations.map fun m =>
      if m.blks.contains b then { m with trapped := m.trapped ++ gs.filter fun g => !m.trapped.contains g } else m }
  | none => { (blks.foldl (fun s x => s.modBlock x fun y => { y with saving := some { kind := 3 } }) s2) with
      migrations := s2.migrations ++ [{ gid := blk.gid, unit := (blk.cluster, blk.num.toNat), blks := blks, cls := c.bit, trapped := gs, srcDie := Config.dieOfCore (coreOfB b) }] }

/-- Whether an instruction may run in the handler context (R417). -/
inductive InHandler where
  | yes | no
  /-- Only there: TRRD, TRWR, TRET. -/
  | only
  deriving DecidableEq, Repr

/-- Key of the issuing block. -/
def State.issueBlock (s : State) : Nat := bKey s.issue.core s.issue.ctx

/-- The Lectern steps over a word as if it fell through (R173). -/
def lectPass (s : State) : State :=
  s.modBlock s.issueBlock fun b => { b with started := true, lect := { b.lect with pc := b.lect.pc + 4, hints := none } }

/-- The common course of a thread instruction (R149, R150, R168, R417): with no member nothing happens; a class that the die
lacks migrates or traps; the checks trap with their lowest reason, or wait; otherwise the body runs. -/
def onThreads (s : State) (c : Class) (h : InHandler) (checks : List (Nat × Bool)) (body : State → State) : Res :=
  if s.issue.agent = .lectern then .next (lectPass s)
  else match s.members with
  | [] => .next s
  | _ :: _ =>
    if (s.inHandler && h == .no) || (!s.inHandler && h == .only) then .next (illegal s s.members 1)
    else if !c.onDie (Config.dieOfCore (coreOfG s.leadGroup)) then
      if !s.inHandler && canMigrate (s.gridOf (s.group s.leadGroup).blk).launch c then .next (migrateTrap s c)
      else .next (illegal s s.members 2)
    else match lowestReason checks with
    | some r => .next (if r = waitMark then s else illegal s s.members r)
    | none => .next (body s)

/-- The span check of R156: the members whose span is open trap with reason 8, and the others meet the word again; with
no span open the body runs. -/
def outsideSpan (body : State → State) (s : State) : State :=
  match s.members.filter fun k => (s.thread k).span.isSome with
  | k :: ks => illegal s (k :: ks) 8
  | [] => body s

/-- Opcodes of uniform-stream instructions (R226, R285, R310, R336). -/
def uniformOpcode (op : Nat) : Bool :=
  op == 0x49 || (decide (0x52 ≤ op) && decide (op ≤ 0x56)) || op == 0x5C || (decide (0x96 ≤ op) && decide (op ≤ 0x9B)) ||
    (decide (0xA4 ≤ op) && decide (op ≤ 0xA6)) || op == 0xA8 || op == 0xA9 || op == 0xAB ||
    (decide (0xAE ≤ op) && decide (op ≤ 0xB2))

/-! ## Register writes of a bundle -/

/-- Lanes of a group among the threads listed. -/
def lanesIn (ks : List Nat) (g : Nat) : Word := laneMask ((ks.filter fun k => grpOf k == g).map laneOf)

/-- Applies a change to each group that has a thread among those listed. -/
def overGroups (s : State) (ks : List Nat) (f : Nat → Group → Group) : State :=
  { s with groups := tabOver s.groups (ks.map grpOf).eraseDups f }

/-- Group side of a last use of a source field by the listed lanes (R142, R177, R186). -/
def groupUse (live m : Word) (f : BitVec 8) (wide : Bool) (g : Group) : Group :=
  if lastOf f && decide (codeOf f < 96) then
    let g1 := g.lastUse live m (codeOf f)
    if wide then g1.lastUse live m (codeOf f + 1) else g1
  else g

/-- Group side of a write of a destination by the listed lanes (R177, R189, R190). -/
def groupWrite (live m : Word) (n : Nat) (wide : Bool) (i : Interval) (g : Group) : Group :=
  if wide then (g.wrote live m n .full).wrote live m (n + 1) .full else g.wrote live m n i

/-- Thread side of a last use of a source field. -/
def threadUse (v : Tab Word) (f : BitVec 8) (wide : Bool) : Tab Word :=
  if lastOf f && decide (codeOf f < 96) then dropReg v (codeOf f) wide else v

/-- Writes one value per thread of `ks` into a destination, with an interval for each group (R138, R190); no advance. -/
def putResult (s : State) (ks : List Nat) (d : BitVec 7) (w : BitVec 1) (wide : Bool) (val : Nat → Thread → DWord)
    (iv : Nat → Interval) : State :=
  if w = 1 then s else
  { s with
    threads := tabOver s.threads ks fun k t => { t with v := putReg t.v d.toNat wide (val k t) }
    groups := tabOver s.groups (ks.map grpOf).eraseDups fun g x =>
      groupWrite (laneMask ((s.liveOf g).map laneOf)) (lanesIn ks g) d.toNat wide (iv g) x }

/-- The hull of a list of values; full for none. -/
def hullOf (l : List Int) : Interval :=
  match l.map Interval.exact with
  | [] => .full
  | i :: is => is.foldl Interval.hull i

/-- Every enabled member receives a value, the latch of a disabled one zero (R143, R204); the interval is `iv`. -/
def giveResult (s : State) (d : BitVec 7) (w : BitVec 1) (wide : Bool) (val : Nat → Thread → DWord) (iv : Interval) : State :=
  advanceAll (putResult s s.enabled d w wide val fun _ => iv) (w = 1) fun k =>
    let t := s.thread k
    some { value := if t.enabled then val k t else 0, iv := iv }

/-- Every write of a group's threads has completed, so a release may act (R389, R375). -/
def drained (s : State) (g : Nat) : Bool :=
  let x := s.group g
  x.nGather == 0 && x.atomics.isEmpty

end Sys2Proof.Machine
end

