-- ==== Sys2Proof/Machine/Alu.lean ====
section
/-! DEFINITION. The lane model of R204 over formats R, I and U, with register blocks (R155): every lane computes from the
state before the element; last uses, writes, latches, shadows and flags follow. -/

namespace Sys2Proof.Machine

/-- What a lane's computation reads: sources A and B, the destination register (accumulating forms), the generator state
and the guard. -/
structure LaneIn where
  a : DWord := 0
  b : DWord := 0
  c : DWord := 0
  gen : Word := 1
  g : Bool := true
  deriving DecidableEq, Repr

/-- What a lane's computation gives: the result, flags of FSTAT, the generator state. -/
structure LaneOut where
  x : DWord
  flags : BitVec 6 := 0
  gen : Word
  deriving DecidableEq, Repr

/-- An operation of formats R, I or U: the widths of A, B and DST, whether DST is also read, whether B is read, whether a
guard selects instead of disabling (SEL), its function, and its row of R188. -/
structure Alu where
  wa : Bool := false
  wb : Bool := false
  wd : Bool := false
  acc : Bool := false
  useB : Bool := true
  sel : Bool := false
  fn : LaneIn → LaneOut
  iv : IvRow := .full
  /-- A DST of 96 or above has reason 6 rather than 4: the 64-bit forms of R205. -/
  far6 : Bool := false

/-- An operation that draws no random word and sets no flag. -/
def pureFn (f : DWord → DWord → DWord) (i : LaneIn) : LaneOut := { x := f i.a i.b, gen := i.gen }

/-- The operand fields of one element: destination, W, sources; or the immediate in place of B. -/
structure Fields where
  d : BitVec 7
  w : BitVec 1
  a : BitVec 8
  b : BitVec 8 := 0x7F
  imm : Option DWord := none
  /-- Registers that an element of a BLK releases, where the last-use bits of the fields do not say it (R155). -/
  freed : Option (List Nat) := none
  deriving DecidableEq, Repr

/-- What a lane reads for an operation. -/
def laneIn (s : State) (op : Alu) (f : Fields) (k : Nat) (t : Thread) : LaneIn :=
  { a := srcValue s k t op.wa (codeOf f.a)
    b := match f.imm with | some x => x | none => if op.useB then srcValue s k t op.wb (codeOf f.b) else 0
    c := if op.acc then srcValue s k t op.wd f.d.toNat else 0
    gen := t.gen
    g := t.enabled }

/-- A lane takes part: it is enabled, or the operation selects by the guard (R156). -/
def takesPart (op : Alu) (t : Thread) : Bool := op.sel || t.enabled

/-- The v registers that an operation's last-use bits name (R142). -/
def marked (op : Alu) (f : Fields) (a b : Nat) : List Nat :=
  (if lastOf f.a then vRegs op.wa a else []) ++
    (if f.imm.isNone && op.useB && lastOf f.b then vRegs op.wb b else [])

/-- The registers that one element releases once it has read them. -/
def released (op : Alu) (f : Fields) : List Nat := f.freed.getD (marked op f (codeOf f.a) (codeOf f.b))

/-- The thread side of one element (R142, R143, R204). -/
def laneStep (s : State) (op : Alu) (f : Fields) (k : Nat) (t : Thread) : Thread :=
  if takesPart op t then
    let out := op.fn (laneIn s op f k t)
    let v2 := (released op f).foldl (fun v n => dropReg v n false) t.v
    { t with v := if f.w = 0 then putReg v2 f.d.toNat op.wd out.x else v2, gen := out.gen }
  else t

/-- The result interval of an element for the bundle (R188, R189). -/
def resultIv (s : State) (op : Alu) (f : Fields) : Interval :=
  op.iv.apply (srcIv s s.members (codeOf f.a))
    (match f.imm with | some x => .exact (lowInt x) | none => if op.useB then srcIv s s.members (codeOf f.b) else .full)

/-- The group side of one element (R177, R190, R62). -/
def groupStep (s : State) (op : Alu) (f : Fields) (g : Nat) (x : Group) : Group :=
  let ks := s.members.filter fun k => takesPart op (s.thread k)
  let live := laneMask ((s.liveOf g).map laneOf)
  let m := lanesIn ks g
  if m = 0 then x else
  let x2 := (released op f).foldl (fun x n => x.lastUse live m n) x
  let x3 := if f.w = 0 then groupWrite live m f.d.toNat op.wd (resultIv s op f) x2 else x2
  (ks.filter fun k => grpOf k == g).foldl (fun x k => x.flag (op.fn (laneIn s op f k (s.thread k))).flags) x3

/-- One element over the bundle. -/
def elemStep (s : State) (op : Alu) (f : Fields) : State :=
  { s with threads := tabOver s.threads s.members (laneStep s op f)
           groups := tabOver s.groups (s.members.map grpOf).eraseDups (groupStep s op f) }

/-- The latch value of a member (R143): the result where the lane took part, else zero. -/
def latchOf (s : State) (op : Alu) (f : Fields) (k : Nat) : Option Latch :=
  let t := s.thread k
  some { value := if takesPart op t then (op.fn (laneIn s op f k t)).x else 0, iv := resultIv s op f }

/-- Fields of a BLK hint (R155): M, N, RS, and the fixed operands. -/
structure BlkHint where
  m : Nat
  n : Nat
  rs : Nat
  fd : Bool
  fa : Bool
  fb : Bool
  deriving DecidableEq, Repr

/-- Reads a BLK hint's bits [23:0] (R155). -/
def blkOf (h : BitVec 24) : BlkHint :=
  { m := (h.extractLsb' 21 3).toNat + 1, n := (h.extractLsb' 18 3).toNat + 1, rs := (h.extractLsb' 12 6).toNat
    fd := h.getLsbD 11, fa := h.getLsbD 10, fb := h.getLsbD 9 }

/-- Advances an operand code by a step unless it is fixed or no v register (R155). -/
def advanceCode (fixed : Bool) (step code : Nat) : Nat := if fixed || 96 ≤ code then code else code + step

/-- Elements of a BLK in order: the register numbers of DST, A and B (R155). -/
def blkElems (h : BlkHint) (op : Alu) (f : Fields) : List (Nat × Nat × Nat) :=
  (List.range h.m).flatMap fun i => (List.range h.n).map fun j =>
    let st := fun wide : Bool => h.rs * i + (if wide then 2 else 1) * j
    (advanceCode h.fd (st op.wd) f.d.toNat, advanceCode h.fa (st op.wa) (codeOf f.a),
      advanceCode h.fb (st op.wb) (codeOf f.b))

/-- Registers that an element reads: A, B unless it is an immediate, and DST where it accumulates. -/
def elemReads (op : Alu) (f : Fields) (e : Nat × Nat × Nat) : List Nat :=
  vRegs op.wa e.2.1 ++ (if f.imm.isNone && op.useB then vRegs op.wb e.2.2 else []) ++
    (if op.acc then vRegs op.wd e.1 else [])

/-- Fields of the elements: a register that a last-use bit of some element names goes at its last reading element
(R155). -/
def blkFields (op : Alu) (f : Fields) (names : List Nat) : List (Nat × Nat × Nat) → List Fields
  | [] => []
  | e :: es =>
    let later := (es.map (elemReads op f)).flatten
    let go := ((elemReads op f e).filter fun n => names.contains n && !later.contains n).eraseDups
    let field := fun c : Nat => BitVec.ofNat 8 (c % 128)
    { f with d := BitVec.ofNat 7 e.1, a := field e.2.1, b := field e.2.2, freed := some go } :: blkFields op f names es

/-- The elements of a register block, in order (R155). -/
def blkRun (h : BlkHint) (op : Alu) (f : Fields) : List Fields :=
  let es := blkElems h op f
  blkFields op f (es.flatMap fun e => marked op f e.2.1 e.2.2) es

/-- A target with W = 1 or a y operand, which BLK may not bind (R155). DEDUCED (log 12), unsafe. -/
def latchInBlk (op : Alu) (f : Fields) : Bool :=
  let isY := fun c : Nat => decide (96 ≤ c) && decide (c < 100)
  f.w = 1 || isY (codeOf f.a) || (f.imm.isNone && op.useB && isY (codeOf f.b))

/-- Checks of an instruction of formats R, I and U (R138 to R143, R154, R155): those of a register block look at every element, also
at an odd register that an odd RS puts into a 64-bit position (R141), before any takes effect (R149). -/
def aluChecks (s : State) (op : Alu) (f : Fields) (lit : Bool) : List (Nat × Bool) :=
  let t := s.lead
  let r := s.regMax
  let dst := if op.far6 && f.w = 0 && decide (96 ≤ f.d.toNat) then [(6, true)] else dstChecks s f.d f.w op.wd
  let bs := if f.imm.isSome || !op.useB then [] else srcChecks s f.b op.wb
  let blk := match t.hints.bind (·.blk) with
    | none => []
    | some h =>
      let es := blkElems (blkOf h) op f
      let bad := fun (wide : Bool) (n : Nat) =>
        decide (95 < n) || decide (r ≤ n) || (wide && (decide (95 < n + 1) || decide (r ≤ n + 1)))
      let isV := fun c : Nat => decide (c < 96)
      [ (10, es.any fun e => (isV f.d.toNat && bad op.wd e.1) || (isV (codeOf f.a) && bad op.wa e.2.1) ||
            (f.imm.isNone && op.useB && isV (codeOf f.b) && bad op.wb e.2.2)),
        (6, es.any fun e => (isV f.d.toNat && op.wd && e.1 % 2 == 1) || (isV (codeOf f.a) && op.wa && e.2.1 % 2 == 1) ||
            (f.imm.isNone && op.useB && isV (codeOf f.b) && op.wb && e.2.2 % 2 == 1)),
        (waitMark, es.any fun e => (elemReads op f e).any (fun n => srcHeld s false n) || dstHeld s op.wd e.1) ]
  if t.hints.any (·.blk.isSome) && latchInBlk op f then [(10, true)]
  else dst ++ srcChecks s f.a op.wa ++ bs ++ hintChecks t lit false true ++ blk

/-- The elements of a register block in turn (R155). -/
def blkSteps (op : Alu) : List Fields → State → State
  | [], s => advanceNone s
  | f :: fs, s => blkSteps op fs (elemStep s op f)

/-- The body of an instruction of formats R, I and U: one element, or the elements of its register block. -/
def aluBody (op : Alu) (f : Fields) (s : State) : State :=
  match s.lead.hints.bind (·.blk) with
  | none => advanceAll (elemStep s op f) (f.w = 1) (latchOf s op f)
  | some h => blkSteps op (blkRun (blkOf h) op f) s

/-- An instruction of format R or U: `op` over its fields. -/
def execAlu (c : Class) (op : Alu) (f : Fields) (more : List (Nat × Bool)) (lit : Bool) (s : State) : Res :=
  onThreads s c .yes (more ++ aluChecks s op f lit) (aluBody op f)

/-- The immediate of formats I and C (R144): sign- or zero-extended, or (L << 8) | IMM with a LIT; sign-extended to 64
bits for a 64-bit form, else as the 32-bit value. -/
def immOf (t : Thread) (imm : BitVec 8) (signed wide : Bool) : DWord :=
  match t.lit with
  | some l =>
    let x : Word := l ++ imm
    if wide then x.signExtend 64 else x.setWidth 64
  | none =>
    if signed then (if wide then imm.signExtend 64 else (imm.signExtend 32).setWidth 64) else imm.setWidth 64

end Sys2Proof.Machine
end

