-- ==== Sys2Proof/Machine/Pred.lean ====
section
/-! DEFINITION. Compares to a predicate and predicate logic (R210, R212), with refinement tags (R192). -/

namespace Sys2Proof.Machine

/-- Sets predicate n; a write to p0 is discarded (R138). -/
def setPred (p : BitVec 64) (n : Nat) (x : Bool) : BitVec 64 :=
  if n = 0 then p else if x then p ||| BitVec.ofNat 64 (2 ^ n) else p &&& ~~~BitVec.ofNat 64 (2 ^ n)

/-- Reads predicate n. -/
def Thread.pred (t : Thread) (n : Nat) : Bool := t.p.getLsbD n

/-- Writes a predicate in every enabled member and clears its tag in their groups (R192, R204). -/
def writePred (s : State) (pd : Nat) (f : Nat → Thread → Bool) : State :=
  { s with threads := tabOver s.threads s.members fun k t =>
             if t.enabled then { t with p := setPred t.p pd (f k t) } else t
           groups := tabOver s.groups (s.enabled.map grpOf).eraseDups fun _ x => x.clearTag pd }

/-- Last uses of the source fields of a compare by the enabled members (R142). -/
def useSources (s : State) (fs : List (BitVec 8 × Bool)) : State :=
  let ks := s.enabled
  { s with threads := tabOver s.threads ks fun _ t => { t with v := fs.foldl (fun v f => threadUse v f.1 f.2) t.v }
           groups := tabOver s.groups (ks.map grpOf).eraseDups fun g x =>
             fs.foldl (fun x f => groupUse (laneMask ((s.liveOf g).map laneOf)) (lanesIn ks g) f.1 f.2 x) x }

/-- The relations of R210 by CC: eq, ne, lt, ge. -/
def relation {α : Type} [DecidableEq α] (lt : α → α → Bool) (cc : Nat) (a b : α) : Bool :=
  match cc with
  | 0 => a == b
  | 1 => a != b
  | 2 => lt a b
  | _ => !lt a b

/-- A CMP.i32 sets the tag of its predicate for each group whose live threads are all in the bundle and enabled, when A
names v0 to v31 and B is exact (R192). -/
def setTags (s0 s : State) (pd cc : Nat) (a : BitVec 8) (biv : Interval) : State :=
  match biv.exact? with
  | none => s
  | some c =>
    if codeOf a < 32 ∧ pd ≠ 0 then
      { s with groups := tabOver s.groups (s0.enabled.map grpOf).eraseDups fun g x =>
          let live := laneMask ((s0.liveOf g).map laneOf)
          if lanesIn s0.enabled g &&& live = live then
            { x with tags := tabSet x.tags pd { reg := codeOf a, cc := cc, c := c } }
          else x }
    else s

/-- A compare of format C: checks, last uses, the predicate, the tag where `tag`. `rel` reads the operands of a lane. -/
def execCompare (c : Class) (pd : BitVec 6) (cc : BitVec 2) (a : BitVec 8) (b : Option (BitVec 8)) (imm : DWord)
    (wide tag lit : Bool) (more : List (Nat × Bool)) (rel : DWord → DWord → Bool) (s : State) : Res :=
  let t := s.lead
  let bs := match b with | some b => srcChecks s b wide | none => []
  onThreads s c .yes (more ++ srcChecks s a wide ++ bs ++ hintChecks t lit false false) fun s =>
    let val := fun k t => rel (srcValue s k t wide (codeOf a))
      (match b with | some b => srcValue s k t wide (codeOf b) | none => imm)
    let biv := match b with | some b => srcIv s s.members (codeOf b) | none => .exact (lowInt imm)
    let s1 := writePred s pd.toNat val
    let s2 := useSources s1 ((a, wide) :: match b with | some b => [(b, wide)] | none => [])
    -- a last use of A changes the register that the tag would name: then no tag stands
    let s3 := if tag && !lastOf a && !(match b with | some b => lastOf b && codeOf b == codeOf a | none => false)
              then setTags s s2 pd.toNat cc.toNat a biv else s2
    advanceNone s3

/-- Signed and unsigned relations on operands of 32 and 64 bits. -/
def relI32 (cc : BitVec 2) (a b : DWord) : Bool := relation (fun x y : Int => decide (x < y)) cc.toNat (lowInt a) (lowInt b)
def relN32 (cc : BitVec 2) (a b : DWord) : Bool :=
  relation (fun x y : Nat => decide (x < y)) cc.toNat (a.setWidth 32 : Word).toNat (b.setWidth 32 : Word).toNat
def relI64 (cc : BitVec 2) (a b : DWord) : Bool := relation (fun x y : Int => decide (x < y)) cc.toNat a.toInt b.toInt

/-- CMP.i32 (R210). -/
def execCmpI32 (p : BitVec 6) (c : BitVec 2) (a b : BitVec 8) (s : State) : Res :=
  execCompare .base p c a (some b) 0 false true false [] (relI32 c) s

/-- CMP.i32 with an immediate (R144, R210). -/
def execCmpI32Imm (p : BitVec 6) (c : BitVec 2) (a i : BitVec 8) (s : State) : Res :=
  execCompare .base p c a none (immOf s.lead i true false) false true true [] (relI32 c) s

/-- CMP.n32 (R210). -/
def execCmpN32 (p : BitVec 6) (c : BitVec 2) (a b : BitVec 8) (s : State) : Res :=
  execCompare .base p c a (some b) 0 false false false [] (relN32 c) s

/-- CMP.n32 with an immediate (R144, R210). -/
def execCmpN32Imm (p : BitVec 6) (c : BitVec 2) (a i : BitVec 8) (s : State) : Res :=
  execCompare .base p c a none (immOf s.lead i false false) false false true [] (relN32 c) s

/-- CMP.i64 (R210). -/
def execCmpI64 (p : BitVec 6) (c : BitVec 2) (a b : BitVec 8) (s : State) : Res :=
  execCompare .base p c a (some b) 0 true false false [] (relI64 c) s

/-- PLUT: bit (2 × pa + pb) of LUT (R212). -/
def execPlut (p a b : BitVec 6) (l : BitVec 4) (s : State) : Res :=
  onThreads s .base .yes (hintChecks s.lead false false false) fun s =>
    advanceNone (writePred s p.toNat fun _ t =>
      l.getLsbD ((if t.pred a.toNat then 2 else 0) + (if t.pred b.toNat then 1 else 0)))

end Sys2Proof.Machine
end

