-- ==== Sys2Proof/Machine/Ras.lean ====
section
/-! DEFINITION. What a fault of the hardware leaves for the machine to act on: poisoned and corrected words, residue
mismatches, and cores and dies taken out of service (R101, R454 to R457). The faults themselves come from outside: the
state lists those that are still to be met. -/

namespace Sys2Proof.Machine

/-! ## Poison -/

/-- Reads for work that no block runs yet, through the translation: they correct the errors that they meet, and find those beyond
correction (R454). -/
def finds (s : State) (asid : BitVec 6) (acc : Access) (ranges : List (DWord × Nat)) : State :=
  let s1 := meets s asid acc ranges
  if s1.poison.isEmpty then s1 else
  (ranges.flatMap fun r => pagePieces r.1.toNat r.2).foldl (fun s p => match translate s asid (BitVec.ofNat 64 p.1) acc with
    | .ok pa => detect s pa p.2
    | .error _ => s) s1

/-- Reads like readVirt, and fails where a word of the range is poisoned (R455). -/
def readClean (s : State) (asid : BitVec 6) (va : DWord) (acc : Access) (n : Nat) : Except (DWord × Nat) Nat :=
  match poisonVirt s asid va acc n with
  | some pa => .error (BitVec.ofNat 64 pa, poisonReason)
  | none => readVirt s asid va acc n

/-- An engine's, the Lectern's or a matrix read of a range: poison in it kills the grid of the block in place of what
`body` would do (R455). -/
def reading (s : State) (b : Nat) (ranges : List (DWord × Nat)) (acc : Access) (body : State → State) : State :=
  let s1 := meets s (s.asidOf b) acc ranges
  if s1.poison.isEmpty then body s1 else
  match ranges.findSome? fun r => poisonVirt s1 (s1.asidOf b) r.1 acc r.2 with
  | some pa => poisonKill s1 (s1.block b).gid pa
  | none => body s1

/-- An error in a core's storage cell is met (R454, R455): a corrected one sends its event, without an address; a register
row, or what a block holds, beyond correction kills the grid of its consumer, with a poison event that has no address.
DEDUCED (log 8), unsafe. -/
def meetCell (s : State) : CellError → State
  | .correctable c n =>
    let d := Config.dieOfCore c
    countDie (sendEvent s 0x0011 d (if n = 3 then 0xFF else Config.coreInDie c) 0 (BitVec.ofNat 64 n) 0) d 0x4A 1
  | .row g => match tabGet s.groups g with
    | some x => consumed s x.blk
    | none => s
  | .held b => if (tabGet s.blocks b).isSome then consumed s b else s
where
  /-- The grid of a block goes. -/
  consumed (s : State) (b : Nat) : State :=
    let gid := (s.block b).gid
    let c := coreOfB b
    sendEvent (killGrid (countDie s (Config.dieOfCore c) 0x4B 1) gid 0 0) 0x000F (Config.dieOfCore c) (Config.coreInDie c) 0 ((s.grid gid).launch.jobId.setWidth 64) 0

/-- The errors in storage cells that a step meets. -/
def meetCells (s : State) : State :=
  if s.cells.isEmpty then s else s.cells.foldl meetCell { s with cells := [] }

/-! ## Residue checks -/

/-- A core leaves service (R101, R456): its resident grids are killed, the cards in its local queue rejected, its bit in
COREOFF set, and a core-fault event sent. -/
def rejectCards (s : State) (g : Nat) : State :=
  let c := s.core g
  let gids := match c.queue.cur with | some x => [x] | none => []
  let job := fun (s : State) (k : Card) => match readVirt s k.asid (k.addr + 0x8C) .load 4 with
    | .ok v => BitVec.ofNat 64 v
    | .error _ => 0
  -- a card whose grid has placed a block is no longer waiting
  let kept := match c.queue.cur with
    | some x => if (s.grid x).nextBlock = 0 then 0 else 1
    | none => 0
  let s1 := (c.queue.cards.drop kept).foldl (fun s k =>
    sendEvent s 0x0001 (Config.dieOfCore g) 0xFF (job s k) 0xFFFD k.addr) s
  let s2 := if kept = 0 then { s1 with grids := s1.grids.filter fun e => !(gids.contains e.1) } else s1
  s2.setCore g { s2.core g with queue := { cards := c.queue.cards.take kept, cur := if kept = 0 then none else c.queue.cur } }

/-- Grids with a block on a core. -/
def gridsOnCore (s : State) (g : Nat) : List Nat :=
  ((s.blocks.filter fun e => coreOfB e.1 == g).map (·.2.gid)).eraseDups

/-- A core is taken out of service (R456). -/
def coreFault (s : State) (g : Nat) : State :=
  let d := Config.dieOfCore g
  let c := Config.coreInDie g
  let s1 := (gridsOnCore s g).foldl (fun s x => killGrid s x 0 0) s
  let x := s1.die d
  let s2 := rejectCards (s1.setDie d { x with coreOff := x.coreOff ||| 1#40 <<< c }) g
  sendEvent s2 0x0013 d c (BitVec.ofNat 64 g) 0 0

/-- Work of a core whose results a residue code checks (R456): a mismatch that recomputation mends is reported beside the
result; one that repeats writes nothing and takes the core out of service. -/
def residueChecked (g : Nat) (body : State → State) (s : State) : State :=
  match tabGetD s.upsets g 0 with
  | 0 => body s
  | 1 =>
    let s1 := sendEvent { s with upsets := tabDrop s.upsets g } 0x0012 (Config.dieOfCore g) (Config.coreInDie g)
      (BitVec.ofNat 64 g) 0 0
    body s1
  | _ => coreFault { s with upsets := tabDrop s.upsets g } g

end Sys2Proof.Machine
end

