-- ==== Sys2Proof/Machine/Float.lean ====
section
/-! DEFINITION. Floating point, conversions, packed ternary, the generator and FSTAT (R236 to R256). -/

namespace Sys2Proof.Machine

/-! ## Rounding modes and lane functions -/

/-- The RM of a bound LIT; 0 without one (R237). -/
def litRm (t : Thread) : Nat := (t.lit.map fun l => l.toNat % 8).getD 0

/-- Bits of a bound LIT from `n` up; 0 without one. -/
def litAbove (t : Thread) (n : Nat) : Nat := (t.lit.map fun l => l.toNat / 2 ^ n).getD 0

/-- Checks of R237 for an instruction whose RM comes from a LIT. -/
def rmChecks (t : Thread) : List (Nat × Bool) := [(3, litAbove t 3 != 0), (9, decide (5 ≤ litRm t))]

/-- A floating-point operand (R236). -/
def flOf (f : FFmt) (x : DWord) : Fl := f.decode (x.toNat % 2 ^ f.width)

/-- INV of an operation whose result is NaN from operands that are not (R61). -/
def invFlag (result : Fl) (operands : List Fl) : BitVec 6 :=
  if result.isNan && !(operands.any Fl.isNan) then fInv else 0

/-- A lane's rounded result (R238, R240): the exact value of the operands, one rounding, one draw under RM 4. -/
def fnRound (f : FFmt) (rm : Rm) (op : LaneIn → Fl × List Fl) (i : LaneIn) : LaneOut :=
  let g := drawFor rm i.gen
  let v := op i
  { x := BitVec.ofNat 64 (f.round rm g.2 v.1), flags := invFlag v.1 v.2, gen := g.1 }

/-- The operation record of a floating-point form whose operands all have one width. -/
def aluF (f : FFmt) (acc useB : Bool) (fn : LaneIn → LaneOut) : Alu :=
  { wa := f == f64, wb := f == f64, wd := f == f64, acc := acc, useB := useB, fn := fn }

/-- a + b, a − b, a × b and a × b + d (R240). -/
def opAdd (f : FFmt) (rm : Rm) (i : LaneIn) : Fl × List Fl :=
  let a := flOf f i.a; let b := flOf f i.b; (a.add rm b, [a, b])
def opSub (f : FFmt) (rm : Rm) (i : LaneIn) : Fl × List Fl :=
  let a := flOf f i.a; let b := flOf f i.b; (a.add rm b.neg, [a, b])
def opMul (f : FFmt) (_ : Rm) (i : LaneIn) : Fl × List Fl :=
  let a := flOf f i.a; let b := flOf f i.b; (a.mul b, [a, b])
def opFma (f : FFmt) (rm : Rm) (i : LaneIn) : Fl × List Fl :=
  let a := flOf f i.a; let b := flOf f i.b; let d := flOf f i.c; ((a.mul b).add rm d, [a, b, d])

/-- An arithmetic instruction of R240. -/
def execFArith (c : Class) (f : FFmt) (acc : Bool) (op : FFmt → Rm → LaneIn → Fl × List Fl) (d : BitVec 7) (w : BitVec 1)
    (a b : BitVec 8) (s : State) : Res :=
  let rm := rmOf (litRm s.lead)
  let x := aluF f acc true (fnRound f rm (op f rm))
  let y : Fields := { d, w, a, b }
  onThreads s c .yes (((4, acc && w = 1) :: rmChecks s.lead) ++ aluChecks s x y true)
    (residueChecked s.issue.core (aluBody x y))

/-- The lesser or greater operand (R242). -/
def fnPick (f : FFmt) (greater : Bool) (x y : DWord) (gen : Word) : LaneOut :=
  { x := BitVec.ofNat 64 (f.round .rn 0 ((flOf f x).pick greater (flOf f y))), gen := gen }

/-- FMIN and FMAX of format R (R242). -/
def execFPick (f : FFmt) (greater : Bool) (d : BitVec 7) (w : BitVec 1) (a b : BitVec 8) (s : State) : Res :=
  execAlu .base (aluF f false true fun i => fnPick f greater i.a i.b i.gen) { d, w, a, b } [] false s

/-- FADD.f32 (R240). -/
def execFaddF32 (d : BitVec 7) (w : BitVec 1) (a b : BitVec 8) (s : State) : Res :=
  execFArith .base f32 false opAdd d w a b s

/-- FSUB.f32 (R240). -/
def execFsubF32 (d : BitVec 7) (w : BitVec 1) (a b : BitVec 8) (s : State) : Res :=
  execFArith .base f32 false opSub d w a b s

/-- FMUL.f32 (R240). -/
def execFmulF32 (d : BitVec 7) (w : BitVec 1) (a b : BitVec 8) (s : State) : Res :=
  execFArith .base f32 false opMul d w a b s

/-- FMA.f32 (R240). -/
def execFmaF32 (d : BitVec 7) (w : BitVec 1) (a b : BitVec 8) (s : State) : Res :=
  execFArith .base f32 true opFma d w a b s

/-- FADD.f16 (R240). -/
def execFaddF16 (d : BitVec 7) (w : BitVec 1) (a b : BitVec 8) (s : State) : Res :=
  execFArith .base f16 false opAdd d w a b s

/-- FMUL.f16 (R240). -/
def execFmulF16 (d : BitVec 7) (w : BitVec 1) (a b : BitVec 8) (s : State) : Res :=
  execFArith .base f16 false opMul d w a b s

/-- FMA.f16 (R240). -/
def execFmaF16 (d : BitVec 7) (w : BitVec 1) (a b : BitVec 8) (s : State) : Res :=
  execFArith .base f16 true opFma d w a b s

/-- FADD.bf16 (R240). -/
def execFaddBf16 (d : BitVec 7) (w : BitVec 1) (a b : BitVec 8) (s : State) : Res :=
  execFArith .base bf16 false opAdd d w a b s

/-- FMUL.bf16 (R240). -/
def execFmulBf16 (d : BitVec 7) (w : BitVec 1) (a b : BitVec 8) (s : State) : Res :=
  execFArith .base bf16 false opMul d w a b s

/-- FMA.bf16 (R240). -/
def execFmaBf16 (d : BitVec 7) (w : BitVec 1) (a b : BitVec 8) (s : State) : Res :=
  execFArith .base bf16 true opFma d w a b s

/-- FADD.f64 (R240). -/
def execFaddF64 (d : BitVec 7) (w : BitVec 1) (a b : BitVec 8) (s : State) : Res :=
  execFArith .double f64 false opAdd d w a b s

/-- FSUB.f64 (R240). -/
def execFsubF64 (d : BitVec 7) (w : BitVec 1) (a b : BitVec 8) (s : State) : Res :=
  execFArith .double f64 false opSub d w a b s

/-- FMUL.f64 (R240). -/
def execFmulF64 (d : BitVec 7) (w : BitVec 1) (a b : BitVec 8) (s : State) : Res :=
  execFArith .double f64 false opMul d w a b s

/-- FMA.f64 (R240). -/
def execFmaF64 (d : BitVec 7) (w : BitVec 1) (a b : BitVec 8) (s : State) : Res :=
  execFArith .double f64 true opFma d w a b s

/-- FMIN.f32 (R240, R242). -/
def execFminF32 (d : BitVec 7) (w : BitVec 1) (a b : BitVec 8) (s : State) : Res := execFPick f32 false d w a b s

/-- FMAX.f32 (R240, R242). -/
def execFmaxF32 (d : BitVec 7) (w : BitVec 1) (a b : BitVec 8) (s : State) : Res := execFPick f32 true d w a b s

/-! ## FMOD -/

/-- The format of a type field: 0 f32, 1 f16, 2 bf16 (R241, R244). -/
def fmtOf (t : Nat) : FFmt := if t = 1 then f16 else if t = 2 then bf16 else f32

/-- An operation of FMOD in one format (R241). -/
def execFmodIn (c : Class) (f : FFmt) (reads lit : Bool) (fn : LaneIn → LaneOut) (d : BitVec 7) (w : BitVec 1)
    (a : BitVec 8) (more : List (Nat × Bool)) (s : State) : Res :=
  execAlu c (aluF f reads false fn) { d, w, a } ((4, reads && w = 1) :: more) lit s

/-- FMOD of op FSUB: round(rm, d − a) (R241), on the vector FMA units, whose results are checked (R456). -/
def execFmodFsub (d : BitVec 7) (w : BitVec 1) (a : BitVec 8) (t : BitVec 2) (s : State) : Res :=
  let f := fmtOf t.toNat
  let rm := rmOf (litRm s.lead)
  let op := aluF f true false (fnRound f rm fun i =>
    let x := flOf f i.c; let y := flOf f i.a; (x.add rm y.neg, [x, y]))
  let y : Fields := { d, w, a }
  onThreads s .base .yes (((4, decide (w = 1)) :: (3, decide (t = 0) || decide (t = 3)) :: rmChecks s.lead) ++ aluChecks s op y true)
    (residueChecked s.issue.core (aluBody op y))

/-- FMOD of op FMIN or FMAX in f16 and bf16 (R241). -/
def execFmodPick (greater : Bool) (d : BitVec 7) (w : BitVec 1) (a : BitVec 8) (t : BitVec 2) (s : State) : Res :=
  let f := fmtOf t.toNat
  execFmodIn .base f true false (fun i => fnPick f greater i.c i.a i.gen) d w a [(3, t = 0 || t = 3)] s

def execFmodFmin (d : BitVec 7) (w : BitVec 1) (a : BitVec 8) (t : BitVec 2) (s : State) : Res :=
  execFmodPick false d w a t s
def execFmodFmax (d : BitVec 7) (w : BitVec 1) (a : BitVec 8) (t : BitVec 2) (s : State) : Res :=
  execFmodPick true d w a t s

/-- The magnitude of one pattern with a sign, or the canonical NaN (R241). -/
def withSign (f : FFmt) (mag : DWord) (neg : Bool) : DWord :=
  let x := mag.toNat % 2 ^ f.width
  BitVec.ofNat 64 (if (f.decode x).isNan then f.nan else f.sign neg + x % 2 ^ (f.width - 1))

/-- The sign bit of a pattern. -/
def signOf (f : FFmt) (x : DWord) : Bool := bitNat x.toNat (f.width - 1)

/-- FABS, FNEG and FCPS as lane functions (R241). -/
def fnAbs (f : FFmt) (i : LaneIn) : LaneOut := { x := withSign f i.a false, gen := i.gen }
def fnNeg (f : FFmt) (i : LaneIn) : LaneOut := { x := withSign f i.a (!signOf f i.a), gen := i.gen }
def fnCps (f : FFmt) (i : LaneIn) : LaneOut := { x := withSign f i.c (signOf f i.a), gen := i.gen }


/-- FABS of f32, f16 and bf16 (R241). -/
def execFabs (d : BitVec 7) (w : BitVec 1) (a : BitVec 8) (t : BitVec 2) (s : State) : Res :=
  execFmodIn .base (fmtOf t.toNat) false false (fnAbs (fmtOf t.toNat)) d w a [(3, t = 3)] s

/-- FABS.f64 (R241). -/
def execFabsF64 (d : BitVec 7) (w : BitVec 1) (a : BitVec 8) (s : State) : Res :=
  execFmodIn .double f64 false false (fnAbs f64) d w a [] s

/-- FNEG of f32, f16 and bf16 (R241). -/
def execFneg (d : BitVec 7) (w : BitVec 1) (a : BitVec 8) (t : BitVec 2) (s : State) : Res :=
  execFmodIn .base (fmtOf t.toNat) false false (fnNeg (fmtOf t.toNat)) d w a [(3, t = 3)] s

/-- FNEG.f64 (R241). -/
def execFnegF64 (d : BitVec 7) (w : BitVec 1) (a : BitVec 8) (s : State) : Res :=
  execFmodIn .double f64 false false (fnNeg f64) d w a [] s

/-- FCPS of f32, f16 and bf16 (R241). -/
def execFcps (d : BitVec 7) (w : BitVec 1) (a : BitVec 8) (t : BitVec 2) (s : State) : Res :=
  execFmodIn .base (fmtOf t.toNat) true false (fnCps (fmtOf t.toNat)) d w a [(3, t = 3)] s

/-- FCPS.f64 (R241). -/
def execFcpsF64 (d : BitVec 7) (w : BitVec 1) (a : BitVec 8) (s : State) : Res :=
  execFmodIn .double f64 true false (fnCps f64) d w a [] s

/-- FMIN.f64 (R241, R242). -/
def execFminF64 (d : BitVec 7) (w : BitVec 1) (a : BitVec 8) (s : State) : Res :=
  execFmodIn .double f64 true false (fun i => fnPick f64 false i.c i.a i.gen) d w a [] s

/-- FMAX.f64 (R241, R242). -/
def execFmaxF64 (d : BitVec 7) (w : BitVec 1) (a : BitVec 8) (s : State) : Res :=
  execFmodIn .double f64 true false (fun i => fnPick f64 true i.c i.a i.gen) d w a [] s

/-! ## FCMP -/

/-- The relation of a CC over floating-point operands (R243). -/
def relF (f : FFmt) (cc : BitVec 2) (a b : DWord) : Bool :=
  let x := flOf f a
  let y := flOf f b
  if x.isNan || y.isNan then cc == 1
  else match cc.toNat with
    | 0 => x.cmp y == 0
    | 1 => x.cmp y != 0
    | 2 => x.cmp y == -1
    | _ => x.cmp y != 1

/-- FCMP.f32 (R243). -/
def execFcmpF32 (p : BitVec 6) (c : BitVec 2) (a b : BitVec 8) (s : State) : Res :=
  execCompare .base p c a (some b) 0 false false false [] (relF f32 c) s

/-- FCMP.h: FP16, or BF16 where a LIT has bit 0 set (R243). -/
def execFcmpH (p : BitVec 6) (c : BitVec 2) (a b : BitVec 8) (s : State) : Res :=
  let bf := (s.lead.lit.map fun l => l.getLsbD 0).getD false
  execCompare .base p c a (some b) 0 false false true [(3, litAbove s.lead 1 != 0)] (relF (if bf then bf16 else f16) c) s

/-- FCMP.f64 (R243). -/
def execFcmpF64 (p : BitVec 6) (c : BitVec 2) (a b : BitVec 8) (s : State) : Res :=
  execCompare .double p c a (some b) 0 true false false [] (relF f64 c) s

/-! ## Approximations -/

/-- An approximation in a format (R244, R245): the 16-bit types through FP32. -/
def fnApprox (f : FFmt) (op : FunOp) (i : LaneIn) : LaneOut :=
  let a := flOf f i.a
  let y := if f = f64 then f64.decode (op.run f64 (i.a.toNat % 2 ^ 64))
    else f32.decode (op.run f32 (f32.round .rn 0 a))
  { x := BitVec.ofNat 64 (f.round .rn 0 y), flags := invFlag y [a], gen := i.gen }

/-- FUN of an operation that takes no RM (R244). -/
def execFun (op : FunOp) (d : BitVec 7) (w : BitVec 1) (a : BitVec 8) (t : BitVec 2) (s : State) : Res :=
  execAlu .base (aluF (fmtOf t.toNat) false false (fnApprox (fmtOf t.toNat) op)) { d, w, a } [(3, t = 3)] false s

/-- SQRT in a format, correctly rounded (R244, R245). -/
def execSqrtIn (c : Class) (f : FFmt) (d : BitVec 7) (w : BitVec 1) (a : BitVec 8) (more : List (Nat × Bool)) (s : State) :
    Res :=
  let rm := rmOf (litRm s.lead)
  execAlu c (aluF f false false (fnRound f rm fun i => ((flOf f i.a).sqrt f, [flOf f i.a]))) { d, w, a }
    (more ++ rmChecks s.lead) true s

/-- RCP (R244 to R246). -/
def execRcp (d : BitVec 7) (w : BitVec 1) (a : BitVec 8) (t : BitVec 2) (s : State) : Res := execFun .rcp d w a t s

/-- RSQ (R244 to R246). -/
def execRsq (d : BitVec 7) (w : BitVec 1) (a : BitVec 8) (t : BitVec 2) (s : State) : Res := execFun .rsq d w a t s

/-- EX2 (R244 to R246). -/
def execEx2 (d : BitVec 7) (w : BitVec 1) (a : BitVec 8) (t : BitVec 2) (s : State) : Res := execFun .ex2 d w a t s

/-- LG2 (R244 to R246). -/
def execLg2 (d : BitVec 7) (w : BitVec 1) (a : BitVec 8) (t : BitVec 2) (s : State) : Res := execFun .lg2 d w a t s

/-- SIN (R244 to R246). -/
def execSin (d : BitVec 7) (w : BitVec 1) (a : BitVec 8) (t : BitVec 2) (s : State) : Res := execFun .sin d w a t s

/-- COS (R244 to R246). -/
def execCos (d : BitVec 7) (w : BitVec 1) (a : BitVec 8) (t : BitVec 2) (s : State) : Res := execFun .cos d w a t s

/-- TANH (R244 to R246). -/
def execTanh (d : BitVec 7) (w : BitVec 1) (a : BitVec 8) (t : BitVec 2) (s : State) : Res := execFun .tanh d w a t s

/-- SQRT (R244, R245). -/
def execSqrt (d : BitVec 7) (w : BitVec 1) (a : BitVec 8) (t : BitVec 2) (s : State) : Res :=
  execSqrtIn .base (fmtOf t.toNat) d w a [(3, t = 3)] s

/-- RCP.f64, RSQ.f64 (R244, R245). -/
def execRcpF64 (d : BitVec 7) (w : BitVec 1) (a : BitVec 8) (s : State) : Res :=
  execAlu .double (aluF f64 false false (fnApprox f64 .rcp)) { d, w, a } [] false s
def execRsqF64 (d : BitVec 7) (w : BitVec 1) (a : BitVec 8) (s : State) : Res :=
  execAlu .double (aluF f64 false false (fnApprox f64 .rsq)) { d, w, a } [] false s

/-- SQRT.f64 (R244, R245). -/
def execSqrtF64 (d : BitVec 7) (w : BitVec 1) (a : BitVec 8) (s : State) : Res := execSqrtIn .double f64 d w a [] s

/-! ## Conversions -/

/-- A value of one of the types 0 f32, 1 f16, 2 bf16, 3 i32, 4 n32, 5 i64, 6 n64, 7 f64 (R247). -/
def valueOf (t : Nat) (x : DWord) : Fl :=
  match t with
  | 3 => flOfInt (lowInt x) 0 false
  | 4 => flOfInt ((x.toNat % 2 ^ 32 : Nat) : Int) 0 false
  | 5 => flOfInt x.toInt 0 false
  | 6 => flOfInt (x.toNat : Int) 0 false
  | 7 => flOf f64 x
  | t => flOf (fmtOf t) x

/-- A type of R247 is 64 bits wide. -/
def typeWide (t : Nat) : Bool := t == 5 || t == 6 || t == 7

/-- A value rounded to an integral value (R248). -/
def Fl.integral (prec : Nat) (rm : Rm) (x : Nat) : Fl → Fl
  | .fin neg m e =>
    if prec ≤ (natLen m : Int) + e then .fin neg m e else .fin neg (roundUnits rm x neg m e 0) 0
  | v => v

/-- A conversion to a floating type (R247, R248): `same` rounds to an integral value. -/
def fnToFloat (f : FFmt) (same : Bool) (src : Nat) (rm : Rm) (i : LaneIn) : LaneOut :=
  let g := drawFor rm i.gen
  let v := valueOf src i.a
  let x := if same then f.round .rn 0 (v.integral f.prec rm g.2) else f.round rm g.2 v
  { x := BitVec.ofNat 64 x, gen := g.1 }

/-- Range of an integer destination: 0 i32, 1 n32, 2 i64, 3 n64, 4 i8, 5 n8, 6 i16, 7 n16 (R249). -/
def intRange : Nat → Int × Int
  | 0 => (minI32, maxI32)
  | 1 => (0, 2 ^ 32 - 1)
  | 2 => (-(2 ^ 63), 2 ^ 63 - 1)
  | 3 => (0, 2 ^ 64 - 1)
  | 4 => (-128, 127)
  | 5 => (0, 255)
  | 6 => (-32768, 32767)
  | _ => (0, 65535)

/-- A value converted to an integer type (R58, R249): the result and INV. -/
def toInteger (dst : Nat) (rm : Rm) (x : Nat) (v : Fl) : Int × Bool :=
  let r := intRange dst
  match v with
  | .nan => (0, true)
  | .inf neg => (if neg then r.1 else r.2, true)
  | .fin neg m e =>
    let u : Int := roundUnits rm x neg m e 0
    let y := if neg then -u else u
    (clampInt r.1 r.2 y, decide (y < r.1) || decide (r.2 < y))

/-- A conversion to an integer type, exact in the latch (R204, R247, R249). -/
def fnToInt (src : FFmt) (dst : Nat) (rm : Rm) (i : LaneIn) : LaneOut :=
  let g := drawFor rm i.gen
  let y := toInteger dst rm g.2 (flOf src i.a)
  { x := toDWord y.1, flags := if y.2 then fInv else 0, gen := g.1 }

/-- CVT.f (R247, R248). -/
def execCvtF (d : BitVec 7) (w : BitVec 1) (a : BitVec 8) (r : BitVec 3) (e : BitVec 2) (src : BitVec 3) (s : State) : Res :=
  execAlu .base { wa := typeWide src.toNat, useB := false
                  fn := fnToFloat (fmtOf e.toNat) (src.toNat == e.toNat) src.toNat (rmOf r.toNat) } { d, w, a }
    [(3, e = 3 || src = 7), (9, decide (5 ≤ r.toNat))] false s

/-- CVT.i (R247, R249). -/
def execCvtI (d : BitVec 7) (w : BitVec 1) (a : BitVec 8) (r : BitVec 3) (src : BitVec 2) (e : BitVec 3) (s : State) : Res :=
  execAlu .base { wd := e == 2 || e == 3, useB := false, fn := fnToInt (fmtOf src.toNat) e.toNat (rmOf r.toNat) } { d, w, a }
    [(3, src = 3), (9, decide (5 ≤ r.toNat))] false s

/-- The integer types of R247 as destinations of R249. -/
def intDst (t : Nat) : Nat := t - 3

/-- CVT.f64 into FP64 (x = 0) or out of it (x = 1) (R247 to R249). -/
def execCvtF64 (d : BitVec 7) (w : BitVec 1) (a : BitVec 8) (r : BitVec 3) (x : BitVec 1) (t : BitVec 4) (s : State) : Res :=
  let n := t.toNat
  let rm := rmOf r.toNat
  let op : Alu :=
    if x = 0 then { wa := typeWide n, wd := true, useB := false, fn := fnToFloat f64 (n == 7) n rm }
    else if n < 3 then { wa := true, useB := false, fn := fnToFloat (fmtOf n) false 7 rm }
    else { wa := true, wd := typeWide n, useB := false, fn := fnToInt f64 (intDst n) rm }
  execAlu .double op { d, w, a } [(3, decide (8 ≤ n) || (x = 1 && n == 7)), (9, decide (5 ≤ r.toNat))] false s

/-! ## Narrow conversions -/

/-- The tensor-identifier fault of R50, for the enabled threads. -/
def tensorFault (s : State) (n : Nat) : State :=
  bundleTrap s s.enabled 0x0013 false fun _ => (0, [s.issue.word.setWidth 64, BitVec.ofNat 64 n])

/-- The tensor entry an instruction of a block names (R50): none for a bad identifier. -/
def tensorAt (s : State) (b n : Nat) : Option Tensor :=
  match (s.gridOf b).tensors[n]? with
  | some t => if t.etype = 255 then none else some t
  | none => none

/-- Flags of a narrow conversion (R66). -/
def nfFlags (sat nan : Bool) : BitVec 6 := (if sat then fNfsat else 0) ||| (if nan then fNfnan else 0)

/-- CVTN as a lane function (R251). -/
def fnCvtn (f : NFmt) (src : FFmt) (rm : Rm) (i : LaneIn) : LaneOut :=
  let g := drawFor rm i.gen
  let c := f.encode rm g.2 (flOf src i.a)
  { x := BitVec.ofNat 64 c.1, flags := nfFlags c.2.1 c.2.2, gen := g.1 }

/-- CVTNF as a lane function (R251). -/
def fnCvtnf (f : NFmt) (dst : FFmt) (rm : Rm) (i : LaneIn) : LaneOut :=
  let g := drawFor rm i.gen
  { x := BitVec.ofNat 64 (dst.round rm g.2 (f.decode (i.a.toNat % 2 ^ f.width))), gen := g.1 }

/-- CVTN and CVTNF (R250, R251): the format comes from the tensor entry, the type and the mode from the LIT. -/
def execNarrow (fn : NFmt → FFmt → Rm → LaneIn → LaneOut) (d : BitVec 7) (w : BitVec 1) (a i : BitVec 8) (s : State) :
    Res :=
  let t := s.lead
  let ty := litAbove t 3 % 4
  onThreads s .narrow .yes ([(3, litAbove t 5 != 0 || ty == 3), (9, decide (5 ≤ litRm t))] ++ dstChecks s d w false ++
      srcChecks s a false ++ hintChecks t true false false) fun s =>
    if s.enabled.isEmpty then advanceAll s (w = 1) fun _ => some { value := 0, iv := .full }
    else match tensorAt s (s.group s.leadGroup).blk i.toNat with
    | none => tensorFault s i.toNat
    | some ent =>
      if ent.etype ≠ 12 then tensorFault s i.toNat
      else aluBody { useB := false, fn := fn (nfOf ent.fmt) (fmtOf ty) (rmOf (litRm t)) } { d, w, a } s

def execCvtn (d : BitVec 7) (w : BitVec 1) (a i : BitVec 8) (s : State) : Res := execNarrow fnCvtn d w a i s
def execCvtnf (d : BitVec 7) (w : BitVec 1) (a i : BitVec 8) (s : State) : Res := execNarrow fnCvtnf d w a i s

/-! ## Packed ternary -/

/-- Byte K of a source (R252). -/
def byteOf (x : DWord) (k : Nat) : Nat := bitsNat x.toNat (8 * k + 7) (8 * k)

/-- The five elements of a code as bytes (R252). -/
def ternBytes (b : Nat) : DWord :=
  BitVec.ofNat 64 ((List.range 5).foldl (fun n j => n + wrapNat 8 (ternElem b j) * 256 ^ j) 0)

/-- TUNP as a lane function (R252). -/
def fnTunp (k : Nat) (i : LaneIn) : LaneOut :=
  let b := byteOf i.a k
  { x := ternBytes b, flags := if 243 ≤ b then fTernbad else 0, gen := i.gen }

/-- The operation record of TUNP. -/
def aluTunp (k : Nat) : Alu := { wd := true, useB := false, fn := fnTunp k }

/-- Enabled lanes whose code traps in an element (R252). -/
def ternBad (s : State) (k : Nat) (f : Fields) : List Nat :=
  s.enabled.filter fun m => 243 ≤ byteOf (srcValue s m (s.thread m) false (codeOf f.a)) k

/-- The elements of a TUNP in trap mode: the first with an offending lane raises the ternary-code trap (R155, R252). -/
def tunpElems (k : Nat) (fs : List Fields) (s : State) : State × Bool :=
  fs.foldl (fun r f =>
    if r.2 then r
    else match ternBad r.1 k f with
    | [] => (elemStep r.1 (aluTunp k) f, false)
    | ks => (bundleTrap r.1 ks 0x0015 true fun g =>
        let m := (ks.filter fun x => grpOf x == g).headD 0
        (0, [r.1.issue.word.setWidth 64, BitVec.ofNat 64 k,
             BitVec.ofNat 64 (byteOf (srcValue r.1 m (r.1.thread m) false (codeOf f.a)) k)]), true)) (s, false)

/-- TUNP (R252). -/
def execTunp (d : BitVec 7) (w : BitVec 1) (a : BitVec 8) (m : BitVec 1) (k : BitVec 2) (s : State) : Res :=
  let f : Fields := { d, w, a }
  let op := aluTunp k.toNat
  if m = 0 then execAlu .ternary op f [] false s
  else onThreads s .ternary .yes (aluChecks s op f false) fun s =>
    match s.lead.hints.bind (·.blk) with
    | none =>
      let r := tunpElems k.toNat [f] s
      if r.2 then r.1 else advanceAll r.1 (w = 1) (latchOf s op f)
    | some h =>
      let r := tunpElems k.toNat (blkRun (blkOf h) op f) s
      if r.2 then r.1 else advanceNone r.1

/-- TDOT as a lane function (R253). -/
def fnTdot (i : LaneIn) : LaneOut :=
  let b0 := byteOf i.a 0
  let sum := (List.range 5).foldl (fun n j => n + ternElem b0 j * sextNat (byteOf i.b j) 8) (lowInt i.c)
  { x := (toWord sum).setWidth 64, flags := if 243 ≤ b0 then fTernbad else 0, gen := i.gen }

/-- TDOT (R253). -/
def execTdot (d : BitVec 7) (w : BitVec 1) (a b : BitVec 8) (s : State) : Res :=
  execAlu .ternary { wb := true, acc := true, fn := fnTdot } { d, w, a, b } [(4, w = 1)] false s

/-! ## SEED and FSRD -/

/-- SEED (R254). -/
def execSeed (a : BitVec 8) (s : State) : Res :=
  onThreads s .base .yes (srcChecks s a false ++ hintChecks s.lead false false false) fun s =>
    let plant := fun (k : Nat) (t : Thread) =>
      if t.enabled then
        let x : Word := (srcValue s k t false (codeOf a)).setWidth 32
        { t with gen := if x = 0 then 1 else x }
      else t
    let s1 := { s with threads := tabOver s.threads s.members plant }
    advanceNone (useSources s1 [(a, false)])

/-- SEED.rd (R254). -/
def execSeedRd (d : BitVec 7) (w : BitVec 1) (s : State) : Res :=
  onThreads s .base .yes (dstChecks s d w false ++ hintChecks s.lead false false false) fun s =>
    giveResult s d w false (fun _ t => t.gen.setWidth 64) .full

/-- Instructions that a group has issued and that have not completed (R255): loads, atomics, writes (R277), bank commands (R357),
a matrix command. DEDUCED (log 79), unsafe. -/
def inFlight (s : State) (g : Nat) : Bool :=
  let x := s.group g
  !x.loads.isEmpty || !x.atomics.isEmpty || x.nGather != 0 || x.nBank != 0 || x.mma.isSome

/-- FSRD (R255): it waits for the group's earlier instructions. -/
def execFsrd (d : BitVec 7) (w : BitVec 1) (s : State) : Res :=
  onThreads s .base .yes (dstChecks s d w false ++ hintChecks s.lead false false false) fun s =>
    if (s.enabled.map grpOf).any (inFlight s) then s
    else giveResult s d w false (fun k _ => (s.group (grpOf k)).fstat.setWidth 64) .full

/-- The mask of FSRD.clr for a group: the OR over its enabled lanes, bits [5:0] (R255). -/
def clearMask (s : State) (a : BitVec 8) (g : Nat) : Word :=
  (s.enabled.filter fun k => grpOf k == g).foldl
    (fun m k => m ||| ((srcValue s k (s.thread k) false (codeOf a)).setWidth 32 &&& 63)) 0

/-- FSRD.clr (R255). -/
def execFsrdClr (d : BitVec 7) (w : BitVec 1) (a : BitVec 8) (s : State) : Res :=
  onThreads s .base .yes (dstChecks s d w false ++ srcChecks s a false ++
      hintChecks s.lead false false false) fun s =>
    if (s.enabled.map grpOf).any (inFlight s) then s
    else
      let s1 := overGroups s s.enabled fun g x => { x with fstat := x.fstat &&& ~~~clearMask s a g }
      giveResult (useSources s1 [(a, false)]) d w false (fun k _ => (s.group (grpOf k)).fstat.setWidth 64) .full

end Sys2Proof.Machine
end

