-- ==== Sys2Proof/Machine/Banks.lean ====
section
/-! DEFINITION. The banks of the stacks: where a granule lies (R345), the units and their queues (R349, R357), what each
operation does (R360 to R367), and the order between a thread's bank commands and its own accesses (R358). -/

namespace Sys2Proof.Machine

/-! ## Places in a stack -/

/-- Stack of an HBM physical address (R120, R345). -/
def stackOf (pa : Nat) : Nat := pa / 2 ^ 36

/-- Global pseudo-channel of an HBM physical address (R345, R350): the stack's layer map gives the layer of its slot. -/
def pcOf (m : Mgmt) (pa : Nat) : Nat :=
  let st := m.hbm.getD (stackOf pa) {}
  64 * stackOf pa + 4 * st.laymap.getD (bitsNat pa 35 32) 0 + bitsNat pa 15 14

/-- Global bank number of an HBM physical address (R345). -/
def bankOfAddr (m : Mgmt) (pa : Nat) : Nat := 16 * pcOf m pa + bitsNat pa 13 10

/-- A bank unit (R349). -/
def State.bank (s : State) (b : Nat) : Bank := tabGetD s.banks b {}

/-- z(k) of a bank: 16 lanes. -/
def Bank.zReg (x : Bank) (k : Nat) : List Word := tabGetD x.z k (List.replicate 16 0)
/-- w(i) of a bank: 16 elements. -/
def Bank.wReg (x : Bank) (i : Nat) : List Half := tabGetD x.w i (List.replicate 16 0)

/-- A bank with a z set; a register of zeros is not listed. -/
def Bank.putZ (x : Bank) (k : Nat) (v : List Word) : Bank :=
  { x with z := if v = List.replicate 16 0 then tabDrop x.z k else tabSet x.z k v }
/-- A bank with a w set. -/
def Bank.putW (x : Bank) (i : Nat) (v : List Half) : Bank :=
  { x with w := if v = List.replicate 16 0 then tabDrop x.w i else tabSet x.w i v }

/-! ## The units -/

/-- Reads a granule as 16 half-words through the ECC (R360): a correctable error is corrected and reported (R454); a poisoned
granule delivers the canonical NaN in every element, with an event. -/
def readGranule (s : State) (bf : Bool) (pa : Nat) : State × List Half :=
  if (poisonAt s pa 32).isSome then
    (sendEvent s 0x0010 0xFF 0xFF (BitVec.ofNat 64 pa) 0 0,
     List.replicate 16 (BitVec.ofNat 16 (if bf then bf16.nan else f16.nan)))
  else (demand s pa 32, (List.range 16).map fun i => BitVec.ofNat 16 (bytesAt s.mem (pa + 2 * i) 2))

/-- Writes a granule whole, with fresh ECC (R360). -/
def writeGranule (s : State) (pa v : Nat) : State :=
  let s1 := clearPoison (s.store pa 32 v) pa 32
  { s1 with weak := s1.weak.filter (· != pa) }

/-- One product added to a lane (R361). -/
def bankMac (bf : Bool) (z : Word) (x g : Half) : Word :=
  let f := if bf then bf16 else f16
  let p := (f.decode x.toNat).mul (f.decode g.toNat)
  BitVec.ofNat 32 (f32.round .rn 0 ((f32.decode z.toNat).add .rn p))

/-- Numbers of a width packed from the low end. -/
def packWidth (w : Nat) (l : List Nat) : Nat := l.foldr (fun x n => x + 2 ^ w * n) 0

/-- A bank executes one operation (R361 to R367). -/
def runBankOp (s : State) (b : Nat) (bf : Bool) (op : BankOp) : State :=
  let x := s.bank b
  let put := fun (s : State) (y : Bank) => { s with banks := tabSet s.banks b y }
  match op with
  | .bc w elems => put s (x.putW w elems)
  | .ldw w pa => let r := readGranule s bf pa; put r.1 (x.putW w r.2)
  | .mac k w pa scalar zc =>
    let r := readGranule s bf pa
    let ws := x.wReg w
    let base := if zc then List.replicate 16 0 else x.zReg k
    let z := (List.range 16).map fun i =>
      bankMac bf (base.getD i 0) (match scalar with | some j => ws.getD j 0 | none => ws.getD i 0) (r.2.getD i 0)
    put r.1 (x.putZ k z)
  | .rd k pa part clr =>
    let z := x.zReg k
    let f := if bf then bf16 else f16
    let v := match part with
      | .low => packWidth 32 ((z.take 8).map (·.toNat))
      | .high => packWidth 32 ((z.drop 8).map (·.toNat))
      | .halves => packWidth 16 (z.map fun w => f.round .rn 0 (f32.decode w.toNat) % 2 ^ 16)
    let s1 := writeGranule s pa v
    if clr then put s1 (x.putZ k (List.replicate 16 0)) else s1
  | .clr zm wm =>
    let y := (List.range 8).foldl (fun (y : Bank) i => if zm.getLsbD i then y.putZ i (List.replicate 16 0) else y) x
    put s ((List.range 8).foldl (fun (y : Bank) i => if wm.getLsbD i then y.putW i (List.replicate 16 0) else y) y)

/-- Counts one executed command of a bundle, and completes bundles in issue order (R357). -/
def countBank (l : List (Nat × Nat)) (tag : Nat) : List (Nat × Nat) :=
  (l.map fun e => if e.1 == tag then (e.1, e.2 - 1) else e).dropWhile fun e => e.2 == 0

/-- The group, or the Hatstand entry after its retirement (R450), that counts a command. -/
def completeBank (s : State) (g tag : Nat) : State :=
  let c := coreOfG g
  let core := s.core c
  let isHat := fun h : Hat => h.slot == slotOfG g && h.bankOut.any fun e => e.1 == tag
  let hat := fun h : Hat =>
    let l := countBank h.bankOut tag
    if isHat h then { h with bankOut := l, nbank := l.length } else h
  if core.hats.any isHat then
    s.setCore c { core with hats := (core.hats.map hat).filter fun h => h.copy + h.matrix + h.gather + h.nbank != 0 }
  else s.modGroup g fun x => let l := countBank x.bankOut tag; { x with bankOut := l, nBank := l.length }

/-- Executes the oldest command of a bank. -/
def bankNext (s : State) (b : Nat) : State :=
  let x := s.bank b
  match x.queue with
  | [] => s
  | c :: rest =>
    completeBank (runBankOp { s with banks := tabSet s.banks b { x with queue := rest } } b c.bf c.op) c.grp c.tag

/-- The die beside a bank's stack (R20). -/
def dieOfBank (b : Nat) : Nat := b / 2048

/-- Counts a bank command where the bank has one to execute (R468). -/
def countBankCommand (s : State) (b : Nat) : State :=
  if (s.bank b).queue.isEmpty then s else countDie s (dieOfBank b) 0x49 1

/-! ## A thread's own accesses -/

/-- The commands of a group in a bank's queue, with those before them, execute. -/
def settleBank (s : State) (b g : Nat) : State :=
  (s.bank b).queue.foldl (fun s _ =>
    if (s.bank b).queue.any fun c => c.grp == g then bankNext (countBankCommand s b) b else s) s

/-- Before a thread of a group accesses bytes at physical addresses, the group's earlier commands in their banks have
executed (R358): its loads see what its NBRD wrote, and no later store reaches an earlier command. -/
def settleOwn (s : State) (l : List (Nat × Nat)) : State :=
  l.foldl (fun s e => if physRegion s.mgmt e.2 == .hbm then settleBank s (bankOfAddr s.mgmt e.2) e.1 else s) s

end Sys2Proof.Machine
end

