-- ==== Sys2Proof/Machine/Order.lean ====
section
/-! DEFINITION. Happens-before (R369 to R377) kept as clocks, and race detection on checked pages (R382, R384 to R386). -/

namespace Sys2Proof.Machine

/-! ## Clocks and views -/

/-- Linear index of a thread for the memory model: the handler context is a thread of the trapped block beside the block's own
(R416). DESIGN CHOICE (log 63), unsafe. -/
def linOf (s : State) (k : Nat) : Nat := if isHandler (grpOf k) then 1024 else (s.thread k).lin

/-- Identity of a thread: grid, `%block`, linear index (R384). -/
def idOf (gid blk lin : Nat) : Nat := (gid * 2 ^ 32 + blk) * 2048 + lin

/-- Identity of a thread (R384). -/
def tidOf (s : State) (k : Nat) : Nat :=
  let b := s.blockOf (grpOf k)
  idOf b.gid b.num.toNat (linOf s k)

/-- The instance of a scope number that contains a thread (R371, R387). -/
def instOf (s : State) (k sc : Nat) : Inst :=
  let b := s.blockOf (grpOf k)
  match sc with
  | 0 => .thread (tidOf s k)
  | 1 => .block b.gid b.num.toNat
  | 2 => match b.cluster with | some c => .cluster b.gid c | none => .block b.gid b.num.toNat
  | 3 => .die (Config.dieOfCore (coreOfG (grpOf k)))
  | 4 => .package
  | _ => .fabric

/-- What a thread has seen at an instance. -/
def lookSeen (l : List Seen) (i : Inst) (t : Nat) : View :=
  match l.find? fun x => x.inst = i && x.tid == t with
  | some x => x.view
  | none => []

/-- Sets what a thread has seen at an instance. -/
def putSeen (l : List Seen) (i : Inst) (t : Nat) (v : View) : List Seen :=
  { inst := i, tid := t, view := v } :: l.filter fun x => !(x.inst = i && x.tid == t)

/-- A thread's own clock. -/
def Order.clock (o : Order) (t : Nat) : Nat := tabGetD o.clocks t 1

/-- What a release by a thread publishes at an instance: all it has seen there, what it has adopted, and itself (R374,
R377). -/
def Order.own (o : Order) (i : Inst) (t : Nat) : View :=
  joinView (joinView (lookSeen o.seen i t) (tabGetD o.adopted t [])) [(t, o.clock t)]

/-- All that happened-before what a thread does now, at whatever instance (R374, R377). -/
def Order.all (o : Order) (t : Nat) : View :=
  (o.seen.filter fun x => x.tid == t).foldl (fun v x => joinView v x.view)
    (joinView (tabGetD o.adopted t []) [(t, o.clock t)])

/-- A thread adopts what happened-before an operation, with the operation: it is ordered before the thread at every instance
(R377). -/
def Order.adopt (o : Order) (t : Nat) (v : View) : Order :=
  if v.isEmpty then o else { o with adopted := tabSet o.adopted t (joinView (tabGetD o.adopted t []) v) }

/-- A thread has released: its later accesses carry a later clock. -/
def Order.tick (o : Order) (t : Nat) : Order := { o with clocks := tabSet o.clocks t (o.clock t + 1) }

/-- A thread acquires a view at an instance (R373, R374). -/
def Order.acquire (o : Order) (i : Inst) (t : Nat) (v : View) : Order :=
  { o with seen := putSeen o.seen i t (joinView (lookSeen o.seen i t) v) }

/-- A release write (R372, R373). -/
def Order.releaseWrite (o : Order) (loc size : Nat) (i : Inst) (t : Nat) : Order :=
  { (o.tick t) with words := { loc, size, inst := i, view := o.own i t } :: o.without loc size }

/-- An acquire read: it takes what the bytes read released at the same instance (R373). -/
def Order.acquireRead (o : Order) (loc size : Nat) (i : Inst) (t : Nat) : Order :=
  match o.viewAt loc size i with
  | [] => o
  | v => o.acquire i t v

/-- An atomic's read part (R372, R375): an acquire, or a relaxed read that a later fence acquires. -/
def Order.atomicRead (o : Order) (loc size : Nat) (i : Inst) (t : Nat) (acq : Bool) : Order :=
  if acq then o.acquireRead loc size i t
  else match o.viewAt loc size i with
    | [] => o
    | v => { o with pending := putSeen o.pending i t (joinView (lookSeen o.pending i t) v) }

/-- An atomic's write part (R373, R375): it goes on with the chains it read from at the same instance, and adds its own
release, or that of an earlier fence. -/
def Order.atomicWrite (o : Order) (loc size : Nat) (i : Inst) (t : Nat) (rel : Bool) : Order :=
  let mine := if rel then o.own i t else lookSeen o.fenced i t
  let v := joinView (o.viewAt loc size i) mine
  let o1 := if rel then o.tick t else o
  { o1 with words := if v = [] then o.without loc size
                     else { loc, size, inst := i, view := v } :: o.without loc size }

/-- A FENCE at an instance (R375). -/
def Order.fence (o : Order) (i : Inst) (t : Nat) : Order :=
  let before := match o.fences.find? fun f => f.1 = i with | some f => f.2 | none => []
  let o1 := o.acquire i t (joinView before (lookSeen o.pending i t))
  let all := o1.own i t
  { (o1.tick t) with
    fenced := putSeen o1.fenced i t all
    fences := (i, all) :: o1.fences.filter fun f => !(f.1 = i) }

/-- What a set of threads releases at one instance; their clocks move on. -/
def Order.releaseAll (o : Order) (i : Inst) (ts : List Nat) : Order × View :=
  (ts.foldl Order.tick o, ts.foldl (fun v t => joinView v (o.own i t)) [])

/-- A set of threads acquires a view at one instance. -/
def Order.acquireAll (o : Order) (i : Inst) (ts : List Nat) (v : View) : Order :=
  ts.foldl (fun o t => o.acquire i t v) o

/-- Adds an operation to those that the WAITs of a group may adopt; beyond 64 of a class the two oldest become one, since a WAIT
leaves out at most the 63 counted last (R377). -/
def logOp (l : List Op) (x : Op) : List Op :=
  match l.filter fun y => y.cls = x.cls && (y.cls != .coll || y.tag == x.tag) with
  | a :: b :: rest =>
    if rest.length < 62 then l ++ [x]
    else (l.erase a).map (fun y => if y = b then { b with hb := joinView a.hb b.hb } else y) ++ [x]
  | _ => l ++ [x]

/-- Forgets the threads and accesses of a grid that has ended. -/
def Order.dropGrid (o : Order) (gid : Nat) : Order :=
  let mine := fun t : Nat => t / 2 ^ 43 == gid
  { o with clocks := tabKeep o.clocks fun t _ => !mine t
           adopted := tabKeep o.adopted fun t _ => !mine t
           words := o.words.filter fun w => !(decide (2 ^ 60 ≤ w.loc) && (w.loc - 2 ^ 60) / 2 ^ 52 == gid)
           seen := o.seen.filter fun x => !mine x.tid
           fenced := o.fenced.filter fun x => !mine x.tid
           pending := o.pending.filter fun x => !mine x.tid
           checked := o.checked.filter fun x => x.gid != gid }

/-! ## Races -/

/-- An access of a thread for the race check: thread, virtual and physical address, bytes, whether it writes, whether it
is an atomic (with its instance). -/
structure RaceAcc where
  k : Nat
  va : DWord
  pa : Nat
  size : Nat
  wrote : Bool
  atomic : Option Inst := none
  deriving DecidableEq, Repr

/-- Bytes of an access within its granule, as a mask. -/
def RaceAcc.bytes (a : RaceAcc) : Nat := (2 ^ a.size - 1) * 2 ^ (a.pa % 32)

/-- The access is checked: its leaf has CHK = 1 (R384). -/
def RaceAcc.isChecked (a : RaceAcc) (s : State) : Bool :=
  match walk s (s.asidOf (s.group (grpOf a.k)).blk) a.va.toNat with
  | .ok l => l.chk
  | .error _ => false

/-- Identity in a recorded access. -/
def Checked.tid (x : Checked) : Nat := idOf x.gid x.blk.toNat x.lin

/-- An earlier access happens-before whatever the thread does now (R374). -/
def Order.before (o : Order) (x : Checked) (t : Nat) : Bool :=
  x.tid == t || decide (x.clock ≤ tabGetD (tabGetD o.adopted t []) x.tid 0) ||
    o.seen.any fun e => e.tid == t && decide (x.clock ≤ tabGetD e.view x.tid 0)

/-- An instance contains a thread that runs in a block (R371). -/
def Inst.holds (i : Inst) (gid : Nat) (cluster : Option Nat) (blk lin core : Nat) : Bool :=
  match i with
  | .thread t => t == idOf gid blk lin
  | .block g b => g == gid && b == blk
  | .cluster g c => g == gid && cluster == some c
  | .die d => d == Config.dieOfCore core
  | .package => true
  | .fabric => true

/-- Both accesses are atomics at one instance that contains both agents (R382). -/
def bothAtomic (s : State) (x : Checked) (a : RaceAcc) : Bool :=
  match x.atomic, a.atomic with
  | some i, some j =>
    let b := s.blockOf (grpOf a.k)
    decide (i = j) && i.holds x.gid x.cluster x.blk.toNat x.lin x.core &&
      j.holds b.gid b.cluster b.num.toNat (linOf s a.k) (coreOfG (grpOf a.k))
  | _, _ => false

/-- An earlier access conflicts with an access and is not ordered before it (R382, R385). -/
def racesWith (s : State) (o : Order) (a : RaceAcc) (x : Checked) : Bool :=
  x.gran == a.pa / 32 && decide (((BitVec.ofNat 32 x.bytes) &&& (BitVec.ofNat 32 a.bytes)) ≠ 0) &&
    (x.wrote || a.wrote) && !bothAtomic s x a && !o.before x (tidOf s a.k)

/-- The device must report the race (R385): threads of one cluster or block, and a granule in a vault, or in a line that stayed in
its home L2. DEDUCED (log 29), safe. -/
def mustReport (s : State) (a : RaceAcc) (x : Checked) : Bool :=
  let b := s.blockOf (grpOf a.k)
  x.gid == b.gid && (match b.cluster with | some c => x.cluster == some c | none => x.blk == b.num) &&
    (physRegion s.mgmt a.pa != .hbm || Config.stayedInL2 s.fresh)

/-- The earlier accesses that an access races with, newest first (R385, R386). -/
def racesOf (s : State) (o : Order) (a : RaceAcc) : List Checked :=
  if a.isChecked s then o.checked.filter (racesWith s o a) else []

/-- The bundle's races are reported: some lane must report one, or the device does so although it need not (R385): a free value.
DEDUCED (log 62), safe. -/
def reportsRace (s : State) (o : Order) (as : List RaceAcc) : Bool :=
  as.any fun a => match racesOf s o a with
    | [] => false
    | xs => xs.any (mustReport s a) || Config.raceReported s.fresh

/-- The memory-model exception of a bundle (R386): the state with the trap taken for every lane whose access conflicts, or none.
`o` holds what the accesses themselves acquire. -/
def raceTrap (s : State) (o : Order) (as : List RaceAcc) : Option State :=
  if !reportsRace s o as then none
  else
    let bad := as.filter fun a => !(racesOf s o a).isEmpty
    some (bundleTrap { s with fresh := s.fresh + 1 } (bad.map (·.k)) 0x0060 true fun g =>
      match bad.find? fun a => grpOf a.k == g with
      | none => (0, [])
      | some a =>
        match racesOf s o a with
        | [] => (0, [])
        | x :: _ =>
          let who := x.blk.toNat + x.lin % 1024 * 2 ^ 32 + (if x.wrote then 2 ^ 42 else 0) + (if a.wrote then 2 ^ 43 else 0)
          (BitVec.ofNat 64 (a.va.toNat / 32 * 32),
           [s.issue.word.setWidth 64, BitVec.ofNat 64 who, BitVec.ofNat 64 x.core,
            ((BitVec.ofNat 32 x.bytes) &&& (BitVec.ofNat 32 a.bytes)).setWidth 64, x.rcount.setWidth 64]))

/-- Records one checked access (R384); it replaces an older one of the same thread that says the same. -/
def recordAccess (s : State) (a : RaceAcc) : State :=
  if !a.isChecked s then s
  else
    let b := s.blockOf (grpOf a.k)
    let t := s.thread a.k
    let x : Checked :=
      { gran := a.pa / 32, va := BitVec.ofNat 64 (a.va.toNat / 32 * 32), asid := s.asidOf (s.group (grpOf a.k)).blk
        gid := b.gid, cluster := b.cluster, blk := b.num, lin := linOf s a.k, core := coreOfG (grpOf a.k), bytes := a.bytes
        wrote := a.wrote, atomic := a.atomic, clock := s.order.clock (tidOf s a.k), rcount := t.rcount }
    { s with order := { s.order with checked := x :: s.order.checked.filter fun y =>
        !({ y with clock := 0, rcount := 0 } == { x with clock := 0, rcount := 0 }) } }

/-- Records the checked accesses of a bundle, in lane order; a bundle with one has used a free value. -/
def recordAll (s : State) (as : List RaceAcc) : State :=
  if as.any (·.isChecked s) then as.foldl recordAccess { s with fresh := s.fresh + 1 } else s

end Sys2Proof.Machine
end

