-- ==== Sys2Proof/Machine/Shadow.lean ====
section
/-! DEFINITION. Instructions on shadows and array registers (R194, R215 to R218). -/

namespace Sys2Proof.Machine

/-- The hull of a shadow and what the enabled members of its group give; an empty pair gives nothing.
DEDUCED (log 78), unsafe. -/
def hullPairs (s : State) (g : Nat) (pair : Nat → Int × Int) (i : Interval) : Interval :=
  (s.enabled.filter fun k => grpOf k == g).foldl (fun i k => if (pair k).1 ≤ (pair k).2 then i.hull ⟨(pair k).1, (pair k).2⟩ else i) i

/-- WIDEN of vn for each group with an enabled member (R194, R215): `pair k` is the interval that a member gives. -/
def widenBy (s : State) (n : Nat) (pair : Nat → Int × Int) : State :=
  { s with groups := tabOver s.groups (s.enabled.map grpOf).eraseDups fun g x =>
      x.setShadow n (hullPairs s g pair (x.shadow n)) }

/-- What a member reads in the q register of a WIDEN (R175). -/
def widenQ (s : State) (k : Nat) (a : BitVec 8) : DWord := srcValue s k (s.thread k) true (codeOf a)

/-- Checks of WIDEN: n below 32, A a q0 to q15 without last use (R215). -/
def widenChecks (s : State) (d : BitVec 7) (a : BitVec 8) : List (Nat × Bool) :=
  [ (4, decide (32 ≤ d.toNat) || lastOf a || decide (codeOf a < 100) || decide (116 ≤ codeOf a)),
    (5, decide (s.regMax ≤ d.toNat)), qWait s (codeOf a) ] ++ hintChecks s.lead false false false

/-- WIDEN, pair form (R215). -/
def execWiden (d : BitVec 7) (a : BitVec 8) (s : State) : Res :=
  onThreads s .base .yes (widenChecks s d a) fun s =>
    advanceNone (widenBy s d.toNat fun k => (lowInt (widenQ s k a), lowInt (widenQ s k a >>> 32)))

/-- WIDEN.count (R215). -/
def execWidenCount (d : BitVec 7) (a : BitVec 8) (s : State) : Res :=
  onThreads s .base .yes (widenChecks s d a) fun s =>
    advanceNone (widenBy s d.toNat fun k => (0, lowInt (widenQ s k a) - 1))

/-- WIDEN.full (R215). -/
def execWidenFull (d : BitVec 7) (s : State) : Res :=
  onThreads s .base .yes ([(4, decide (32 ≤ d.toNat)), (5, decide (s.regMax ≤ d.toNat))] ++
      hintChecks s.lead false false false) fun s =>
    advanceNone (widenBy s d.toNat fun _ => (minI32, maxI32))

/-- SHRD of one end (R216): each lane receives it from its own group's shadow. -/
def execShrd (hi : Bool) (d : BitVec 7) (w : BitVec 1) (a : BitVec 8) (s : State) : Res :=
  onThreads s .base .yes ([(4, decide (32 ≤ a.toNat)), (5, decide (a.toNat < 32) && decide (s.regMax ≤ a.toNat))] ++
      dstChecks s d w false ++ hintChecks s.lead false false false) fun s =>
    let val := fun g : Nat => let i := (s.group g).shadow a.toNat; if hi then i.hi else i.lo
    giveResult s d w false (fun k _ => toDWord (val (grpOf k)))
      (hullOf ((s.enabled.map grpOf).map val))

def execShrdLo (d : BitVec 7) (w : BitVec 1) (a : BitVec 8) (s : State) : Res := execShrd false d w a s
def execShrdHi (d : BitVec 7) (w : BitVec 1) (a : BitVec 8) (s : State) : Res := execShrd true d w a s

/-- The hull of a register's values in every live lane of a group (R194). -/
def tightShadow (s : State) (g n : Nat) : Interval := hullOf ((s.liveOf g).map fun k => ((s.thread k).reg n).toInt)

/-- A write of register n by some lane of a group is outstanding (R194). -/
def writesOf (x : Group) (n : Nat) : Bool :=
  (x.loads ++ x.atomics).any (fun l => l.any fun y => y.hits y.lane n) || x.mmaHolds n false

/-- SHWR (R194, R217): it waits until no write of vn by a group of the bundle is outstanding. -/
def execShwr (d : BitVec 7) (a b : BitVec 8) (s : State) : Res :=
  let bad := fun f : BitVec 8 => lastOf f || decide (codeOf f < 100)
  onThreads s .base .yes ([(4, decide (32 ≤ d.toNat) || bad a || bad b), (5, decide (s.regMax ≤ d.toNat)),
      qWait s (codeOf a), qWait s (codeOf b), (waitMark, s.enabled.any fun k => writesOf (s.group (grpOf k)) d.toNat)] ++
      hintChecks s.lead false false false) fun s =>
    let read := fun (k : Nat) (f : BitVec 8) => lowInt (srcValue s k (s.thread k) false (codeOf f))
    let tight := fun (g : Nat) (x : Group) =>
      x.setShadow d.toNat (hullPairs s g (fun k => (read k a, read k b)) (tightShadow s g d.toNat))
    advanceNone { s with groups := tabOver s.groups (s.enabled.map grpOf).eraseDups tight }

/-- A field of an array register, by the field numbers of R218. -/
def ArrayReg.field (a : ArrayReg) : Nat → DWord
  | 0 => (a.base.setWidth 32).setWidth 64
  | 1 => (a.base >>> 32).setWidth 64
  | 2 => a.extent.setWidth 64
  | 3 => a.esize.setWidth 64
  | 4 => if a.mode then 1 else 0
  | _ => a.pclass.setWidth 64

/-- The value of an array register that a member sees (R198). -/
def arrView (s : State) (k n : Nat) : ArrayReg :=
  (s.blockOf (grpOf k)).aView (viewPos s k (s.thread k)) n

/-- ARRGET of a 32-bit field (R218). -/
def execArrget (d : BitVec 7) (w : BitVec 1) (f : BitVec 3) (n : BitVec 4) (s : State) : Res :=
  onThreads s .base .yes ((3, decide (6 ≤ f.toNat)) :: dstChecks s d w false ++
      hintChecks s.lead false false false) fun s =>
    let val := fun k => (arrView s k n.toNat).field f.toNat
    giveResult s d w false (fun k _ => val k) (hullOf (s.enabled.map fun k => lowInt (val k)))

/-- ARRGET.base64 (R218). -/
def execArrgetBase64 (d : BitVec 7) (w : BitVec 1) (n : BitVec 4) (s : State) : Res :=
  onThreads s .base .yes (dstChecks s d w true ++ hintChecks s.lead false false false) fun s =>
    giveResult s d w true (fun k _ => (arrView s k n.toNat).base.setWidth 64) .full

end Sys2Proof.Machine
end

