-- ==== Sys2Proof/Machine/Access.lean ====
section
/-! DEFINITION. Accesses of a bundle to memory: where each lane's access goes, the checks of R275 in their order, and
reading and writing a place (R199, R201, R274 to R277, R280, R297). -/

namespace Sys2Proof.Machine

/-- Where an access goes. -/
inductive Place where
  | virt (va : DWord)
  | shared (blk off : Nat)
  /-- A scratch slice or a vault tile: never translated. -/
  | phys (pa : Nat)
  deriving DecidableEq, Repr

/-- One lane's access with the checks it has met. -/
structure LaneAcc where
  k : Nat
  /-- Masked: no access, a load gives zero (R201). -/
  masked : Bool := false
  /-- The bounds trap's ADDR, INFO1 and INFO2 (R201, R297). -/
  bounds : Option (DWord × DWord × DWord) := none
  /-- The address for the alignment check. -/
  addr : DWord := 0
  place : Place := .phys 0
  /-- For an access through a tile, the count of `fresh` at its acquisition (R290). -/
  taken : Nat := 0
  /-- The lowest address of the bundle's footprint, if it has one (R202). -/
  foot : Option DWord := none
  deriving DecidableEq, Repr

/-- The lane's access through array register `n` with element index `e` (R199, R201, R274, R280). -/
def arrayLane (s : State) (k n : Nat) (e : Int) (size : Nat) (sharedSpace : Bool) : LaneAcc :=
  let a := arrView s k n
  let es := 2 ^ a.esize.toNat
  let exact : Int := (a.base.toNat : Int) + e * (es : Nat)
  let addr := toDWord exact
  let trap := some (addr, BitVec.ofNat 64 n, toDWord e)
  let inside := decide (0 ≤ e) && decide (e * (es : Nat) + (size : Nat) ≤ ((a.extent.toNat * es : Nat) : Int))
  let b := (s.group (grpOf k)).blk
  if !inside then { k := k, masked := !a.mode, bounds := if a.mode then trap else none, addr := addr }
  else if sharedSpace then
    if exact < 0 ∨ ((s.gridOf b).launch.sharedBytes : Int) < exact + (size : Nat) then { k := k, bounds := trap, addr := addr }
    else { k := k, addr := addr, place := .shared b exact.toNat }
  else { k := k, addr := addr, place := .virt addr }

/-- Virtual address of a place, if it is translated. -/
def Place.va : Place → Option DWord
  | .virt va => some va
  | _ => none

/-- The reason of R126 that a lane's translation meets. -/
def laneReason (s : State) (acc : Access) (l : LaneAcc) : Option Nat :=
  match l.place with
  | .virt va => match translate s (s.asidOf (s.group (grpOf l.k)).blk) va acc with
    | .error r => some r
    | .ok _ => none
  | _ => none

/-- The lowest address of a list. -/
def leastAddr (l : List DWord) : DWord := BitVec.ofNat 64 (leastOf 0 (l.map (·.toNat)))

/-- Raises one kind of trap for the lanes that met it; ADDR is the lowest address in each record's group. -/
def laneTrap (s : State) (ls : List LaneAcc) (code : Nat) (info : LaneAcc → List DWord) : State :=
  bundleTrap s (ls.map (·.k)) code true fun g =>
    let mine := ls.filter fun l => grpOf l.k == g
    let a := leastAddr (mine.map (·.addr))
    let first := (mine.find? fun l => l.addr == a).getD { k := 0 }
    (a, s.issue.word.setWidth 64 :: info first)

/-- A poisoned table entry that the walks of a bundle's lanes read, with the grid that loses (R455). -/
def walksMeet (s : State) (ls : List LaneAcc) : Option (Nat × Nat) :=
  if s.poison.isEmpty then none else
  ls.findSome? fun l => match l.place.va with
    | some va => (walkPoison s (s.asidOf (s.group (grpOf l.k)).blk) va.toNat).map fun pa => ((s.blockOf (grpOf l.k)).gid, pa)
    | none => none

/-- The checks of R275 over a bundle's accesses of `size` bytes, in their order: the state with the trap taken, or none
where every lane passes. A poisoned table entry ends the translation with the consumer's grid (R455). `kind` is INFO2 of a page
fault (R409). -/
def accessTrap (s : State) (ls : List LaneAcc) (size : Nat) (acc : Access) (kind : Nat) : Option State :=
  let out := ls.filter fun l => l.bounds.isSome
  let on := ls.filter fun l => !l.masked
  let odd := on.filter fun l => l.addr.toNat % size != 0
  let high := on.filter fun l => match l.place.va with | some va => decide (2 ^ 57 ≤ va.toNat) | none => false
  let bad := on.filter fun l => (laneReason s acc l).isSome
  let lost := walksMeet s on
  if !out.isEmpty then
    some (bundleTrap s (out.map (·.k)) 0x0010 true fun g =>
      match out.find? fun l => grpOf l.k == g with
      | some { bounds := some (a, i1, i2), .. } => (a, [s.issue.word.setWidth 64, i1, i2])
      | _ => (0, []))
  else if !odd.isEmpty then some (laneTrap s odd 0x0011 fun _ => [BitVec.ofNat 64 size])
  else if !high.isEmpty then some (laneTrap s high 0x0012 fun _ => [0, BitVec.ofNat 64 kind])
  else match lost with
  | some (gid, pa) => some (poisonKill s gid pa)
  | none =>
  if !bad.isEmpty then
    some (laneTrap s bad 0x0012 fun l => [BitVec.ofNat 64 ((laneReason s acc l).getD 0), BitVec.ofNat 64 kind])
  else none

/-- Physical address of a lane's translated place. -/
def physOf (s : State) (k : Nat) (acc : Access) (va : DWord) : Nat :=
  match translate s (s.asidOf (s.group (grpOf k)).blk) va acc with
  | .ok pa => pa
  | .error _ => 0

/-- A lane with its place translated: a bundle's addresses are translated before any lane acts (R275). -/
def resolve (s : State) (acc : Access) (l : LaneAcc) : LaneAcc :=
  match l.place with
  | .virt va => { l with place := .phys (physOf s l.k acc va) }
  | _ => l

/-- Reads a place that has passed its checks. -/
def readPlace (s : State) (l : LaneAcc) (acc : Access) (size : Nat) : Nat :=
  match l.place with
  | .virt va => bytesAt s.mem (physOf s l.k acc va) size
  | .shared b off => seenBytes s l.taken (sharedLoc s b off) size (bytesAt (s.block b).shared off size)
  | .phys pa => seenBytes s l.taken pa size (bytesAt s.mem pa size)

/-- Writes a place that has passed its checks. -/
def writePlace (s : State) (l : LaneAcc) (size v : Nat) : State :=
  match l.place with
  | .virt va => s.store (physOf s l.k .store va) size v
  | .shared b off => s.storeShared b off size v
  | .phys pa => s.store pa size v

/-- A poisoned word that a lane's access meets (R455). -/
def laneMeets (s : State) (acc : Access) (size : Nat) (l : LaneAcc) : Option Nat :=
  if l.masked then none else match l.place with
  | .virt va => poisonAt s (physOf s l.k acc va) size
  | .phys pa => poisonAt s pa size
  | .shared _ _ => none

/-- The walk for a lane's access corrects the errors that it meets in the tables (R454, R463). -/
def laneWalks (s : State) (l : LaneAcc) : State :=
  match l.masked, l.place with
  | false, .virt va => meetWalk s (s.asidOf (s.group (grpOf l.k)).blk) va.toNat
  | _, _ => s

/-- The errors that a bundle's reads meet (R454, R455): corrected ones are reported, and a group that met a poisoned word
keeps its address until its load returns. -/
def readMarks (s : State) (ls : List LaneAcc) (acc : Access) (size : Nat) : State :=
  if s.poison.isEmpty && s.weak.isEmpty then s else
  ls.foldl (fun s0 l =>
    let s := laneWalks s0 l
    let s1 := match laneMeets s acc size l with
      | some pa => s.modGroup (grpOf l.k) fun g => { g with bad := some pa }
      | none => s
    if l.masked then s1 else match l.place with
    | .virt va => demand s1 (physOf s1 l.k acc va) size
    | .phys pa => demand s1 pa size
    | .shared _ _ => s1) s

/-- The correctable errors that a bundle's atomics meet, in the tables and in what they read, are corrected (R454, R463). -/
def correctLanes (s : State) (ls : List LaneAcc) (size : Nat) : State :=
  if s.weak.isEmpty then s else
  ls.foldl (fun s l => if l.masked then s else match l.place with
    | .virt va => demand (laneWalks s l) (physOf s l.k .store va) size
    | .phys pa => demand s pa size
    | .shared _ _ => s) s

/-- The first poisoned word that a bundle meets, with the grid that reads it. -/
def bundleMeets (s : State) (ls : List LaneAcc) (acc : Access) (size : Nat) : Option (Nat × Nat) :=
  if s.poison.isEmpty then none else
  ls.findSome? fun l => (laneMeets s acc size l).map fun pa => ((s.blockOf (grpOf l.k)).gid, pa)

/-- The physical bytes of a bundle's unmasked accesses. -/
def lanesBytes (s : State) (ls : List LaneAcc) (acc : Access) (size : Nat) : List (Nat × Nat) :=
  ls.filterMap fun l => match l.masked, l.place with
    | false, .virt va => some (physOf s l.k acc va, size)
    | false, .phys pa => some (pa, size)
    | _, _ => none

/-- Writes of a bundle in increasing lane position: where lanes share a byte, the higher lane wins (R276). The requests of the
coalescer settle the marks of errors (R266, R455). -/
def writeLanes (s : State) (ls : List (LaneAcc × Nat)) (size : Nat) : State :=
  settleMarks (ls.foldl (fun s l => if l.1.masked then s else writePlace s l.1 size l.2) s)
    (lanesBytes s (ls.map (·.1)) .store size)

/-- All that happened-before what some threads do now (R377). -/
def allBefore (s : State) (ks : List Nat) : View := ks.foldl (fun v k => joinView v (s.order.all (tidOf s k))) []

/-- Each group with a thread among those listed counts one operation of a class, with what happened-before its start; the threads'
later accesses carry a later clock (R376, R377). -/
def countOps (s : State) (ks : List Nat) (cls : OpClass) (tag : Nat) (count : Group → Group) : State :=
  let log := fun (g : Nat) (x : Group) =>
    { count x with ops := logOp x.ops { cls := cls, tag := tag, hb := allBefore s (ks.filter fun k => grpOf k == g) } }
  { overGroups s ks log with order := (ks.map (tidOf s)).foldl Order.tick s.order }

/-- Counts a write bundle in the gather counter of each group with an enabled thread (R277); a group whose lanes are all
masked completes at once. -/
def countGather (s : State) (ls : List LaneAcc) : State :=
  countOps s ((ls.filter fun l => !l.masked).map (·.k)) .gather 0 fun g => { g with nGather := g.nGather + 1 }

/-- Loads of a bundle on their way (R274): each group gets its lanes' values at LOAD_COMPLETE; rows, shadows and latch
follow at issue. `acq`: the load is an acquire (R389). -/
def beginLoads (s : State) (d : BitVec 7) (w : BitVec 1) (wide : Bool) (vals : List (Nat × DWord)) (iv : Interval)
    (acq : Bool := false) : State :=
  let ks := vals.map (·.1)
  let s1 := if w = 1 then s else
    { s with groups := tabOver s.groups (ks.map grpOf).eraseDups fun g x =>
        let x1 := groupWrite (laneMask ((s.liveOf g).map laneOf)) (lanesIn ks g) d.toNat wide iv x
        { x1 with loads := x1.loads ++ [(vals.filter fun v => grpOf v.1 == g).map fun v =>
            { lane := laneOf v.1, reg := d.toNat, wide := wide, value := v.2, born := s.tick, acq := acq }] } }
  advanceAll s1 (w = 1) fun k => some { value := ((vals.find? fun v => v.1 == k).map (·.2)).getD 0, iv := iv
                                        born := if w = 1 then none else some s.tick }

/-- Last uses of the index and of the data operand by the enabled members (R142). -/
def useFields (s : State) (fs : List (BitVec 8 × Bool)) : State :=
  let ks := s.enabled
  let use := fun (_ : Nat) (t : Thread) => { t with v := fs.foldl (fun v f => threadUse v f.1 f.2) t.v }
  let rel := fun (g : Nat) (x : Group) =>
    fs.foldl (fun x f => groupUse (laneMask ((s.liveOf g).map laneOf)) (lanesIn ks g) f.1 f.2 x) x
  { s with threads := tabOver s.threads ks use, groups := tabOver s.groups (ks.map grpOf).eraseDups rel }

/-- Extension of loaded bytes (R278). -/
def extend (signed : Bool) (size x : Nat) : DWord :=
  if signed then (toWord (sextNat x (8 * size))).setWidth 64 else BitVec.ofNat 64 x

/-- The location of a lane's access for the order of releases: a physical address, or a place in shared memory. -/
def locOf (s : State) (acc : Access) (l : LaneAcc) : Nat :=
  match l.place with
  | .virt va => physOf s l.k acc va
  | .shared b off => sharedLoc s b off
  | .phys pa => pa

/-- The accesses of a bundle that race detection may see: translated and not masked (R384). -/
def raceAccs (s : State) (ls : List LaneAcc) (acc : Access) (size : Nat) (wrote : Bool) (atomic : LaneAcc → Option Inst) :
    List RaceAcc :=
  ls.filterMap fun l => match l.masked, l.place with
    | false, .virt va => some { k := l.k, va, pa := physOf s l.k acc va, size, wrote, atomic := atomic l }
    | _, _ => none

/-- What the lanes of an acquire load take from the words they read (R389, R394). -/
def acquireLanes (s : State) (ls : List LaneAcc) (size sc : Nat) : Order :=
  (ls.filter fun l => !l.masked).foldl (fun o l =>
    o.acquireRead (locOf s .load l) size (instOf s l.k sc) (tidOf s l.k)) s.order

/-- What the releases of a store's lanes leave in the order (R373, R394): a plain write leaves none. -/
def writeOrder (s : State) (ls : List LaneAcc) (size : Nat) (rel : Option Nat) : Order :=
  match rel with
  | none => s.order
  | some sc => (ls.filter fun l => !l.masked).foldl (fun o l =>
      o.releaseWrite (locOf s .store l) size (instOf s l.k sc) (tidOf s l.k)) s.order

/-- The extra cycles of a bundle's access to shared memory (R263): in each of the 32 banks one for each word beyond the first; the
banks work side by side. DEDUCED (log 64), unsafe. -/
def sharedConflicts (ls : List LaneAcc) (size : Nat) : Nat :=
  let words := (ls.flatMap fun l => match l.masked, l.place with
    | false, .shared b off => (List.range ((size + 3) / 4)).map fun i => (coreOfB b, b, off / 4 + i)
    | _, _ => []).eraseDups
  ((words.map (·.1)).eraseDups.flatMap fun c => (List.range 32).map fun i =>
    (words.filter fun w => w.1 == c && w.2.2 % 32 == i).length - 1).foldl max 0

/-- Counts the conflicts of a bundle's access to shared memory (R263, R468). -/
def countConflicts (s : State) (ls : List LaneAcc) (size : Nat) : State :=
  match sharedConflicts ls size with
  | 0 => s
  | n => countCore s s.issue.core 7 n

/-- The lowest address of the footprint of a bundle's access through array register `n` (R202), unless it is empty. -/
def footLow (s : State) (code n : Nat) (off : Int) (size : Nat) : Option DWord :=
  let a := arrView s (s.members.headD 0) n
  let h := srcIv s s.members code
  let es : Int := (2 ^ a.esize.toNat : Nat)
  let lo := (a.base.toNat : Int) + max (h.lo + off) 0 * es
  let hi := (a.base.toNat : Int) + min ((h.hi + off) * es + (size : Nat)) ((a.extent.toNat : Int) * es)
  if (s.members.any fun k => arrView s k n != a) || decide (hi ≤ lo) then none else some (toDWord lo)

/-- The placer samples one memory bundle in every 2^(RATE + 6) of a core (R131, R203): the page of the footprint's lowest
address, or of the lowest address of a lane where there is no footprint. DEDUCED (log 35), unsafe. -/
def sampleBundle (s : State) (ls : List LaneAcc) : State :=
  if !s.mgmt.placer.en then s else
  match ls.filterMap fun l => if l.masked then none else l.place.va.map fun va => (l.k, va) with
  | [] => s
  | (k, va) :: rest =>
    let n := tabGetD s.sampling s.issue.core 0 + 1
    if n < 2 ^ (s.mgmt.placer.rate.toNat + 6) then { s with sampling := tabSet s.sampling s.issue.core n }
    else
      let low := (ls.findSome? (·.foot)).getD (leastAddr (va :: rest.map (·.2)))
      { s with sampling := tabDrop s.sampling s.issue.core
               samples := (((s.asidOf (s.group (grpOf k)).blk).toNat, low.toNat / 2 ^ 21 * 2 ^ 21,
                 Config.dieOfCore s.issue.core) : Nat × Nat × Nat) :: s.samples }

/-- The bounds decision of an array access (R198, R200): it issues unchecked where its index interval lies inside and the bundle's
threads see one value of the array register. -/
def issuesUnchecked (s : State) (iv : Interval) (n : Nat) (off : Int) (size : Nat) : Bool :=
  let a := arrView s (s.members.headD 0) n
  let es := 2 ^ a.esize.toNat
  (s.members.all fun k => arrView s k n == a) && decide (0 ≤ iv.lo + off) && decide ((iv.hi + off) * (es : Nat) + (size : Nat) ≤ ((a.extent.toNat * es : Nat) : Int))

/-- A checked access is counted (R200, R468); nothing else depends on the decision. -/
def countChecked (s : State) (code : Nat) (n : Nat) (off : Int) (size : Nat) : State :=
  if issuesUnchecked s (srcIv s s.members code) n off size then s else countCore s s.issue.core 6 1

/-- The bank commands that a bundle's accesses come after execute (R358). DEDUCED (log 42), safe. -/
def afterBanks (s : State) (ls : List LaneAcc) (acc : Access) : State :=
  if s.banks.all fun e => e.2.queue.isEmpty then s else
  settleOwn s (ls.filterMap fun l => match l.masked, l.place with
    | false, .virt va => some (grpOf l.k, physOf s l.k acc va)
    | _, _ => none)

/-- An acquire of an enabled thread has not returned: the thread starts no later access (R389). -/
def acquiring (s : State) : Bool :=
  s.enabled.any fun k =>
    let x := s.group (grpOf k)
    (x.loads ++ x.atomics).any fun l => l.any fun y => y.acq && y.lane == laneOf k

/-- A load, at an acquire's scope or plain: checks of R275, the race check, the values, last uses, and the results on
their way (R274, R386). -/
def doLoadAt (acq : Option Nat) (d : BitVec 7) (w : BitVec 1) (wide signed : Bool) (size : Nat) (iv : Interval)
    (uses : List (BitVec 8 × Bool)) (lanes : State → List LaneAcc) (s : State) : State :=
  if acquiring s then s else
  let ls := lanes s
  match accessTrap s ls size .load 0 with
  | some t => t
  | none =>
    let at_ := ls.map (resolve s .load)
    -- the bank commands before the accesses have executed, with what their writes did to the order (R358, R373)
    let ready := afterBanks s ls .load
    let o := match acq with | some sc => acquireLanes ready at_ size sc | none => ready.order
    let as := raceAccs s ls .load size false fun _ => none
    match raceTrap s o as with
    | some t => t
    | none =>
      let vals := at_.map fun l => (l.k, if l.masked then 0 else extend signed size (readPlace ready l .load size))
      let s0 := countConflicts (sampleBundle (recordAll { ready with order := o } as) ls) ls size
      let s1 := readMarks s0 ls .load size
      match w, bundleMeets ready ls .load size with
      | 1, some (gid, pa) => poisonKill ready gid pa
      | _, _ => beginLoads (useFields s1 uses) d w wide vals iv acq.isSome

/-- A plain load. DEDUCED (log 5), unsafe. -/
def doLoad (d : BitVec 7) (w : BitVec 1) (wide signed : Bool) (size : Nat) (iv : Interval)
    (uses : List (BitVec 8 × Bool)) (lanes : State → List LaneAcc) (s : State) : State :=
  doLoadAt none d w wide signed size iv uses lanes s

/-- A group of an enabled member has 63 operations outstanding in a class: its next one waits (R376). -/
def counterFull (s : State) (count : Group → Nat) : Bool :=
  (s.enabled.map grpOf).any fun g => decide (63 ≤ count (s.group g))

/-- A store, at a release's scope or plain: it waits while a gather counter is at its limit (R277); checks of R275, the
race check, the writes in lane order, the gather counter, last uses (R274, R276, R277, R386); with it, whether the store has
issued. DEDUCED (log 40), unsafe. -/
def storeAt (rel : Option Nat) (data : BitVec 8) (wide : Bool) (size : Nat) (uses : List (BitVec 8 × Bool))
    (lanes : State → List LaneAcc) (s : State) : Bool × State :=
  if counterFull s (·.nGather) || acquiring s then (false, s) else
  let ls := lanes s
  match accessTrap s ls size .store (if rel.isSome then 2 else 1) with
  | some t => (false, t)
  | none =>
    let as := raceAccs s ls .store size true fun _ => none
    match raceTrap s s.order as with
    | some t => (false, t)
    | none =>
      let at_ := ls.map (resolve s .store)
      let s := ls.foldl laneWalks (afterBanks s ls .store)
      let ws := at_.map fun l => (l, (srcValue s l.k (s.thread l.k) wide (codeOf data)).toNat)
      let s1 := writeLanes (countConflicts (sampleBundle (recordAll s as) ls) ls size) ws size
      let s2 := { s1 with order := writeOrder s1 ls size rel }
      (true, advanceNone (countGather (useFields s2 ((data, wide) :: uses)) ls))

/-- A store's next state. -/
def doStoreAt (rel : Option Nat) (data : BitVec 8) (wide : Bool) (size : Nat) (uses : List (BitVec 8 × Bool))
    (lanes : State → List LaneAcc) (s : State) : State :=
  (storeAt rel data wide size uses lanes s).2

/-- A plain store. -/
def doStore (data : BitVec 8) (wide : Bool) (size : Nat) (uses : List (BitVec 8 × Bool)) (lanes : State → List LaneAcc)
    (s : State) : State :=
  doStoreAt none data wide size uses lanes s

end Sys2Proof.Machine
end

