-- ==== Sys2Proof/Machine/Memory.lean ====
section
/-! DEFINITION. Loads, stores, read-only loads, shared-memory accesses, accesses by address, SPILL and FILL (R274 to
R282, R195, R196). -/

namespace Sys2Proof.Machine

/-- The element offset of format M (R144). -/
def offsetM (t : Thread) (o : BitVec 4) : Int :=
  match t.lit with
  | none => o.toInt
  | some l => (l ++ o : BitVec 28).toInt

/-- The accesses of a format M instruction (R274). -/
def lanesM (x : BitVec 8) (a o : BitVec 4) (size : Nat) (sharedSpace : Bool) (s : State) : List LaneAcc :=
  let off := offsetM s.lead o
  let foot := footLow s (codeOf x) a.toNat off size
  s.enabled.map fun k =>
    { arrayLane s k a.toNat (lowInt (srcValue s k (s.thread k) false (codeOf x)) + off) size sharedSpace with foot := foot }

/-- A load of format M (R274, R278 to R280). -/
def execLoadM (size : Nat) (wide signed sharedSpace : Bool) (iv : Interval) (d : BitVec 7) (w : BitVec 1) (x : BitVec 8)
    (a o : BitVec 4) (s : State) : Res :=
  onThreads s .base .yes (dstChecks s d w wide ++ srcChecks s x false ++
      hintChecks s.lead true false false) fun s =>
    doLoad d w wide signed size iv [(x, false)] (lanesM x a o size sharedSpace)
      (countChecked s (codeOf x) a.toNat (offsetM s.lead o) size)

/-- A data operand of a store: a 7-bit code with the last-use bit (R137, R278). -/
def dataField (d : BitVec 7) (l : BitVec 1) : BitVec 8 := l ++ d

/-- A store of format M (R274, R278, R280). -/
def execStoreM (size : Nat) (wide sharedSpace : Bool) (d : BitVec 7) (l : BitVec 1) (x : BitVec 8) (a o : BitVec 4)
    (s : State) : Res :=
  onThreads s .base .yes (srcChecks s (dataField d l) wide ++ srcChecks s x false ++
      hintChecks s.lead true false false) fun s =>
    doStore (dataField d l) wide size [(x, false)] (lanesM x a o size sharedSpace)
      (countChecked s (codeOf x) a.toNat (offsetM s.lead o) size)

/-- LdN8 (R278). -/
def execLdN8 (d : BitVec 7) (w : BitVec 1) (x : BitVec 8) (a o : BitVec 4) (s : State) : Res :=
  execLoadM 1 false false false ⟨0, 255⟩ d w x a o s

/-- LdI8 (R278). -/
def execLdI8 (d : BitVec 7) (w : BitVec 1) (x : BitVec 8) (a o : BitVec 4) (s : State) : Res :=
  execLoadM 1 false true false .full d w x a o s

/-- LdN16 (R278). -/
def execLdN16 (d : BitVec 7) (w : BitVec 1) (x : BitVec 8) (a o : BitVec 4) (s : State) : Res :=
  execLoadM 2 false false false ⟨0, 65535⟩ d w x a o s

/-- LdI16 (R278). -/
def execLdI16 (d : BitVec 7) (w : BitVec 1) (x : BitVec 8) (a o : BitVec 4) (s : State) : Res :=
  execLoadM 2 false true false .full d w x a o s

/-- Ld32 (R278). -/
def execLd32 (d : BitVec 7) (w : BitVec 1) (x : BitVec 8) (a o : BitVec 4) (s : State) : Res :=
  execLoadM 4 false false false .full d w x a o s

/-- Ld64 (R278). -/
def execLd64 (d : BitVec 7) (w : BitVec 1) (x : BitVec 8) (a o : BitVec 4) (s : State) : Res :=
  execLoadM 8 true false false .full d w x a o s

/-- Lds32 (R280). -/
def execLds32 (d : BitVec 7) (w : BitVec 1) (x : BitVec 8) (a o : BitVec 4) (s : State) : Res :=
  execLoadM 4 false false true .full d w x a o s

/-- Lds64 (R280). -/
def execLds64 (d : BitVec 7) (w : BitVec 1) (x : BitVec 8) (a o : BitVec 4) (s : State) : Res :=
  execLoadM 8 true false true .full d w x a o s

/-- St8 (R278). -/
def execSt8 (d : BitVec 7) (l : BitVec 1) (x : BitVec 8) (a o : BitVec 4) (s : State) : Res :=
  execStoreM 1 false false d l x a o s

/-- St16 (R278). -/
def execSt16 (d : BitVec 7) (l : BitVec 1) (x : BitVec 8) (a o : BitVec 4) (s : State) : Res :=
  execStoreM 2 false false d l x a o s

/-- St32 (R278). -/
def execSt32 (d : BitVec 7) (l : BitVec 1) (x : BitVec 8) (a o : BitVec 4) (s : State) : Res :=
  execStoreM 4 false false d l x a o s

/-- St64 (R278). -/
def execSt64 (d : BitVec 7) (l : BitVec 1) (x : BitVec 8) (a o : BitVec 4) (s : State) : Res :=
  execStoreM 8 true false d l x a o s

/-- Sts32 (R280). -/
def execSts32 (d : BitVec 7) (l : BitVec 1) (x : BitVec 8) (a o : BitVec 4) (s : State) : Res :=
  execStoreM 4 false true d l x a o s

/-- Sts64 (R280). -/
def execSts64 (d : BitVec 7) (l : BitVec 1) (x : BitVec 8) (a o : BitVec 4) (s : State) : Res :=
  execStoreM 8 true true d l x a o s

/-! ## The read-only path -/

/-- The 128-byte line of an address, read from memory into a read-only cache (R272). -/
def fillLine (s : State) (pa : Nat) (ro : Tab Word) : Tab Word :=
  (List.range 32).foldl (fun t i =>
    tabSet t (pa / 128 * 32 + i) (BitVec.ofNat 32 (bytesAt s.mem (pa / 128 * 128 + 4 * i) 4))) ro

/-- Words that the read-only cache of a core holds at most: 64 KiB (R272). -/
def readOnlyWords : Nat := 16384

/-- A line enters a read-only cache; a full cache gives up a line of its own, and which one is a free value (R272). -/
def roomForLine (fresh : Nat) (ro : Tab Word) : Tab Word :=
  if ro.length < readOnlyWords then ro
  else
    let lines := (ro.map (·.1 / 32)).eraseDups
    let gone := lines.getD (Config.readOnlyVictim fresh % max lines.length 1) 0
    tabKeep ro fun w _ => w / 32 != gone

/-- One 4-byte element through a core's read-only cache (R272, R273): a cached value may be older than memory, and
which of the two a load sees is a free value; a miss fills the line. DEDUCED (log 43), unsafe. -/
def readOnlyWord (s : State) (core pa : Nat) : State × Word :=
  let now : Word := BitVec.ofNat 32 (bytesAt s.mem pa 4)
  let c := s.core core
  match tabGet c.ro (pa / 4) with
  | some old =>
    if old = now then (s, now)
    else
      let s1 := { s with fresh := s.fresh + 1 }
      if Config.readOnlySeesOld s.fresh then (s1, old)
      else (s1.setCore core { c with ro := fillLine s pa c.ro }, now)
  | none => ({ s.setCore core { c with ro := fillLine s pa (roomForLine s.fresh c.ro) } with fresh := s.fresh + 1 }, now)

/-- The read-only loads of the lanes, one 4-byte element after another (R273). -/
def readOnlyLanes (size : Nat) (ls : List LaneAcc) (s : State) : State × List (Nat × DWord) :=
  ls.foldl (fun r l =>
    if l.masked then (r.1, r.2 ++ [(l.k, 0)])
    else match l.place with
    | .virt va =>
      let pa := physOf r.1 l.k .load va
      let core := coreOfG (grpOf l.k)
      let lo := readOnlyWord r.1 core pa
      if size = 4 then (lo.1, r.2 ++ [(l.k, lo.2.setWidth 64)])
      else
        let hi := readOnlyWord lo.1 core (pa + 4)
        (hi.1, r.2 ++ [(l.k, lo.2.setWidth 64 ||| (hi.2.setWidth 64 <<< 32))])
    | _ => r) (s, [])

/-- LDRO.32 and LDRO.64 (R279). -/
def execLoadRo (size : Nat) (wide : Bool) (d : BitVec 7) (w : BitVec 1) (x : BitVec 8) (a o : BitVec 4) (s : State) : Res :=
  onThreads s .base .yes (dstChecks s d w wide ++ srcChecks s x false ++
      hintChecks s.lead true false false) fun s0 =>
    if acquiring s0 then s0 else
    let s := countChecked s0 (codeOf x) a.toNat (offsetM s0.lead o) size
    let ls := lanesM x a o size false s
    match accessTrap s ls size .load 0 with
    | some t => t
    | none =>
      let r := readOnlyLanes size ls s
      match w, bundleMeets s ls .load size with
      | 1, some (gid, pa) => poisonKill s gid pa
      | _, _ => beginLoads (useFields (readMarks (sampleBundle r.1 ls) ls .load size) [(x, false)]) d w wide r.2 .full

def execLdro32 (d : BitVec 7) (w : BitVec 1) (x : BitVec 8) (a o : BitVec 4) (s : State) : Res :=
  execLoadRo 4 false d w x a o s
def execLdro64 (d : BitVec 7) (w : BitVec 1) (x : BitVec 8) (a o : BitVec 4) (s : State) : Res :=
  execLoadRo 8 true d w x a o s

/-! ## Accesses by address -/

/-- The accesses of LDG and STG (R281). -/
def lanesG (a i : BitVec 8) (s : State) : List LaneAcc :=
  let off := (immOf s.lead i true true)
  s.enabled.map fun k =>
    let va := srcValue s k (s.thread k) true (codeOf a) + off
    { k := k, addr := va, place := .virt va }

/-- LDG (R281). -/
def execLdg (size : Nat) (wide : Bool) (d : BitVec 7) (w : BitVec 1) (a i : BitVec 8) (s : State) : Res :=
  onThreads s .base .yes (dstChecks s d w wide ++ addrChecks s a ++
      hintChecks s.lead true false false)
    (doLoad d w wide false size .full [(a, true)] (lanesG a i))

/-- STG (R281). -/
def execStg (size : Nat) (wide : Bool) (d : BitVec 7) (l : BitVec 1) (a i : BitVec 8) (s : State) : Res :=
  onThreads s .base .yes (srcChecks s (dataField d l) wide ++ addrChecks s a ++
      hintChecks s.lead true false false)
    (doStore (dataField d l) wide size [(a, true)] (lanesG a i))

def execLdg32 (d : BitVec 7) (w : BitVec 1) (a i : BitVec 8) (s : State) : Res := execLdg 4 false d w a i s
def execLdg64 (d : BitVec 7) (w : BitVec 1) (a i : BitVec 8) (s : State) : Res := execLdg 8 true d w a i s
def execStg32 (d : BitVec 7) (l : BitVec 1) (a i : BitVec 8) (s : State) : Res := execStg 4 false d l a i s
def execStg64 (d : BitVec 7) (l : BitVec 1) (a i : BitVec 8) (s : State) : Res := execStg 8 true d l a i s

/-! ## SPILL and FILL -/

/-- Physical address of byte `o` of a lane's slice in a group (R115). -/
def groupSlice (g lane o : Nat) : Nat := sliceAddr (coreOfG g) (slotOfG g) lane + o

/-- SPILL (R195, R282): the value of each enabled thread, and the shadow pair into the slices of lanes 0 and 1. -/
def execSpill (a k : BitVec 8) (s : State) : Res :=
  let n := codeOf a
  onThreads s .base .no ((3, decide (96 ≤ k.toNat)) :: (4, decide (96 ≤ n)) :: srcChecks s a false ++
      hintChecks s.lead false false false) fun s =>
    if counterFull s (·.nGather) || acquiring s then s else
    let ks := s.enabled
    let s1 := ks.foldl (fun s' t => storeClean s' (groupSlice (grpOf t) (laneOf t) (8 * k.toNat)) 4 ((s.thread t).reg n).toNat) s
    let s2 := ((ks.map grpOf).eraseDups).foldl (fun s' g =>
      let i := (s.group g).shadow n
      storeClean (storeClean s' (groupSlice g 0 (8 * k.toNat + 4)) 4 (wrapNat 32 i.lo))
        (groupSlice g 1 (8 * k.toNat + 4)) 4 (wrapNat 32 i.hi)) s1
    let s3 := countGather (useFields s2 [(a, false)]) (ks.map fun t => { k := t })
    advanceNone (overGroups s3 ks fun _ g => { g with spill := g.nGather })

/-- The interval that a FILL gives a group (R196): the pair in its slices where it holds every value loaded. -/
def fillIv (lo hi : Int) (vals : List Int) : Interval :=
  if lo ≤ hi ∧ vals.all (fun v => lo ≤ v && v ≤ hi) then ⟨lo, hi⟩ else .full

/-- FILL (R196, R282). -/
def execFill (d : BitVec 7) (k : BitVec 8) (s : State) : Res :=
  onThreads s .base .no ((3, decide (96 ≤ k.toNat)) :: dstChecks s d 0 false ++
      hintChecks s.lead false false false) fun s =>
    if acquiring s then s else
    let val := fun t : Nat => bytesAt s.mem (groupSlice (grpOf t) (laneOf t) (8 * k.toNat)) 4
    let marked := s.enabled.findSome? fun t =>
      (poisonAt s (groupSlice (grpOf t) (laneOf t) (8 * k.toNat)) 4).map fun pa => ((s.blockOf (grpOf t)).gid, pa)
    let shadowEnd := fun (g lane : Nat) => sextNat (bytesAt s.mem (groupSlice g lane (8 * k.toNat + 4)) 4) 32
    let iv := fun g => fillIv (shadowEnd g 0) (shadowEnd g 1)
      ((s.enabled.filter fun t => grpOf t == g).map fun t => sextNat (val t) 32)
    let s1 := putResult s s.enabled d 0 false (fun t _ => BitVec.ofNat 64 (val t)) iv
    match marked with
    | some (gid, pa) => poisonKill s gid pa
    | none => advanceAll s1 false fun t =>
      some { value := if (s.thread t).enabled then BitVec.ofNat 64 (val t) else 0, iv := iv (grpOf t) }

end Sys2Proof.Machine
end

