-- ==== Sys2Proof/Machine/Tensor.lean ====
section
/-! DEFINITION. Tensors: element widths and rows (R65, R67, R287), the four layouts (R287, R314, R324, R347), reading and
writing a row of a box, tile regions (R268), and element values with their scales (R64, R70, R71). -/

namespace Sys2Proof.Machine

/-! ## Widths and rows -/

/-- Bits of an element in its container (R49, R65); .t3 has none. -/
def elemBits (etype : Nat) (fmt : Half) : Nat :=
  match etype with
  | 0 => 8 | 1 => 8 | 2 => 16 | 3 => 16 | 4 => 32 | 5 => 32 | 6 => 64 | 7 => 64
  | 8 => 16 | 9 => 16 | 10 => 32 | 11 => 64
  | 12 => if (nfOf fmt).width ≤ 4 then 4 else 8
  | _ => 8

/-- Bytes of a packed row of n elements (R287). -/
def rowBytes (etype : Nat) (fmt : Half) (n : Nat) : Nat :=
  if etype = 13 then ceilDiv n 5 else ceilDiv (n * elemBits etype fmt) 8

/-- RB of a tensor's row. -/
def Tensor.rb (t : Tensor) : Nat := rowBytes t.etype t.fmt (t.ext.getD 0 0)

/-- Rows of a tensor: the product of its extents from dimension 1 on. -/
def Tensor.rows (t : Tensor) : Nat := (t.ext.drop 1).foldl (· * ·) 1

/-- A tensor with an extent of zero has no elements (R49). -/
def Tensor.empty (t : Tensor) : Bool := t.ext.any (· == 0)

/-- Indices of dimensions 1 and on of row i (R287). -/
def rowIndices : List Nat → Nat → List Nat
  | [], _ => []
  | e :: es, i => i % e :: rowIndices es (i / e)

/-- Σ of index × stride over dimensions from 1 on. -/
def strideSum (idx : List Nat) (strides : List Int) : Int :=
  (List.zipWith (fun (i : Nat) (s : Int) => (i : Int) * s) idx strides).foldl (· + ·) 0

/-- A piece of a row: its address, its offset in the packed row, its bytes. -/
structure Seg where
  addr : DWord
  off : Nat
  len : Nat
  deriving DecidableEq, Repr

/-- PGB of a KV page of C channels with rows of RB bytes (R323). -/
def pageBytes (c rb : Nat) : Nat := roundUp (6 * c + 64 * rb) 128

/-- BASE + D plus an offset, modulo 2^64. -/
def Tensor.at (t : Tensor) (disp : DWord) (x : Int) : DWord := t.base.setWidth 64 + disp + toDWord x

/-- Pieces of row i of a box displaced by D (R287, R314, R324, R347). -/
def Tensor.segs (t : Tensor) (disp : DWord) (i : Nat) : List Seg :=
  let idx := rowIndices (t.ext.drop 1) i
  let n := t.ext.getD 0 0
  let i1 := idx.headD 0
  match t.layout with
  | 1 =>
    let tr := 2 ^ t.tilem
    let tc := 2 ^ t.tilen
    let seg := rowBytes t.etype t.fmt tc
    let outer := strideSum (idx.drop 1) (t.stride.drop 2) + ((i1 / tr : Nat) : Int) * t.stride.getD 1 0
    (List.range (ceilDiv n tc)).map fun k =>
      { addr := t.at disp (outer + ((k * (tr * seg) + i1 % tr * seg : Nat) : Int)), off := k * seg
        len := rowBytes t.etype t.fmt (min tc (n - k * tc)) }
  | 2 =>
    let cb := ceilDiv n 16
    let g := ceilDiv (t.ext.getD 1 0) 16
    (List.range n).map fun c =>
      let q := c % cb * g + i1 / 16
      { addr := t.at disp ((q / 32 * 65536 + c / cb * 1024 + q % 32 * 32 + 2 * (i1 % 16) : Nat) : Int)
        off := 2 * c, len := 2 }
  | 3 => [{ addr := t.at disp (((i1 / 64 : Nat) : Int) * t.stride.getD 1 0 + ((6 * n + i1 % 64 * t.rb : Nat) : Int))
            off := 0, len := t.rb }]
  | _ => [{ addr := t.at disp (strideSum idx (t.stride.drop 1)), off := 0, len := t.rb }]

/-- A bank-striped box fits its page (R347, R348). -/
def bankFits (base : DWord) (n m : Nat) : Bool :=
  base.toNat % 2 ^ 14 == 0 &&
    decide (ceilDiv (ceilDiv n 16 * ceilDiv m 16) 32 ≤ 32 - bitsNat base.toNat 20 16)

/-- The displaced box keeps its layout's shape (R348). -/
def Tensor.fits (t : Tensor) (disp : DWord) : Bool :=
  t.layout != 2 || (disp.toNat % 2 ^ 14 == 0 && bankFits (t.base.setWidth 64 + disp) (t.ext.getD 0 0) (t.ext.getD 1 0))

/-! ## Reading and writing rows -/

/-- Bytes of the pieces of a row as one packed number; a fault carries its address and reason. -/
def readSegs (s : State) (asid : BitVec 6) : List Seg → Except (DWord × Nat) Nat
  | [] => .ok 0
  | g :: gs =>
    match readClean s asid g.addr .copyRead g.len with
    | .error e => .error e
    | .ok v =>
      match readSegs s asid gs with
      | .error e => .error e
      | .ok rest => .ok (v * 256 ^ g.off + rest)

/-- Writes a packed row into its pieces. -/
def writeSegs (s : State) (asid : BitVec 6) (row : Nat) : List Seg → Except (DWord × Nat) State
  | [] => .ok s
  | g :: gs =>
    match writeClean s asid g.addr .copyWrite g.len (row / 256 ^ g.off % 256 ^ g.len) with
    | .error e => .error e
    | .ok s1 => writeSegs s1 asid row gs

/-! ## Tile regions -/

/-- Entry n of a block's Cupboard. -/
def State.tile (s : State) (b n : Nat) : Tile := tabGetD (s.block b).tiles n {}

/-- Sets entry n of a block's Cupboard. -/
def State.setTile (s : State) (b n : Nat) (t : Tile) : State :=
  s.modBlock b fun x => { x with tiles := tabSet x.tiles n t }

/-- First byte of a tile's region in its space. -/
def Tile.start (t : Tile) : Nat := t.offset.toNat * 256
/-- Bytes of a tile's region. -/
def Tile.bytes (t : Tile) : Nat := t.len.toNat * 256

/-- A region lies in its space (R268). -/
def regionOk (shared : Nat) (vault : Bool) (offset len : Nat) : Bool :=
  decide (1 ≤ len) && (if vault then decide (offset + len ≤ 24576) else decide ((offset + len) * 256 ≤ shared))

/-- The location of a tile's region, as releases number locations (R373). -/
def regionLoc (s : State) (b : Nat) (t : Tile) : Nat :=
  if t.vault then vaultAddr (coreOfB b) t.start else sharedLoc s b t.start

/-- Reads n bytes at an offset of a tile's region; what released tiles left there is a free value (R290). -/
def readTile (s : State) (b : Nat) (t : Tile) (o n : Nat) : Nat :=
  seenBytes s t.taken (regionLoc s b t + o) n
    (if t.vault then bytesAt s.mem (vaultAddr (coreOfB b) (t.start + o)) n
    else bytesAt (s.block b).shared (t.start + o) n)

/-- A poisoned word among n bytes at an offset of a tile's region (R455). -/
def tilePoison (s : State) (b : Nat) (t : Tile) (o n : Nat) : Option Nat :=
  if t.vault then poisonAt s (vaultAddr (coreOfB b) (t.start + o)) n else none

/-- Writes n bytes at an offset of a tile's region. -/
def writeTile (s : State) (b : Nat) (t : Tile) (o n v : Nat) : State :=
  if t.vault then
    let pa := vaultAddr (coreOfB b) (t.start + o)
    clearPoison (s.store pa n v) pa n
  else s.storeShared b (t.start + o) n v

/-- A released region keeps its bytes; they are unspecified to later tiles (R290). -/
def releaseRegion (s : State) (b : Nat) (t : Tile) : State :=
  { s with released := (regionLoc s b t, t.bytes, s.fresh) :: s.released }

/-- Entry n of a block's Cupboard takes a region: what released tiles left there is unspecified to it, until it is stored to (R290).
DEDUCED (log 44), safe. -/
def takeTile (s : State) (b n : Nat) (t : Tile) : State :=
  let lo := regionLoc s b t
  if s.released.any fun r => decide (r.1 < lo + t.bytes) && decide (lo < r.1 + r.2.1) then
    { s with fresh := s.fresh + 1 }.setTile b n { t with taken := s.fresh + 1 }
  else s.setTile b n t

/-! ## Moving boxes -/

/-- What a moved row is read from or written to: a box in memory, or a packed region of a tile. -/
inductive Side where
  | box (id : Nat) (t : Tensor) (disp : DWord)
  | tile (b : Nat) (t : Tile)
  deriving DecidableEq, Repr

/-- Reads row i of `rb` bytes from a side; a fault carries address, reason and tensor. -/
def Side.read (s : State) (asid : BitVec 6) (rb i : Nat) : Side → Except (DWord × Nat × Nat) Nat
  | .box id t disp =>
    match readSegs s asid (t.segs disp i) with
    | .error (a, r) => .error (a, r, id)
    | .ok v => .ok v
  | .tile b t =>
    match tilePoison s b t (rb * i) rb with
    | some pa => .error (BitVec.ofNat 64 pa, poisonReason, 0)
    | none => .ok (readTile s b t (rb * i) rb)

/-- Writes row i to a side. -/
def Side.write (s : State) (asid : BitVec 6) (rb i row : Nat) : Side → Except (DWord × Nat × Nat) State
  | .box id t disp =>
    match writeSegs s asid row (t.segs disp i) with
    | .error (a, r) => .error (a, r, id)
    | .ok s1 => .ok s1
  | .tile b t => .ok (writeTile s b t (rb * i) rb row)

/-- What a read of row i from memory corrects (R454). -/
def Side.meets (s : State) (asid : BitVec 6) (i : Nat) : Side → State
  | .box _ t disp => Sys2Proof.Machine.meets s asid .copyRead ((t.segs disp i).map fun g => (g.addr, g.len))
  | .tile _ _ => s

/-- Moves the rows of a box in increasing order (R287): the state reached, and the fault that stopped it. -/
def moveRows (asid : BitVec 6) (rb : Nat) (src : Side) (dst : List Side) :
    List Nat → State → State × Option (DWord × Nat × Nat)
  | [], s => (s, none)
  | i :: is, s =>
    match src.read s asid rb i with
    | .error e => (s, some e)
    | .ok row =>
      let r := dst.foldl (fun (r : State × Option (DWord × Nat × Nat)) d =>
        match r.2 with
        | some _ => r
        | none => match d.write r.1 asid rb i row with
          | .error e => (r.1, some e)
          | .ok s1 => (s1, none)) (src.meets s asid i, none)
      match r.2 with
      | some e => (r.1, some e)
      | none => moveRows asid rb src dst is r.1

/-- The rows of a tensor to move: none when it is empty (R49). -/
def Tensor.rowList (t : Tensor) : List Nat := if t.empty then [] else List.range t.rows

/-! ## Element values -/

/-- Element k of a packed row as an exact value (R56, R59, R64): an integer type is a whole number. -/
def elemValue (etype : Nat) (fmt : Half) (row k : Nat) : Fl :=
  let w := elemBits etype fmt
  let x := row / 2 ^ (w * k) % 2 ^ w
  match etype with
  | 0 => flOfInt (sextNat x 8) 0 false
  | 1 => flOfInt (x : Int) 0 false
  | 8 => f16.decode x
  | 9 => bf16.decode x
  | 10 => f32.decode x
  | 11 => f64.decode x
  | _ => (nfOf fmt).decode (x % 2 ^ (nfOf fmt).width)

/-- Exact sum of products (R77, R299): −0 only when every product is −0. -/
def exactSum : List Fl → Fl
  | [] => .fin false 0 0
  | p :: ps => ps.foldl (Fl.add .rn) p

/-- Address of the scale of element (i0, i1) of a two-dimensional tensor (R70). -/
def Tensor.scaleAddr (t : Tensor) (i0 i1 : Nat) : DWord :=
  t.scale.setWidth 64 + BitVec.ofNat 64 (2 * (i0 / 2 ^ t.scgran + ceilDiv (t.ext.getD 0 0) (2 ^ t.scgran) * i1))

/-- The scale of an element (R70, R71): 1 without scales; an unreadable one cannot be met after the checks. -/
def scaleOf (s : State) (asid : BitVec 6) (t : Tensor) (i0 i1 : Nat) : Fl :=
  if t.scale = 0 then .fin false 1 0
  else match readVirt s asid (t.scaleAddr i0 i1) .load 2 with
    | .ok v => bf16.decode v
    | .error _ => .nan

end Sys2Proof.Machine
end

