-- ==== Sys2Proof/Machine/Control.lean ====
section
/-! DEFINITION. Branches, calls, JOIN, NOP, the ends of threads, and the hint words (R151 to R161, R166, R167, R182,
R193, R214, R220 to R225, R446 to R448). -/

namespace Sys2Proof.Machine

/-! ## Refinement at a branch -/

/-- The interval in which a tagged relation holds or fails (R193); `sh` is the shadow. -/
def refineIv (cc : Nat) (c : Int) (holds : Bool) (sh : Interval) : Interval :=
  let without : Interval := ⟨if sh.lo = c then c + 1 else sh.lo, if sh.hi = c then c - 1 else sh.hi⟩
  match cc, holds with
  | 0, true => ⟨c, c⟩
  | 0, false => without
  | 1, true => without
  | 1, false => ⟨c, c⟩
  | 2, true => ⟨minI32, c - 1⟩
  | 2, false => ⟨c, maxI32⟩
  | _, true => ⟨c, maxI32⟩
  | _, false => ⟨minI32, c - 1⟩

/-- Narrows the shadow that the tag of a predicate names, where every live thread of the group is in the bundle, enabled,
and goes the same way (R193); `holds k` says whether the relation holds for a member. The tag stays. -/
def narrowShadows (s : State) (pg : Nat) : State :=
  { s with groups := tabOver s.groups (s.enabled.map grpOf).eraseDups fun g x =>
      let ks := s.enabled.filter fun k => grpOf k == g
      let live := laneMask ((s.liveOf g).map laneOf)
      match tabGet x.tags pg with
      | none => x
      | some tag =>
        let vals := ks.map fun k => (s.thread k).pred pg
        if lanesIn ks g &&& live = live ∧ ((vals.all id || vals.all fun b => !b) = true) then
          let sh := x.shadow tag.reg
          let i := refineIv tag.cc tag.c (vals.all id) sh
          let n : Interval := ⟨max sh.lo i.lo, min sh.hi i.hi⟩
          if n.lo ≤ n.hi ∧ tag.reg < 32 then
            { x with shadows := if n = {} then tabDrop x.shadows tag.reg else tabSet x.shadows tag.reg n }
          else x
        else x }

/-! ## Branches -/

/-- Target of a format B word (R145): sext(OFF, 16), or sext((L << 16) | OFF, 40) words after the next one. -/
def branchTarget (pc : DWord) (l : Option (BitVec 24)) (o : BitVec 16) : DWord :=
  match l with
  | none => pc + 4 + 4 * o.signExtend 64
  | some l => pc + 4 + 4 * (l ++ o).signExtend 64

/-- The condition p(PG) xor NEG of a thread (R145). -/
def branchCond (t : Thread) (g : BitVec 6) (n : BitVec 1) : Bool := t.pred g.toNat != (n == 1)

/-- Members for which `taken` holds continue at their target; the others fall through, and a taken one closes the run
for all (R171, R221). -/
def redirect (s : State) (taken : Nat → Thread → Bool) (target : Nat → Thread → DWord) : State :=
  let hit := s.members.any fun k => taken k (s.thread k)
  let move := fun (k : Nat) (t : Thread) =>
    if taken k t then t.jump s.now (target k t)
    else { (t.advance s.now false none) with run := if hit then none else nextRun t false none }
  settleRuns { s with threads := tabOver s.threads s.members move } s.members

/-- BR and BRL (R221). -/
def execBranch (long : Bool) (g : BitVec 6) (n : BitVec 1) (o : BitVec 16) (s : State) : Res :=
  onThreads s .base .yes (hintChecks s.lead long long false) fun s =>
    let target := branchTarget s.issue.pc (if long then s.lead.lit else none) o
    redirect (narrowShadows s g.toNat) (fun _ t => t.enabled && branchCond t g n) fun _ _ => target

def execBr (g : BitVec 6) (n : BitVec 1) (o : BitVec 16) (s : State) : Res := execBranch false g n o s
def execBrl (g : BitVec 6) (n : BitVec 1) (o : BitVec 16) (s : State) : Res := execBranch true g n o s

/-! ## Calls -/

/-- Physical address of byte `o` of a thread's scratch slice (R115). -/
def sliceByte (k o : Nat) : Nat := sliceAddr (coreOfG (grpOf k)) (slotOfG (grpOf k)) (laneOf k) + o

/-- Threads whose call or return has no room raise the call-stack trap (R167). -/
def callTrap (s : State) (bad : List Nat) : State :=
  bundleTrap s bad 0x000B false fun g =>
    (0, [s.issue.word.setWidth 64,
         BitVec.ofNat 64 (s.thread ((bad.filter fun k => grpOf k == g).headD 0)).cd])

/-- The calls of R167 by the threads that take them: the return address goes to the slice, the depth rises, and each
continues at its target. -/
def doCalls (s : State) (taken : Nat → Thread → Bool) (target : Nat → Thread → DWord) : State :=
  let ks := s.members.filter fun k => taken k (s.thread k)
  let bad := ks.filter fun k => 32 ≤ (s.thread k).cd
  match bad with
  | _ :: _ => callTrap s bad
  | [] =>
    let s1 := ks.foldl (fun s k =>
      storeClean s (sliceByte k (1016 - 8 * (s.thread k).cd)) 8 ((s.thread k).pc + 4).toNat) s
    let s2 := redirect s1 taken target
    { s2 with threads := tabOver s2.threads ks fun _ t => { t with cd := t.cd + 1 } }

/-- CALL and CALLL (R222). -/
def execCallAt (long : Bool) (g : BitVec 6) (n : BitVec 1) (o : BitVec 16) (s : State) : Res :=
  onThreads s .base .no (hintChecks s.lead long long false) fun s =>
    let target := branchTarget s.issue.pc (if long then s.lead.lit else none) o
    doCalls s (fun _ t => t.enabled && branchCond t g n) fun _ _ => target

def execCall (g : BitVec 6) (n : BitVec 1) (o : BitVec 16) (s : State) : Res := execCallAt false g n o s
def execCalll (g : BitVec 6) (n : BitVec 1) (o : BitVec 16) (s : State) : Res := execCallAt true g n o s

/-- A code address formed from bits [56:2] (R167, R223). -/
def codeAddr (x : DWord) : DWord := x &&& 0x01FFFFFFFFFFFFFC

/-- CALLI (R223). -/
def execCalli (a : BitVec 8) (s : State) : Res :=
  onThreads s .base .no (srcChecks s a true ++ hintChecks s.lead false false false) fun s =>
    let bad := s.enabled.any fun k => 32 ≤ (s.thread k).cd
    let s1 := doCalls s (fun _ t => t.enabled) fun k t => codeAddr (srcValue s k t true (codeOf a))
    if bad then s1 else
      let ks := s.enabled
      { s1 with
        threads := tabOver s1.threads ks fun _ t => { t with v := threadUse t.v a true }
        groups := tabOver s1.groups (ks.map grpOf).eraseDups fun g x =>
          groupUse (laneMask ((s.liveOf g).map laneOf)) (lanesIn ks g) a true x }

/-- A poisoned word that a return reads in a slice, with the grid of its thread (R455). -/
def returnMeets (s : State) : Option (Nat × Nat) :=
  s.enabled.findSome? fun k =>
    (poisonAt s (sliceByte k (1016 - 8 * ((s.thread k).cd - 1))) 8).map fun pa => ((s.blockOf (grpOf k)).gid, pa)

/-- RET (R224): the address comes from the slice. -/
def execRet (s : State) : Res :=
  onThreads s .base .no (hintChecks s.lead false false false) fun s =>
    match s.enabled.filter fun k => (s.thread k).cd = 0 with
    | b :: bs => callTrap s (b :: bs)
    | [] => match returnMeets s with
    | some (gid, pa) => poisonKill s gid pa
    | none =>
      let s1 := redirect s (fun _ t => t.enabled) fun k t =>
        codeAddr (BitVec.ofNat 64 (bytesAt s.mem (sliceByte k (1016 - 8 * (t.cd - 1))) 8))
      { s1 with threads := tabOver s1.threads s.enabled fun _ t => { t with cd := t.cd - 1 } }

/-! ## JOIN, NOP, EXIT and TAIL -/

/-- JOIN (R182, R225): each enabled lane reads its mask and waits; a mask of zero passes at once, and so does a disabled
lane. The run and the span of those that execute it end. -/
def execJoin (a : BitVec 8) (s : State) : Res :=
  onThreads s .base .no (srcChecks s a false ++ hintChecks s.lead false false false) fun s =>
    let ks := s.enabled
    let live := fun g => laneMask ((s.liveOf g).map laneOf)
    let s1 := { s with
      threads := tabOver s.threads s.members fun k t =>
        let m : Word := (srcValue s k t false (codeOf a)).setWidth 32
        if !t.enabled then { (t.advance s.now false none) with run := if ks.isEmpty then nextRun t false none else none }
        else
          let t1 := { t with v := threadUse t.v a false }
          if m = 0 then t1.jump s.now (t.pc + 4)
          else { (t1.jump s.now t.pc) with wait := .join t.pc m }
      groups := tabOver s.groups (ks.map grpOf).eraseDups fun g x => groupUse (live g) (lanesIn ks g) a false x }
    settleRuns s1 s.members

/-- NOP (R214). -/
def execNop (s : State) : Res := onThreads s .base .yes (hintChecks s.lead false false false) advanceNone

/-- The Lectern meets EXIT or TAIL: its stream ends (R173). -/
def lectEnd (s : State) : State :=
  s.modBlock s.issueBlock fun b => { b with started := true, lect := { b.lect with ended := true, hints := none } }

/-- Threads leave; the other members fall through (R447). -/
def leave (s : State) (ks : List Nat) : State :=
  let move := fun (_ : Nat) (t : Thread) => { (t.advance s.now false none) with run := none }
  let s1 := settleRuns { s with threads := tabOver s.threads s.members move } s.members
  ks.foldl exitThread s1

/-- A group of the bundle has a matrix command in flight: its threads stay until it completes (R306). -/
def mmaHolds (s : State) (ks : List Nat) : Bool := ks.any fun k => (s.group (grpOf k)).mma.isSome

/-- EXIT (R446, R447). -/
def execExit (s : State) : Res :=
  if s.issue.agent = .lectern then .next (lectEnd s)
  else onThreads s .base .no (hintChecks s.lead false false false) fun s =>
    if s.enabled.isEmpty then advanceNone s else if mmaHolds s s.enabled then s else leave s s.enabled

/-- Groups of the bundle whose every live thread is in it (R305, R448). -/
def wholeGroups (s : State) : List Nat :=
  (s.members.map grpOf).eraseDups.filter fun g => (s.liveOf g).all s.members.contains

/-- Members of the other groups wait at the instruction as at a JOIN whose mask names every lane (R305, R448). -/
def holdPartial (s : State) : State :=
  let rest := s.members.filter fun k => !(wholeGroups s).contains (grpOf k)
  { s with threads := tabOver s.threads rest fun _ t => { t with wait := .whole t.pc } }

/-- TAIL (R446, R448): a group leaves when the bundle holds all its live threads; another group's threads wait at it. A
TAIL inside a span raises reason 8. -/
def execTail (s : State) : Res :=
  if s.issue.agent = .lectern then .next (lectEnd s)
  else onThreads s .base .no (hintChecks s.lead false false false) <| outsideSpan fun s =>
    if mmaHolds s s.members then s else
    let s1 := settleRuns { s with threads := tabOver s.threads s.members fun _ t => { t with run := none } } s.members
    (s.members.filter fun k => (wholeGroups s).contains (grpOf k)).foldl exitThread (holdPartial s1)

/-! ## Hints -/

/-- The hint group that a thread or the Lectern carries after one more hint word, before the word's own field. -/
def groupAt (h : Option HintGroup) (pc : DWord) : HintGroup := h.getD { start := pc }

/-- The kinds of hint words (R152). -/
inductive HintKind where
  | lit (v : BitVec 24) | blk (v : BitVec 24) | grd (g : BitVec 6) (neg : BitVec 1) (n : BitVec 3) | live (o : BitVec 24)
  | step (v : BitVec 24) | region | pref (d : BitVec 2) | sched (v : BitVec 7)
  deriving DecidableEq, Repr

/-- The group already holds a hint of the kind (R152). -/
def HintGroup.has (h : HintGroup) : HintKind → Bool
  | .lit _ => h.lit.isSome
  | .blk _ => h.blk.isSome
  | .grd _ _ _ => h.grd
  | .live _ => h.live.isSome
  | .step _ => h.step.isSome
  | .region => h.region
  | .pref _ => h.pref.isSome
  | .sched _ => h.sched.isSome

/-- The group with one more hint. -/
def HintGroup.add (h : HintGroup) (pc : DWord) : HintKind → HintGroup
  | .lit v => { h with lit := some v }
  | .blk v => { h with blk := some v }
  | .grd _ _ _ => { h with grd := true }
  | .live o => { h with live := some (pc + 4 * o.signExtend 64) }
  | .step v => { h with step := some v }
  | .region => { h with region := true }
  | .pref d => { h with pref := some d }
  | .sched v => { h with sched := some v }

/-- The effect of a hint on a thread, beside its place in the group (R156, R158, R159); in the handler context LIVE, STEP
and REGION only take their slot (R417). DEDUCED (log 21), unsafe. -/
def hintEffect (handler : Bool) (asked : GridHold) (start : DWord) (t : Thread) : HintKind → Thread
  | .grd g neg n => { t with span := some { left := n.toNat + 1, g := branchCond t g neg } }
  | .step v =>
    if handler then t else
      let t1 := { t with steps := t.steps + 1 }
      if cutStops asked t1.steps then { t1 with halt := .cut v } else t1
  | .region =>
    if handler then t else
      -- the span at the group's first word: a GRD of the same group opened it after that word
      { t with rentry := start, rcount := t.rcount + 1, rgen := t.gen
               rspan := if (t.hints.map (·.grd)).getD false then none else t.span }
  | _ => t

/-- The reasons of R150 that a hint word meets: a PREF to destination 3 (R160), and a group that may not hold it (R152). -/
def hintFaults (h : HintGroup) (k : HintKind) : List (Nat × Bool) :=
  [ (3, match k with | .pref d => d = 3 | _ => false), (8, h.has k || h.lit.isSome) ]

/-- A hint word (R151, R152): a word that the group may not hold traps; otherwise each member carries the group on. -/
def execHint (k : HintKind) (s : State) : Res :=
  if s.issue.agent = .lectern then
    .next (s.modBlock s.issueBlock fun b => { b with
      started := true
      lect := { b.lect with pc := b.lect.pc + 4, hints := some ((groupAt b.lect.hints s.issue.pc).add s.issue.pc k) } })
  else match s.members with
  | [] => .next s
  | _ :: _ =>
    match lowestReason (hintFaults (groupAt s.lead.hints s.issue.pc) k) with
    | some r => .next (illegal s s.members r)
    | none =>
      let asked := s.cutAsked (s.group s.leadGroup).blk
      let hd := s.inHandler
      let carry := fun (_ : Nat) (t : Thread) =>
        { (hintEffect hd asked (groupAt t.hints s.issue.pc).start t k) with
          pc := t.pc + 4, hints := some ((groupAt t.hints s.issue.pc).add s.issue.pc k), since := s.now }
      let go := fun s : State => { s with threads := tabOver s.threads s.members carry }
      match k with
      | .grd _ _ _ => .next (outsideSpan go s)
      | _ => .next (go s)

/-- LIT (R154). -/
def execLit (v : BitVec 24) (s : State) : Res := execHint (.lit v) s
/-- BLK (R155). -/
def execBlk (m n : BitVec 3) (rs : BitVec 6) (d a b : BitVec 1) (s : State) : Res :=
  execHint (.blk (m ++ n ++ rs ++ d ++ a ++ b ++ (0 : BitVec 9))) s
/-- GRD (R156). -/
def execGrd (g : BitVec 6) (e : BitVec 1) (n : BitVec 3) (s : State) : Res := execHint (.grd g e n) s
/-- LIVE (R157). -/
def execLive (o : BitVec 24) (s : State) : Res := execHint (.live o) s
/-- STEP (R158). -/
def execStep (v : BitVec 24) (s : State) : Res := execHint (.step v) s
/-- REGION (R159). -/
def execRegion (s : State) : Res := execHint .region s
/-- PREF (R160): it changes no value; destination 3 traps. -/
def execPref (d : BitVec 2) (s : State) : Res := execHint (.pref d) s
/-- SCHED (R161): timing only. -/
def execSched (y : BitVec 1) (h : BitVec 6) (s : State) : Res := execHint (.sched (y ++ h)) s

end Sys2Proof.Machine
end

