-- ==== Sys2Proof/Machine/Uniform.lean ====
section
/-! DEFINITION. The uniform stream: the Lectern's side and the threads' side of every instruction of formats Q and V and
of BRU (R173 to R176, R219, R226 to R235). -/

namespace Sys2Proof.Machine

/-! ## The Lectern and the decision queue -/

/-- The Lectern that executes the instruction. -/
def State.lect (s : State) : Lectern := (s.block s.issueBlock).lect

/-- The hints, and a run for the checks, of the agent at a uniform-stream word. -/
def uniLead (s : State) : Thread :=
  if s.issue.agent = .lectern then
    { hints := s.lect.hints, run := some (List.replicate 4 (some { value := 0, iv := .full })) }
  else s.lead

/-- REGMAX for the agent. -/
def uniRegMax (s : State) : Nat :=
  if s.issue.agent = .lectern then (s.gridOf s.issueBlock).launch.regMax else s.regMax

/-- The Lectern's value of qn. -/
def lectQ (s : State) (n : Nat) : DWord := tabGetD s.lect.q n 0

/-- The Lectern writes one entry and moves on (R173). -/
def pushEntry (s : State) (e : DqEntry) (wait : Bool) : State :=
  s.modBlock s.issueBlock fun b =>
    let q := match e.wq with | some (n, some v) => tabSet b.lect.q n v | _ => b.lect.q
    let a := match e.wa with | some (n, v) => tabSet b.lect.a n v | none => b.lect.a
    let k := match e.wk with
      | some (n, some v) => tabSet b.lect.k n v
      | some (n, none) => tabDrop b.lect.k n
      | none => b.lect.k
    { b with
      started := true
      dq := b.dq ++ [e]
      lect := { b.lect with
        pc := e.next, hints := none, q := q, a := a, k := k
        wait := if wait then .entry (b.dqBase + b.dq.length) else .none } }

/-- The entry of an instruction of the stream that falls through. -/
def entryAt (s : State) : DqEntry := { addr := s.issue.pc, next := s.issue.pc + 4 }

/-- The entry at a thread's uniform position. -/
def entryOf (s : State) (k : Nat) : Option DqEntry :=
  let t := s.thread k
  let b := s.blockOf (grpOf k)
  if t.upos < b.dqBase then none else b.dq[t.upos - b.dqBase]?

/-- Threads at a word that is not the one their entry names, or past the end of the stream (R174). -/
def disordered (s : State) : List Nat :=
  s.members.filter fun k => match entryOf s k with
    | some e => e.addr != s.issue.pc
    | none => (s.blockOf (grpOf k)).lect.ended

/-- The uniform-order trap (R174, R409). -/
def orderTrap (s : State) (ks : List Nat) : State :=
  bundleTrap s ks 0x000A false fun g =>
    let k := (ks.filter fun k => grpOf k == g).headD 0
    (0, [s.issue.word.setWidth 64, BitVec.ofNat 64 (s.thread k).upos,
         match entryOf s k with | some e => e.addr | none => 0xFFFFFFFFFFFFFFFF])

/-- A group counts a command that one of its threads passes first (R286, R313), and logs it for the WAITs that adopt it (R377). -/
def countCommand (s : State) (g pos : Nat) : State :=
  let b := (s.group g).blk
  match (s.block b).cmds.find? fun c => c.pos == pos with
  | none => s
  | some c =>
    if c.counted.contains (slotOfG g) then s
    else
      let s1 := s.modBlock b fun x => { x with cmds := x.cmds.map fun c =>
        if c.pos == pos then { c with counted := c.counted ++ [slotOfG g] } else c }
      let log := fun (x : Group) => logOp x.ops { cls := if c.matrix then .matrix else .copy, tag := pos, hb := c.hb }
      s1.modGroup g fun x =>
        if c.matrix then { x with nMatrix := x.nMatrix + 1, ops := log x } else { x with nCopy := x.nCopy + 1, ops := log x }

/-- One thread passes its entry (R174, R411): it follows a recorded outcome and closes its region there. -/
def passEntry (tick : Nat) (e : DqEntry) (t : Thread) : Thread :=
  let t1 := if e.taken then t.jump tick e.next else t.advance tick false none
  { t1 with upos := t.upos + 1, rentry := t1.pc, rcount := t.rcount + 1, rgen := t1.gen, rspan := t1.span }

/-- A thread contributes a value to its UGET entry (R234). -/
def contribute (s : State) (k : Nat) (x : DWord) : State :=
  let t := s.thread k
  s.modBlock (s.group (grpOf k)).blk fun b =>
    { b with dq := b.dq.mapIdx fun i e =>
        if i + b.dqBase = t.upos then { e with contrib := e.contrib ++ [(t.lin, x)] } else e }

/-- An entry of a POST. -/
def DqEntry.posts (e : DqEntry) : Bool := match e.kind with | .post _ _ _ => true | _ => false

/-- A member may pass its entry: the entry is written, and its group's counter for the command is below 63 (R286, R313,
R376); a POST is a release, which waits for the writes of the member's group (R100, R389). A UGET or POST whose entry the Lectern
has not reached is waited for as well (R168, R226). DEDUCED (log 76), safe. -/
def mayPass (s : State) (k : Nat) : Bool :=
  match entryOf s k with
  | none => false
  | some e =>
    let g := s.group (grpOf k)
    !(e.kind == .copy && decide (63 ≤ g.nCopy)) && !(e.kind == .matrix && decide (63 ≤ g.nMatrix)) &&
      !(e.posts && !drained s (grpOf k))

/-- What a thread releases as it passes an entry: to the command that waits with SYNC there, at the block (R285, R372); or to the
grid that a POST launches, at the die (R100). -/
def releaseEntry (s : State) (k : Nat) : State :=
  let b := (s.group (grpOf k)).blk
  let x := s.block b
  let pos := (s.thread k).upos
  let tid := tidOf s k
  let give := fun (i : Inst) (f : View → Block → Block) =>
    { s.modBlock b (f (s.order.own i tid)) with order := s.order.tick tid }
  match (entryOf s k).map DqEntry.kind with
  | some (UniKind.post _ _ _) => give (.die (Config.dieOfCore (coreOfB b))) fun v y =>
      { y with dq := y.dq.mapIdx fun i e => if i + y.dqBase = pos then { e with hb := joinView e.hb v } else e }
  | _ =>
    if x.cmds.any fun c => c.pos == pos && c.state == .sync then
      give (.block x.gid x.num.toNat) fun v y =>
        { y with cmds := y.cmds.map fun c => if c.pos == pos then { c with hb := joinView c.hb v } else c }
    else s

/-- The members consume their entries (R174): those in disorder trap; those whose entry is not written wait, and so do
those whose counter is at its limit. -/
def consume (s : State) (value : Option (Nat → DWord)) : State :=
  match disordered s with
  | k :: ks => orderTrap s (k :: ks)
  | [] =>
    let ks := s.members.filter (mayPass s)
    -- a run issues once every member is ready (R171)
    if s.lead.run.isSome && decide (ks.length < s.members.length) then s else
    let entries := ks.map fun k => (k, (entryOf s k).getD (entryAt s))
    let s1 := match value with
      | none => s
      | some f => ks.foldl (fun s' k => contribute s' k (f k)) s
    let s1 := ks.foldl releaseEntry s1
    let s2 := entries.foldl (fun s' e =>
      if e.2.kind = .copy ∨ e.2.kind = .matrix then
        (countCommand s' (grpOf e.1) (s.thread e.1).upos).modGroup (grpOf e.1) fun g => g.flag e.2.flags
      else s') s1
    let pass := fun (k : Nat) (t : Thread) => passEntry s.now ((entryOf s k).getD (entryAt s)) t
    let hit := entries.any fun e => e.2.taken
    let pass' := fun (k : Nat) (t : Thread) => let t1 := pass k t; { t1 with run := if hit then none else t1.run }
    let s3 := settleRuns { s2 with threads := tabOver s2.threads ks pass' } s.members
    freeEntries s3 (s.group s.leadGroup).blk

/-- A uniform-stream instruction (R173, R226): the Lectern performs `effect`, or stops where a check of R149 fails; a
thread with an open span traps with reason 8; the others consume their entries. -/
def onUniform (s : State) (c : Class) (checks : List (Nat × Bool)) (value : Option (Nat → DWord))
    (effect : State → State) : Res :=
  if s.issue.agent = .lectern then
    if !c.onDie (Config.dieOfCore s.issue.core) || (lowestReason checks).isSome then
      .next (s.modBlock s.issueBlock fun b => { b with started := true, lect := { b.lect with stuck := true } })
    else .next (effect s)
  else onThreads s c .no checks (outsideSpan fun s => consume s value)

/-- A check of the values of X reads the Lectern's registers: at the Lectern, and for the threads that reach the word at
which those values have stopped it (R226). -/
def seesLectern (s : State) : Bool := s.issue.agent == .lectern || (s.lect.stuck && s.lect.pc == s.issue.pc)

/-! ## BRU -/

/-- BRU (R228): PG = 0 is unconditional. -/
def execBru (g : BitVec 6) (n : BitVec 1) (o : BitVec 16) (s : State) : Res :=
  onUniform s .base (hintChecks (uniLead s) false false false) none fun s =>
    let c := g = 0 || lectQ s g.toNat != 0
    let taken := c != (n == 1)
    pushEntry s { entryAt s with
      taken := taken, next := if taken then branchTarget s.issue.pc none o else s.issue.pc + 4 } false

/-! ## UOP, UCMP, ULD -/

/-- The second operand of UOP and UCMP (R227): q(QB), or the immediate extended by the instruction's type; an unsigned type extends
the 30-bit pattern by zeros. DEDUCED (log 77), unsafe. -/
def uniB (s : State) (b : BitVec 6) (i : BitVec 1) (signed : Bool) : DWord :=
  if i = 0 then lectQ s b.toNat
  else match s.lect.hints.bind (·.lit) with
    | none => b.setWidth 64
    | some l => let x : BitVec 30 := l ++ b; if signed then x.signExtend 64 else x.setWidth 64

/-- A UOP or UCMP: q(QD) := f(q(QA), B) (R229, R230). -/
def execUop (signed : Bool) (f : DWord → DWord → DWord) (d a b : BitVec 6) (i : BitVec 1) (s : State) : Res :=
  onUniform s .base (hintChecks (uniLead s) true false false) none fun s =>
    pushEntry s { entryAt s with wq := some (d.toNat, some (f (lectQ s a.toNat) (uniB s b i signed))) } false

/-- Shifts of 64-bit values (R229). -/
def ushl (a b : DWord) : DWord := if 64 ≤ b.toNat then 0 else a <<< b.toNat
def ushrN (a b : DWord) : DWord := if 64 ≤ b.toNat then 0 else a >>> b.toNat
def ushrI (a b : DWord) : DWord := a.sshiftRight (min b.toNat 64)
/-- Division at 64 bits under R206. -/
def udivN (a b : DWord) : DWord := if b = 0 then -1 else BitVec.ofNat 64 (a.toNat / b.toNat)
def uremN (a b : DWord) : DWord := if b = 0 then a else BitVec.ofNat 64 (a.toNat % b.toNat)
/-- Signed division at 64 bits, truncated toward zero (R57, R206). -/
def udivI (a b : DWord) : DWord := if b = 0 then -1 else toDWord (a.toInt.tdiv b.toInt)
def uremI (a b : DWord) : DWord := if b = 0 then a else toDWord (a.toInt.tmod b.toInt)

/-- Uadd (R229). -/
def execUadd (d a b : BitVec 6) (i : BitVec 1) (s : State) : Res :=
  execUop true (· + ·) d a b i s

/-- Usub (R229). -/
def execUsub (d a b : BitVec 6) (i : BitVec 1) (s : State) : Res :=
  execUop true (· - ·) d a b i s

/-- Umul (R229). -/
def execUmul (d a b : BitVec 6) (i : BitVec 1) (s : State) : Res :=
  execUop true (· * ·) d a b i s

/-- Uand (R229). -/
def execUand (d a b : BitVec 6) (i : BitVec 1) (s : State) : Res :=
  execUop false (· &&& ·) d a b i s

/-- Uor (R229). -/
def execUor (d a b : BitVec 6) (i : BitVec 1) (s : State) : Res :=
  execUop false (· ||| ·) d a b i s

/-- Uxor (R229). -/
def execUxor (d a b : BitVec 6) (i : BitVec 1) (s : State) : Res :=
  execUop false (· ^^^ ·) d a b i s

/-- Ushl (R229). -/
def execUshl (d a b : BitVec 6) (i : BitVec 1) (s : State) : Res :=
  execUop false ushl d a b i s

/-- UshrN64 (R229). -/
def execUshrN64 (d a b : BitVec 6) (i : BitVec 1) (s : State) : Res :=
  execUop false ushrN d a b i s

/-- UshrI64 (R229). -/
def execUshrI64 (d a b : BitVec 6) (i : BitVec 1) (s : State) : Res :=
  execUop false ushrI d a b i s

/-- UminI64 (R229). -/
def execUminI64 (d a b : BitVec 6) (i : BitVec 1) (s : State) : Res :=
  execUop true (fun a b => if a.slt b then a else b) d a b i s

/-- UmaxI64 (R229). -/
def execUmaxI64 (d a b : BitVec 6) (i : BitVec 1) (s : State) : Res :=
  execUop true (fun a b => if a.slt b then b else a) d a b i s

/-- UminN64 (R229). -/
def execUminN64 (d a b : BitVec 6) (i : BitVec 1) (s : State) : Res :=
  execUop false (fun a b => if a < b then a else b) d a b i s

/-- UmaxN64 (R229). -/
def execUmaxN64 (d a b : BitVec 6) (i : BitVec 1) (s : State) : Res :=
  execUop false (fun a b => if a < b then b else a) d a b i s

/-- Umov (R229). -/
def execUmov (d a b : BitVec 6) (i : BitVec 1) (s : State) : Res :=
  execUop false (fun _ b => b) d a b i s

/-- UdivN64 (R229). -/
def execUdivN64 (d a b : BitVec 6) (i : BitVec 1) (s : State) : Res :=
  execUop false udivN d a b i s

/-- UremN64 (R229). -/
def execUremN64 (d a b : BitVec 6) (i : BitVec 1) (s : State) : Res :=
  execUop false uremN d a b i s

/-- UdivI64 (R229). -/
def execUdivI64 (d a b : BitVec 6) (i : BitVec 1) (s : State) : Res :=
  execUop true udivI d a b i s

/-- UremI64 (R229). -/
def execUremI64 (d a b : BitVec 6) (i : BitVec 1) (s : State) : Res :=
  execUop true uremI d a b i s

/-- UcmpEq (R230). -/
def execUcmpEq (d a b : BitVec 6) (i : BitVec 1) (s : State) : Res :=
  execUop true (fun a b => if a = b then 1 else 0) d a b i s

/-- UcmpNe (R230). -/
def execUcmpNe (d a b : BitVec 6) (i : BitVec 1) (s : State) : Res :=
  execUop true (fun a b => if a = b then 0 else 1) d a b i s

/-- UcmpLtI64 (R230). -/
def execUcmpLtI64 (d a b : BitVec 6) (i : BitVec 1) (s : State) : Res :=
  execUop true (fun a b => if a.slt b then 1 else 0) d a b i s

/-- UcmpGeI64 (R230). -/
def execUcmpGeI64 (d a b : BitVec 6) (i : BitVec 1) (s : State) : Res :=
  execUop true (fun a b => if a.slt b then 0 else 1) d a b i s

/-- UcmpLtN64 (R230). -/
def execUcmpLtN64 (d a b : BitVec 6) (i : BitVec 1) (s : State) : Res :=
  execUop false (fun a b => if a < b then 1 else 0) d a b i s

/-- UcmpGeN64 (R230). -/
def execUcmpGeN64 (d a b : BitVec 6) (i : BitVec 1) (s : State) : Res :=
  execUop false (fun a b => if a < b then 0 else 1) d a b i s

/-- ULD (R231, R233): the Lectern reads memory through the block's translation; a fault is a block trap. -/
def execUld (d a b : BitVec 6) (sg : BitVec 1) (z : BitVec 2) (s : State) : Res :=
  onUniform s .base ((3, sg = 1 && z = 3) :: hintChecks (uniLead s) true false false) none fun s =>
    let size := 2 ^ z.toNat
    let off : DWord := match s.lect.hints.bind (·.lit) with
      | none => b.setWidth 64
      | some l => (l ++ b : BitVec 30).signExtend 64
    let va := (lectQ s a.toNat + off * BitVec.ofNat 64 size) &&& ~~~BitVec.ofNat 64 (size - 1)
    match readClean s (s.asidOf s.issueBlock) va .load size with
    | .error (x, r) =>
      if r = poisonReason then poisonKill s (s.block s.issueBlock).gid x.toNat
      else uldTrap s s.issueBlock 0x0012 true s.issue.pc va
        [s.issue.word.setWidth 64, BitVec.ofNat 64 r, 4]
    | .ok x =>
      let v := if sg = 1 then toDWord (sextNat x (8 * size)) else BitVec.ofNat 64 x
      pushEntry (meets s (s.asidOf s.issueBlock) .load [(va, size)]) { entryAt s with wq := some (d.toNat, some v) } false

/-! ## UGET and POST -/

/-- The combined value of a UGET (R234), over the contributions in increasing linear index. -/
def combine (op : BitVec 4) (wide : Bool) (l : List (Nat × DWord)) : DWord :=
  let xs := (sortBy (fun a b => decide (a.1 ≤ b.1)) l).map fun e => if wide then e.2 else e.2 &&& 0xFFFFFFFF
  let sx := fun x : DWord => if wide then x.toInt else lowInt x
  let fold := fun (f : DWord → DWord → DWord) => match xs with | [] => 0 | y :: ys => ys.foldl f y
  let ext := fun x : DWord => if wide then x else toDWord (lowInt x)
  match op.toNat with
  | 0 => xs.headD 0
  | 1 => toDWord (xs.foldl (fun n x => n + sx x) 0)
  | 2 => ext (fold fun a b => if sx b < sx a then b else a)
  | 3 => ext (fold fun a b => if sx a < sx b then b else a)
  | 4 => fold fun a b => if b < a then b else a
  | 5 => fold fun a b => if a < b then b else a
  | 6 => fold (· &&& ·)
  | 7 => fold (· ||| ·)
  | 8 => fold (· ^^^ ·)
  | 9 => if xs.any (· != 0) then 1 else 0
  | 10 => if xs.all (· != 0) then 1 else 0
  | _ => BitVec.ofNat 64 (xs.filter (· != 0)).length

/-- A UGET (R176, R234): the Lectern writes the entry's address and waits; each thread contributes its value and passes. -/
def execUget (op : BitVec 4) (d : BitVec 6) (x : BitVec 8) (w : BitVec 1) (s : State) : Res :=
  onUniform s .base (fieldChecks (uniRegMax s) (uniLead s) x (w = 1) ++ qWait s (codeOf x) :: (waitMark, srcHeld s (w = 1) (codeOf x)) ::
      hintChecks (uniLead s) false false false)
    (some fun k => srcValue s k (s.thread k) (w = 1) (codeOf x)) fun s =>
      pushEntry s { entryAt s with kind := .uget op (w = 1), wq := some (d.toNat, none) } true

/-- A UGET whose source may be a last use (R142, R234). -/
def execUgetUse (op : BitVec 4) (d : BitVec 6) (x : BitVec 8) (w : BitVec 1) (s : State) : Res :=
  match execUget op d x w s with
  | .next s1 =>
    -- the members that contributed have read X
    let ks := s.members.filter fun k => match tabGet s1.threads k with
      | some t => t.upos = (s.thread k).upos + 1
      | none => false
    let use := fun (_ : Nat) (t : Thread) => { t with v := threadUse t.v x (w = 1) }
    let release := fun (g : Nat) (y : Group) =>
      groupUse (laneMask ((s.liveOf g).map laneOf)) (lanesIn ks g) x (w = 1) y
    if s.issue.agent = .lectern then .next s1
    else .next { s1 with threads := tabOver s1.threads ks use
                         groups := tabOver s1.groups (ks.map grpOf).eraseDups release }
  | r => r

/-- UGET.First (R234). -/
def execUgetFirst (d : BitVec 6) (x : BitVec 8) (w : BitVec 1) (s : State) : Res := execUgetUse 0 d x w s

/-- UGET.Add (R234). -/
def execUgetAdd (d : BitVec 6) (x : BitVec 8) (w : BitVec 1) (s : State) : Res := execUgetUse 1 d x w s

/-- UGET.MinI (R234). -/
def execUgetMinI (d : BitVec 6) (x : BitVec 8) (w : BitVec 1) (s : State) : Res := execUgetUse 2 d x w s

/-- UGET.MaxI (R234). -/
def execUgetMaxI (d : BitVec 6) (x : BitVec 8) (w : BitVec 1) (s : State) : Res := execUgetUse 3 d x w s

/-- UGET.MinN (R234). -/
def execUgetMinN (d : BitVec 6) (x : BitVec 8) (w : BitVec 1) (s : State) : Res := execUgetUse 4 d x w s

/-- UGET.MaxN (R234). -/
def execUgetMaxN (d : BitVec 6) (x : BitVec 8) (w : BitVec 1) (s : State) : Res := execUgetUse 5 d x w s

/-- UGET.And (R234). -/
def execUgetAnd (d : BitVec 6) (x : BitVec 8) (w : BitVec 1) (s : State) : Res := execUgetUse 6 d x w s

/-- UGET.Or (R234). -/
def execUgetOr (d : BitVec 6) (x : BitVec 8) (w : BitVec 1) (s : State) : Res := execUgetUse 7 d x w s

/-- UGET.Xor (R234). -/
def execUgetXor (d : BitVec 6) (x : BitVec 8) (w : BitVec 1) (s : State) : Res := execUgetUse 8 d x w s

/-- UGET.Any (R234). -/
def execUgetAny (d : BitVec 6) (x : BitVec 8) (w : BitVec 1) (s : State) : Res := execUgetUse 9 d x w s

/-- UGET.All (R234). -/
def execUgetAll (d : BitVec 6) (x : BitVec 8) (w : BitVec 1) (s : State) : Res := execUgetUse 10 d x w s

/-- UGET.Count (R234). -/
def execUgetCount (d : BitVec 6) (x : BitVec 8) (w : BitVec 1) (s : State) : Res := execUgetUse 11 d x w s

/-- A POST (R235): the Lectern writes the entry's address and waits for every live thread. -/
def execPostWith (self : Bool) (d : BitVec 6) (qa qb : Nat) (s : State) : Res :=
  onUniform s .base (hintChecks (uniLead s) false false false) none fun s =>
    pushEntry s { entryAt s with
      kind := .post (lectQ s qa) (lectQ s qb) self, wq := some (d.toNat, none) } true

/-- POST (R235). -/
def execPost (d a b : BitVec 6) (s : State) : Res := execPostWith false d a.toNat b.toNat s
/-- POST.self (R235). -/
def execPostSelf (d a : BitVec 6) (s : State) : Res := execPostWith true d a.toNat 0 s

/-- Writes the value of the entry at which the Lectern waits; the wait ends (R176, R235). -/
def writeEntry (s : State) (b pos : Nat) (v : DWord) : State :=
  let done := fun (x : Block) => { x with
    lect := { x.lect with
      wait := .none
      q := match x.dq[pos - x.dqBase]? with | some { wq := some (n, _), .. } => tabSet x.lect.q n v | _ => x.lect.q }
    dq := x.dq.mapIdx fun i e => if i + x.dqBase = pos then { e with wq := e.wq.map fun w => (w.1, some v) } else e }
  freeEntries (s.modBlock b done) b

/-- Every live thread of a block has passed a uniform position. -/
def allPassed (s : State) (b pos : Nat) : Bool := (s.liveOfBlock b).all fun k => pos < (s.thread k).upos

/-- The entry at which the Lectern of a block waits. -/
def waitEntry (s : State) (b : Nat) : Option (Nat × DqEntry) :=
  let x := s.block b
  match x.lect.wait with
  | .entry pos => (x.dq[pos - x.dqBase]?).map fun e => (pos, e)
  | .none => none

/-- The combined value is due: every live thread has issued the UGET (R176). -/
def ugetDue (s : State) (b : Nat) : Bool :=
  match waitEntry s b with
  | some (pos, { kind := .uget _ _, .. }) => allPassed s b pos && !s.lectStopped b
  | _ => false

/-- UGET_COMBINE (R176, R234). -/
def execUgetCombine (b : Nat) (s : State) : Res :=
  if ugetDue s b then
    match waitEntry s b with
    | some (pos, { kind := .uget op w, contrib := l, .. }) => .next (writeEntry s b pos (combine op w l))
    | _ => .next s
  else .next s

/-- The post is due: every live thread has issued it (R235). -/
def postDue (s : State) (b : Nat) : Bool :=
  match waitEntry s b with
  | some (pos, { kind := .post _ _ _, .. }) => allPassed s b pos && !s.lectStopped b
  | _ => false

/-- The status of a POST and the state with the card placed (R235); `hb` is what the posting threads have released (R100). -/
def postCard (s : State) (b : Nat) (card target : DWord) (self : Bool) (hb : View) : State × DWord :=
  let own := coreOfB b
  let d := Config.dieOfCore own
  let c := if self then Config.coreInDie own else (target.setWidth 32 : Word).toNat
  let g := Config.globalCore d c
  if card = 0 ∨ card.toNat % 256 ≠ 0 ∨ 2 ^ 57 ≤ card.toNat then (s, 3)
  else if Config.coresOf d ≤ c then (s, 2)
  else if (s.die d).coreOff.getLsbD c then (s, 2)
  else
    let core := s.core g
    if 16 ≤ core.queue.cards.length then (s, 1)
    else
      (s.setCore g { core with queue := { core.queue with
        cards := core.queue.cards ++ [{ addr := card, asid := s.asidOf b, poster := own, hb := hb, since := s.tick }] } }, 0)

/-- POST_ACT (R235). -/
def execPostAct (b : Nat) (s : State) : Res :=
  if postDue s b then
    match waitEntry s b with
    | some (pos, { kind := .post qa qb self, hb := hb, .. }) =>
      let r := postCard s b qa qb self hb
      .next (writeEntry r.1 b pos r.2)
    | _ => .next s
  else .next s

/-! ## ARRSET -/

/-- An array register with one field replaced, by the field numbers of R218. -/
def ArrayReg.withField (a : ArrayReg) (q : DWord) : Nat → ArrayReg
  | 0 => { a with base := q.setWidth 57 }
  | 2 => { a with extent := q.setWidth 31 }
  | 3 => { a with esize := q.setWidth 2 }
  | 4 => { a with mode := q.getLsbD 0 }
  | _ => { a with pclass := q.setWidth 2 }

/-- ARRSET (R219): executed by the Lectern. -/
def execArrset (n : BitVec 4) (a f : BitVec 6) (s : State) : Res :=
  onUniform s .base ((3, f.toNat == 1 || decide (6 ≤ f.toNat)) :: hintChecks (uniLead s) false false false) none fun s =>
    let old := tabGetD s.lect.a n.toNat {}
    pushEntry s { entryAt s with wa := some (n.toNat, old.withField (lectQ s a.toNat) f.toNat) } false

end Sys2Proof.Machine
end

