-- ==== Sys2Proof/Machine/Tiles.lean ====
section
/-! DEFINITION. Cupboard tiles and distributed shared memory (R268 to R271, R283, R284), and the Lectern's side of the
copy commands (R285 to R294); Engine.lean holds the engine's side. -/

namespace Sys2Proof.Machine

/-! ## LDT and STT -/

/-- STATE of a tile as its code (R268). -/
def TileState.code : TileState → Nat
  | .empty => 0 | .filling => 1 | .ready => 2 | .draining => 3

/-- The tile-state trap of a bundle (R270, R409). -/
def tileTrap (s : State) (n : Nat) (st : TileState) : State :=
  bundleTrap s s.enabled 0x0014 false fun _ =>
    (0, [s.issue.word.setWidth 64, BitVec.ofNat 64 n, BitVec.ofNat 64 st.code,
         BitVec.ofNat 64 (s.blockOf s.leadGroup).rank])

/-- NTILE of the issuing block's grid. -/
def nTileOf (s : State) (b : Nat) : Nat := (s.gridOf b).launch.nTile

/-- The lanes of a tile access (R283, R297). -/
def lanesT (a : BitVec 8) (n size : Nat) (s : State) : List LaneAcc :=
  let b := (s.group s.leadGroup).blk
  let t := s.tile b n
  s.enabled.map fun k =>
    let off := (srcValue s k (s.thread k) false (codeOf a)).toNat
    let pos := BitVec.ofNat 64 (t.start + off)
    if t.bytes < off + size then
      { k := k, addr := pos, bounds := some (pos, BitVec.ofNat 64 (0x100 + n), BitVec.ofNat 64 off) }
    else
      { k := k, addr := pos
        place := if t.vault then .phys (vaultAddr (coreOfB b) (t.start + off)) else .shared b (t.start + off)
        taken := t.taken }

/-- A release of the tile that one of the threads has already passed has not taken effect yet (R270, R290).
DEDUCED (log 24), unsafe. -/
def leaving (s : State) (ks : List Nat) (n : Nat) : Bool :=
  (s.blockOf s.leadGroup).cmds.any fun c => (c.kind == .release || c.kind == .drain) && c.state == .sync && c.dst == n &&
    ks.any fun k => decide (c.pos < viewPos s k (s.thread k))

/-- A thread instruction that names a tile (R270): it waits while the tile fills or a release that comes before it is still
to take effect, and traps while the tile is empty or drains. -/
def onTile (n : Nat) (body : State → State) (s : State) : State :=
  let t := s.tile (s.group s.leadGroup).blk n
  if s.enabled.isEmpty then body s
  else if leaving s s.enabled n then s
  else match t.state with
  | .ready => body s
  | .filling => s
  | st => tileTrap s n st

/-- LDT (R283). -/
def execLdt (d : BitVec 7) (w : BitVec 1) (a : BitVec 8) (z : BitVec 1) (n : BitVec 6) (s : State) : Res :=
  let wide := z == 1
  let size := if wide then 8 else 4
  onThreads s .base .yes ((4, decide (nTileOf s (s.group s.leadGroup).blk ≤ n.toNat)) :: dstChecks s d w wide ++
      srcChecks s a false ++ hintChecks s.lead false false false)
    (onTile n.toNat (doLoad d w wide false size .full [(a, false)] (lanesT a n.toNat size)))

/-- STT (R283). -/
def execStt (d : BitVec 7) (l : BitVec 1) (a : BitVec 8) (z : BitVec 1) (n : BitVec 6) (s : State) : Res :=
  let wide := z == 1
  let size := if wide then 8 else 4
  onThreads s .base .yes ((4, decide (nTileOf s (s.group s.leadGroup).blk ≤ n.toNat)) ::
      srcChecks s (dataField d l) wide ++ srcChecks s a false ++
      hintChecks s.lead false false false)
    (onTile n.toNat (doStore (dataField d l) wide size [(a, false)] (lanesT a n.toNat size)))

/-! ## DSLD and DSST -/

/-- Rank and offset that a lane names (R284). -/
def rankOff (star : BitVec 1) (r : BitVec 4) (x : Nat) : Nat × Nat :=
  if star = 1 then (bitsNat x 31 28, x % 2 ^ 28) else (r.toNat, x)

/-- The block of a rank in a block's cluster: its own where there is none (R41, R284). -/
def rankBlock (s : State) (b rank : Nat) : Option Nat :=
  let x := s.block b
  match x.cluster with
  | none => if rank = 0 then some b else none
  | some c => s.blockOfRank x.gid c rank

/-- Ranks of a block's cluster: 1 in a block grid. -/
def ranksOf (s : State) (b : Nat) : Nat :=
  match (s.block b).cluster with | none => 1 | some _ => (s.gridOf b).launch.clSize

/-- The lanes of a rank access (R284, R297); a rank that has completed is out of bounds (R452). -/
def lanesR (a : BitVec 8) (star : BitVec 1) (r : BitVec 4) (size : Nat) (s : State) : List LaneAcc :=
  let b := (s.group s.leadGroup).blk
  s.enabled.map fun k =>
    let ro := rankOff star r (srcValue s k (s.thread k) false (codeOf a)).toNat
    let off := BitVec.ofNat 64 ro.2
    let out : LaneAcc := { k := k, addr := off, bounds := some (off, BitVec.ofNat 64 (0x200 + ro.1), off) }
    if ranksOf s b ≤ ro.1 ∨ (s.gridOf b).launch.sharedBytes < ro.2 + size then out
    else match rankBlock s b ro.1 with
    | some x => { k := k, addr := off, place := .shared x ro.2 }
    | none => out

/-- Some lane names a rank that has not started (R119, R284). -/
def rankWaits (a : BitVec 8) (star : BitVec 1) (r : BitVec 4) (s : State) : Bool :=
  let b := (s.group s.leadGroup).blk
  s.enabled.any fun k =>
    let ro := rankOff star r (srcValue s k (s.thread k) false (codeOf a)).toNat
    decide (ro.1 < ranksOf s b) && (match rankBlock s b ro.1 with | some x => !(s.block x).started && x != b | none => false)

/-- DSLD (R284). -/
def execDsld (d : BitVec 7) (w : BitVec 1) (a : BitVec 8) (z k : BitVec 1) (r : BitVec 4) (s : State) : Res :=
  let wide := z == 1
  let size := if wide then 8 else 4
  onThreads s .base .yes (dstChecks s d w wide ++ srcChecks s a false ++
      hintChecks s.lead false false false) fun s =>
    if rankWaits a k r s then s
    else doLoad d w wide false size .full [(a, false)] (lanesR a k r size) s

/-- DSST (R284). -/
def execDsst (d : BitVec 7) (l : BitVec 1) (a : BitVec 8) (z k : BitVec 1) (r : BitVec 4) (s : State) : Res :=
  let wide := z == 1
  let size := if wide then 8 else 4
  onThreads s .base .yes (srcChecks s (dataField d l) wide ++ srcChecks s a false ++
      hintChecks s.lead false false false) fun s =>
    if rankWaits a k r s then s
    else doStore (dataField d l) wide size [(a, false)] (lanesR a k r size) s

/-! ## Lectern commands in format E -/

/-- Check of X (R285): q0 to q15 without last use, or `%zero` where allowed; even for a pair. -/
def xCheck (x : BitVec 8) (pair zeroOk : Bool) : Nat × Bool :=
  (4, lastOf x || !((decide (100 ≤ codeOf x) && decide (codeOf x < 116) && (!pair || codeOf x % 2 == 0)) ||
    (zeroOk && codeOf x == 127)))

/-- The Lectern's value of X. -/
def xVal (s : State) (x : BitVec 8) : DWord := if codeOf x = 127 then 0 else lectQ s (codeOf x - 100)

/-- The second member of the pair that X names. -/
def xVal1 (s : State) (x : BitVec 8) : DWord := lectQ s (codeOf x - 99)

/-- A block trap at the Lectern's instruction (R233, R288). -/
def lectTrap (s : State) (code : Nat) (resumable : Bool) (info : List DWord) : State :=
  blockTrap s s.issueBlock code resumable s.issue.pc 0 (s.issue.word.setWidth 64 :: info)

/-- The tensor-identifier fault of a Lectern command (R285). -/
def lectTensorFault (s : State) (n : Nat) : State := lectTrap s 0x0013 false [BitVec.ofNat 64 n]

/-- The copy-descriptor fault (R288). -/
def lectDescFault (s : State) (n : Nat) : State := lectTrap s 0x0021 false [BitVec.ofNat 64 n]

/-- The tile-state trap of a Lectern command (R269). -/
def lectTileTrap (s : State) (n : Nat) (st : TileState) (rank : Nat) : State :=
  lectTrap s 0x0014 false [BitVec.ofNat 64 n, BitVec.ofNat 64 st.code, BitVec.ofNat 64 rank]

/-- The Lectern issues a command: an entry of the decision queue, and the command in the block's stream. -/
def issueCmd (s : State) (kind : UniKind) (sync : Bool) (c : Cmd) (wq : Option Nat := none) : State :=
  let b := s.block s.issueBlock
  let pos := b.dqBase + b.dq.length
  let s1 := pushEntry s { entryAt s with kind := kind, wq := wq.map fun q => (q, none) } sync
  s1.modBlock s.issueBlock fun x => { x with cmds := x.cmds ++
    [{ c with pos := pos, state := if sync then .sync else c.state, word := s.issue.word, pc := s.issue.pc
              matrix := kind == .matrix }] }

/-- A command before it is issued. -/
def newCmd (kind : CmdKind) : Cmd := { kind := kind, state := .ready, word := 0, pc := 0, pos := 0 }

/-- A command uses a tile of the block: its entry is not released before it ends (R290, R313, R334). -/
def Cmd.uses (c : Cmd) (n : Nat) : Bool :=
  match c.kind with
  | .mcast => c.dst == n
  | .sbsend => c.dst == n
  | .sbmrg => c.dst == n
  | .kvpk => c.dst == n
  | .kvunp => c.dst == n
  | .psel => c.dst == n || c.src == n
  | .mmat => bitsNat c.d0.toNat 5 0 == n || bitsNat c.d0.toNat 13 8 == n || bitsNat c.d0.toNat 21 16 == n
  | _ => false

/-- TACQ without fill (R289). -/
def execTacq (x : BitVec 8) (p : BitVec 1) (n : BitVec 6) (s : State) : Res :=
  onUniform s .base (xCheck x false false :: (4, decide (nTileOf s s.issueBlock ≤ n.toNat)) ::
      hintChecks (uniLead s) false false false) none fun s =>
    let b := s.issueBlock
    let q := (xVal s x).toNat
    let t := s.tile b n.toNat
    if t.state ≠ .empty then lectTileTrap s n.toNat t.state (s.block b).rank
    else if q / 2 ^ 32 ≠ 0 ∨ regionOk (s.gridOf b).launch.sharedBytes (p = 1) (q % 2 ^ 16) (bitsNat q 31 16) = false then
      lectDescFault s 0
    else
      let t1 := { t with state := .ready, vault := p = 1, offset := BitVec.ofNat 16 q, len := BitVec.ofNat 16 (q / 2 ^ 16), taken := 0 }
      pushEntry (takeTile s b n.toNat t1) (entryAt s) false

/-- TACQ.fill (R289). -/
def execTacqFill (i x : BitVec 8) (p : BitVec 1) (n : BitVec 6) (s : State) : Res :=
  onUniform s .base (xCheck x true false :: (4, decide (nTileOf s s.issueBlock ≤ n.toNat)) ::
      hintChecks (uniLead s) false false false) none fun s =>
    let b := s.issueBlock
    let q := (xVal s x).toNat
    let disp := xVal1 s x
    let t := s.tile b n.toNat
    match tensorAt s b i.toNat with
    | none => lectTensorFault s i.toNat
    | some ten =>
      if t.state ≠ .empty then lectTileTrap s n.toNat t.state (s.block b).rank
      else if q / 2 ^ 32 ≠ 0 ∨ regionOk (s.gridOf b).launch.sharedBytes (p = 1) (q % 2 ^ 16) (bitsNat q 31 16) = false ∨
          bitsNat q 31 16 * 256 < ten.rb * ten.rows ∨ ten.fits disp = false then lectDescFault s i.toNat
      else
        let t1 : Tile := { state := .filling, vault := p = 1, offset := BitVec.ofNat 16 q
                           len := BitVec.ofNat 16 (q / 2 ^ 16), tid := i }
        issueCmd (takeTile s b n.toNat t1) .copy false
          { (newCmd .fill) with src := i.toNat, dst := n.toNat, d0 := disp }

/-- TREL (R290): it waits for a filling tile, and takes effect once the threads have passed it. -/
def execTrel (n : BitVec 6) (s : State) : Res :=
  onUniform s .base ((4, decide (nTileOf s s.issueBlock ≤ n.toNat)) :: hintChecks (uniLead s) false false false) none
    fun s =>
      let t := s.tile s.issueBlock n.toNat
      match t.state with
      | .filling => s
      | .ready => issueCmd s .plain true { (newCmd .release) with dst := n.toNat }
      | st => lectTileTrap s n.toNat st (s.block s.issueBlock).rank

/-- TREL.wb (R290). -/
def execTrelWb (i x : BitVec 8) (n : BitVec 6) (s : State) : Res :=
  onUniform s .base (xCheck x false false :: (4, decide (nTileOf s s.issueBlock ≤ n.toNat)) ::
      hintChecks (uniLead s) false false false) none fun s =>
    let b := s.issueBlock
    let t := s.tile b n.toNat
    match tensorAt s b i.toNat with
    | none => lectTensorFault s i.toNat
    | some ten =>
      match t.state with
      | .filling => s
      | .ready =>
        if t.bytes < ten.rb * ten.rows ∨ ten.fits (xVal s x) = false then lectDescFault s i.toNat
        else issueCmd s .copy true { (newCmd .drain) with src := i.toNat, dst := n.toNat, d0 := xVal s x }
      | st => lectTileTrap s n.toNat st (s.block b).rank

/-- Two boxes agree for COPY (R291). -/
def sameBox (a b : Tensor) : Bool := a.etype == b.etype && a.fmt == b.fmt && a.ndim == b.ndim && a.ext == b.ext

/-- COPY and COPYM beside the follow-on (R291). -/
def execCopyAs (kind : CmdKind) (more : List (Nat × Bool)) (i x : BitVec 8) (y : BitVec 1) (s : State) : Res :=
  let l := ((uniLead s).lit.map (·.toNat)).getD 0
  onUniform s .base (xCheck x true false :: (3, decide (256 ≤ l)) :: more ++ hintChecks (uniLead s) true true false) none
    fun s =>
      let b := s.issueBlock
      match tensorAt s b i.toNat, tensorAt s b l with
      | none, _ => lectTensorFault s i.toNat
      | _, none => lectTensorFault s l
      | some src, some dst =>
        if sameBox src dst && src.fits (xVal s x) && dst.fits (xVal1 s x) then
          issueCmd s .copy (y = 1) { (newCmd kind) with src := i.toNat, dst := l, d0 := xVal s x, d1 := xVal1 s x }
        else lectDescFault s (if src.fits (xVal s x) then l else i.toNat)

/-- COPY (R291). -/
def execCopy (i x : BitVec 8) (y : BitVec 1) (s : State) : Res := execCopyAs .copy [] i x y s

/-- The opcode of the next non-hint word in code order from an address (R292), of at most `n` words; none where the code cannot
be read. -/
def nextOpcode (s : State) (asid : BitVec 6) : Nat → DWord → Option Nat
  | 0, _ => none
  | n + 1, pc =>
    match readVirt s asid pc .fetch 4 with
    | .error _ => none
    | .ok w => if 0xE0 ≤ w / 2 ^ 24 ∧ w / 2 ^ 24 ≤ 0xE7 then nextOpcode s asid n (pc + 4) else some (w / 2 ^ 24)

/-- COPYM (R292): the follow-on must be MMAT or MMAT.nf. -/
def execCopym (i x : BitVec 8) (y : BitVec 1) (s : State) : Res :=
  let asid := s.asidOf (if s.issue.agent = .lectern then s.issueBlock else (s.group s.leadGroup).blk)
  let bad := match nextOpcode s asid (2 ^ 30) (s.issue.pc + 4) with
    | some op => op != 0xA4 && op != 0xA6
    | none => false
  execCopyAs .copym [(3, bad)] i x y s

/-- The first rank whose tile meets a test, for an MCAST (R293): its rank and tile; a rank that has completed has an empty tile
(R452). -/
def mcastBad (s : State) (b n : Nat) (test : Tile → Bool) : Option (Nat × Tile) :=
  ((List.range (ranksOf s b)).map fun r => (r, ((rankBlock s b r).map fun x => s.tile x n).getD {})).find? fun e => test e.2

/-- An MCAST cannot write a tile: it is not ready, or lies in the vault (R293). -/
def Tile.noCast (t : Tile) : Bool := t.state != .ready || t.vault

/-- Ranks that have not started are waited for (R119). -/
def ranksStarted (s : State) (b n : Nat) : Bool :=
  (List.range n).all fun r => match rankBlock s b r with | some x => x == b || (s.block x).started | none => true

/-- MCAST (R293). -/
def execMcast (i x : BitVec 8) (y : BitVec 1) (n : BitVec 6) (s : State) : Res :=
  onUniform s .base (xCheck x false false :: (4, decide (nTileOf s s.issueBlock ≤ n.toNat)) ::
      hintChecks (uniLead s) false false false) none fun s =>
    let b := s.issueBlock
    match tensorAt s b i.toNat with
    | none => lectTensorFault s i.toNat
    | some ten =>
      if !ranksStarted s b (ranksOf s b) then s
      else match mcastBad s b n.toNat Tile.noCast with
      | some (r, t) => lectTileTrap s n.toNat t.state r
      | none =>
        match mcastBad s b n.toNat fun t => decide (t.bytes < ten.rb * ten.rows) with
        | some _ => lectDescFault s i.toNat
        | none =>
          if ten.fits (xVal s x) then
            issueCmd s .copy (y = 1) { (newCmd .mcast) with src := i.toNat, dst := n.toNat, d0 := xVal s x }
          else lectDescFault s i.toNat

/-- PFX (R294): it changes no value and counts as nothing. -/
def execPfx (i x : BitVec 8) (s : State) : Res :=
  onUniform s .base (xCheck x false false :: hintChecks (uniLead s) false false false) none fun s =>
    match tensorAt s s.issueBlock i.toNat with
    | none => lectTensorFault s i.toNat
    | some _ => pushEntry s (entryAt s) false

def execPfxL2 (i x : BitVec 8) (s : State) : Res := execPfx i x s
def execPfxVault (i x : BitVec 8) (s : State) : Res := execPfx i x s

end Sys2Proof.Machine
end

