-- ==== Sys2Proof/Machine/Attention.lean ====
section
/-! DEFINITION. Attention (R319 to R344): slab records, the translation of tokens, online-softmax arithmetic, the Sideboard,
page selection, packing and unpacking, and the relocation of a slab. Engine.lean starts and completes the commands. -/

namespace Sys2Proof.Machine

/-! ## Slab records -/

/-- A slab record as its 512 bits (R319). -/
abbrev Slab := Nat

def Slab.base (r : Slab) : Nat := bitsNat r 56 0
def Slab.oldBase (r : Slab) : Nat := bitsNat r 120 64
def Slab.len (r : Slab) : Nat := bitsNat r 191 128
def Slab.wmark (r : Slab) : Nat := bitsNat r 223 192
def Slab.lockc (r : Slab) : Nat := bitsNat r 255 224
def Slab.capl (r : Slab) : Nat := bitsNat r 260 256
def Slab.ocapl (r : Slab) : Nat := bitsNat r 268 264
def Slab.streaming (r : Slab) : Bool := bitNat r 272
def Slab.moving (r : Slab) : Bool := bitNat r 273
def Slab.paged (r : Slab) : Bool := bitNat r 274
def Slab.wl (r : Slab) : Nat := bitsNat r 284 280
def Slab.sink (r : Slab) : Nat := bitsNat r 319 288
def Slab.ch (r : Slab) : Nat := bitsNat r 335 320
def Slab.etype (r : Slab) : Nat := bitsNat r 343 336
def Slab.fmt (r : Slab) : Half := BitVec.ofNat 16 (bitsNat r 367 352)
def Slab.tstr (r : Slab) : Nat := bitsNat r 415 384

/-- LOCKC of no chunk (R319). -/
def noLock : Nat := 0xFFFFFFFF

/-- A number with the `n` bits from `lo` replaced. -/
def putBits (x lo n v : Nat) : Nat := x - bitsNat x (lo + n - 1) lo * 2 ^ lo + v % 2 ^ n * 2 ^ lo

/-- RB: bytes of one token's row (R319). -/
def Slab.rb (r : Slab) : Nat := rowBytes r.etype r.fmt r.ch

/-- PGB: bytes of a KV page (R323). -/
def Slab.pgb (r : Slab) : Nat := pageBytes r.ch r.rb

/-- The offset of the first field of a record that is out of its limits, or none: the record is valid (R319). A streaming
record whose S + W exceeds the capacity fails at SINK. -/
def Slab.bad (r : Slab) : Option Nat :=
  let streamWl := decide (6 ≤ r.wl) && decide (r.wl ≤ 24)
  let etypeOk := r.etype == 12 || (!r.paged && (r.etype == 8 || r.etype == 9))
  let fmtOk := if r.etype = 12 then (nfOf r.fmt).valid else r.fmt == 0
  firstOf [ (0x00, r.base % 128 != 0), (0x18, r.wmark % 64 != 0), (0x20, decide (r.capl < 8) || decide (24 < r.capl)),
    (0x23, if r.streaming then !streamWl else r.wl != 0),
    (0x24, if r.streaming then r.sink % 64 != 0 || decide (2 ^ r.capl < r.sink + 2 ^ r.wl) else r.sink != 0),
    (0x28, r.ch % 16 != 0 || decide (r.ch < 16) || decide (512 < r.ch)), (0x2A, !etypeOk), (0x2C, !fmtOk),
    (0x30, if r.paged then r.tstr != 0 else r.tstr % 16 != 0 || decide (r.tstr < r.rb)) ]
where
  /-- The first offset whose test fails. -/
  firstOf (l : List (Nat × Bool)) : Option Nat := (l.find? (·.2)).map (·.1)

/-- The slot of a token (R322): none beyond a retrieval head's capacity. -/
def Slab.slot (r : Slab) (t : Nat) : Option Nat :=
  if r.streaming then some (if t < r.sink then t else r.sink + t % 2 ^ r.wl)
  else if t < 2 ^ r.capl then some t else none

/-- The base for a slot (R328): none while its chunk is locked. -/
def Slab.baseFor (r : Slab) (x : Nat) : Option Nat :=
  if !r.moving || decide (2 ^ r.ocapl ≤ x) || decide (x < r.wmark) then some r.base
  else if r.lockc ≤ x ∧ x < r.lockc + 64 then none
  else some r.oldBase

/-- Offset of a slot's row, and of its page (R323). -/
def Slab.rowOff (r : Slab) (x : Nat) : Nat :=
  if r.paged then x / 64 * r.pgb + 6 * r.ch + x % 64 * r.rb else x * r.tstr
def Slab.pageOff (r : Slab) (x : Nat) : Nat := x / 64 * r.pgb

/-- Bytes of a region of 2^c tokens (R323). -/
def Slab.regionBytes (r : Slab) (c : Nat) : Nat := if r.paged then 2 ^ (c - 6) * r.pgb else 2 ^ c * r.tstr

/-- Reads a record: one 64-byte read (R320). -/
def readSlab (s : State) (asid : BitVec 6) (a : DWord) : Except (DWord × Nat) Slab := readClean s asid a .load 64

/-- Updates a record: one 64-byte write (R320). -/
def writeSlab (s : State) (asid : BitVec 6) (a : DWord) (r : Slab) : Except (DWord × Nat) State :=
  writeClean s asid a .store 64 r

/-! ## SLXL -/

/-- What a lane of an SLXL meets (R321, R322, R328, R339): its address, a locked chunk, or a fault: of the read of the record, of
the record at an offset, or of its token. -/
inductive SlxlLane where
  | address (a : DWord)
  | locked
  | page (a : DWord) (reason : Nat)
  | descriptor (off : Nat) (recAt : DWord)
  | range (token : Nat) (recAt : DWord)
  deriving DecidableEq, Repr

/-- The address that a valid record gives a token (R322, R323, R328). -/
def slxlAddress (r : Slab) (page : Bool) (token : Nat) (recAt : DWord) : SlxlLane :=
  match r.slot token with
  | none => .range token recAt
  | some x => match r.baseFor x with
    | none => .locked
    | some b => .address (BitVec.ofNat 64 (b + (if page then r.pageOff x else r.rowOff x)))

/-- A lane of an SLXL: the record of its own kN, at its uniform position (R175, R321, R339). -/
def slxlLane (s : State) (page : Bool) (n : Nat) (token : Nat → Nat) (k : Nat) : SlxlLane :=
  let b := (s.group (grpOf k)).blk
  match (s.block b).kView (viewPos s k (s.thread k)) n with
  | none => .descriptor 0xFFFF 0
  | some addr =>
    match readSlab s (s.asidOf b) addr with
    | .error (x, r) => .page x r
    | .ok r =>
      match Slab.bad r with
      | some off => .descriptor off addr
      | none => if page && !Slab.paged r then .descriptor 0x22 addr else slxlAddress r page (token k) addr

/-- The trap of an SLXL whose lanes meet faults (R337): the reads of records first, then the records, then the tokens; the record of
a page fault describes the lane at the group's lowest faulting address (R129), the others the group's lowest lane.
DESIGN CHOICE (log 68), unsafe. -/
def slxlTrap (s : State) (n : Nat) (found : List (Nat × SlxlLane)) : Option State :=
  let word : DWord := s.issue.word.setWidth 64
  let trap := fun (l : List (Nat × DWord × List DWord)) (code : Nat) (resumable : Bool) =>
    bundleTrap s (l.map (·.1)) code resumable fun g =>
      match firstBy (fun e : Nat × DWord × List DWord => [e.2.1.toNat, (e.2.2.headD 0).toNat, e.1])
        (l.filter fun e => grpOf e.1 == g) with
      | some (_, a, info) => (a, word :: info)
      | none => (0, [])
  let pages := found.filterMap fun e => match e.2 with | .page a r => some (e.1, a, r) | _ => none
  let descs := found.filterMap fun e => match e.2 with | .descriptor o a => some (e.1, (0 : DWord), [BitVec.ofNat 64 n, BitVec.ofNat 64 o, a]) | _ => none
  let ranges := found.filterMap fun e => match e.2 with | .range t a => some (e.1, (0 : DWord), [BitVec.ofNat 64 n, BitVec.ofNat 64 t, a]) | _ => none
  match pages.find? fun e => e.2.2 == poisonReason with
  | some (k, a, _) => some (poisonKill s (s.blockOf (grpOf k)).gid a.toNat)
  | none =>
    if !pages.isEmpty then some (trap (pages.map fun e => (e.1, e.2.1, [BitVec.ofNat 64 e.2.2, 4])) 0x0012 true)
    else if !descs.isEmpty then some (trap descs 0x0040 false)
    else if !ranges.isEmpty then some (trap ranges 0x0041 true)
    else none

/-- The enabled lanes have read their records (R320, R454). -/
def slxlReads (s : State) (n : Nat) : State :=
  if s.weak.isEmpty then s else
  s.enabled.foldl (fun u k =>
    let b := (s.group (grpOf k)).blk
    match (s.block b).kView (viewPos s k (s.thread k)) n with
    | some addr => meets u (s.asidOf b) .load [(addr, 64)]
    | none => u) s

/-- SLXL of either form (R339). -/
def execSlxlAs (page : Bool) (d : BitVec 7) (w : BitVec 1) (a : BitVec 8) (n : BitVec 4) (s : State) : Res :=
  onThreads s .attention .yes (dstChecks s d w true ++ srcChecks s a false ++
      hintChecks s.lead false false false) fun s =>
    let token := fun t : Nat => (srcValue s t (s.thread t) false (codeOf a)).toNat
    let found := s.enabled.map fun k => (k, slxlLane s page n.toNat token k)
    match slxlTrap s n.toNat found with
    | some t => t
    | none =>
      if (found.any fun e => e.2 = SlxlLane.locked) || acquiring s then s
      else giveResult (useFields (slxlReads s n.toNat) [(a, false)]) d w true (fun k _ => match (found.find? fun e => e.1 == k).map (·.2) with
        | some (SlxlLane.address x) => x
        | _ => 0) .full

/-- SLXL (R339). -/
def execSlxl (d : BitVec 7) (w : BitVec 1) (a : BitVec 8) (n : BitVec 4) (s : State) : Res := execSlxlAs false d w a n s
/-- SLXL.pg (R339). -/
def execSlxlPg (d : BitVec 7) (w : BitVec 1) (a : BitVec 8) (n : BitVec 4) (s : State) : Res := execSlxlAs true d w a n s

/-! ## Softmax arithmetic -/

/-- A single-precision value and its pattern. -/
def f32v (x : Nat) : Fl := f32.decode (x % 2 ^ 32)
/-- Rounded to nearest even in single precision. -/
def f32r (v : Fl) : Nat := f32.round .rn 0 v

/-- a × b, rounded, and a × b + c, rounded once. -/
def f32Mul (a b : Nat) : Nat := f32r ((f32v a).mul (f32v b))
def f32Fma (a b c : Nat) : Nat := f32r (((f32v a).mul (f32v b)).add .rn (f32v c))

/-- The canonical NaN, +0, 1.0, −∞ in single precision. -/
def nan32 : Nat := 0x7FC00000
def one32 : Nat := 0x3F800000
def negInf32 : Nat := 0xFF800000

/-- The weight E(x, m) (R331). -/
def softWeight (x m : Nat) : Nat :=
  match f32v m, f32v x with
  | .inf true, _ => 0
  | vm, vx =>
    if vx.cmp vm = 0 then one32
    else if vm = .inf false ∨ vx = .inf true then 0
    else FunOp.run f32 .ex2 (f32Mul (f32r (vx.add .rn vm.neg)) 0x3FB8AA3B)

/-- The outcome of MERGE (R332): m, l, α1, α2, and flags. -/
structure Merged where
  m : Nat
  l : Nat
  a1 : Nat
  a2 : Nat
  flags : BitVec 6
  deriving DecidableEq, Repr

/-- MERGE (R332). -/
def softMerge (m1 l1 m2 l2 : Nat) : Merged :=
  if [m1, l1, m2, l2].any fun x => (f32v x).isNan then ⟨nan32, nan32, nan32, nan32, fSmnan⟩
  else
    let m := f32r ((f32v m1).pick true (f32v m2))
    let a1 := softWeight m1 m
    let a2 := softWeight m2 m
    let l := f32Fma l1 a1 (f32Mul l2 a2)
    if (f32v l).isNan then ⟨nan32, nan32, nan32, nan32, fSmnan ||| fInv⟩ else ⟨m, l, a1, a2, 0⟩

/-- A merged accumulator element of the Sideboard, with flags (R332). -/
def mergeAcc (r : Merged) (x y : Nat) : Nat × BitVec 6 :=
  if r.flags ≠ 0 then (nan32, 0)
  else
    let v := f32Fma x r.a1 (f32Mul y r.a2)
    let read := [x, y, r.a1, r.a2].any fun z => (f32v z).isNan
    (v, if (f32v v).isNan && !read then fInv ||| fSmnan else 0)

/-- Quotient of two finite values, b not zero, with a sticky bit below at least 80 bits. -/
def Fl.divFin (an : Bool) (am : Nat) (ae : Int) (bn : Bool) (bm : Nat) (be : Int) : Fl :=
  let k := natLen bm + 80
  let q := am * 2 ^ k / bm
  let rest := am * 2 ^ k % bm
  .fin (an != bn) (2 * q + (if rest = 0 then 0 else 1)) (ae - be - (k : Int) - 1)

/-- a ÷ b for values that are not NaN (R61). -/
def Fl.div : Fl → Fl → Fl
  | .nan, _ => .nan
  | _, .nan => .nan
  | .inf _, .inf _ => .nan
  | .inf a, .fin b _ _ => .inf (a != b)
  | .fin a _ _, .inf b => .fin (a != b) 0 0
  | .fin a m e, .fin b n d =>
    if n = 0 then (if m = 0 then .nan else .inf (a != b))
    else if m = 0 then .fin (a != b) 0 0 else .divFin a m e b n d

/-- Final normalisation (R333): the result and flags. -/
def normalise (a m l : Nat) : Nat × BitVec 6 :=
  if (f32v m).isNan || (f32v l).isNan then (nan32, fSmnan)
  else if l % 2 ^ 31 = 0 then (0, fEmpty)
  else
    let q := (f32v a).div (f32v l)
    (f32r q, if q.isNan && !(f32v a).isNan then fInv ||| fSmnan else 0)

/-! ## OSM and OSMN -/

/-- Checks of the register fields of OSM and OSMN (R340, R341), with the waits for them; `wide`: the result is a pair. -/
def osmChecks (s : State) (r st : BitVec 7) (wide : Bool) : List (Nat × Bool) :=
  let n := r.toNat
  let m := st.toNat
  let size := if wide then 2 else 1
  let past := fun (x : Nat) (pair : Bool) =>
    decide (x < 96) && (decide (s.regMax ≤ x) || (pair && x % 2 == 0 && decide (s.regMax ≤ x + 1)))
  [ (4, decide (96 ≤ n) || decide (96 ≤ m) || (decide (n < m + 2) && decide (m < n + size))),
    (6, (wide && n % 2 == 1) || m % 2 == 1), (5, past n wide || past m true),
    (waitMark, srcHeld s true m || dstHeld s true m || dstHeld s wide n) ]

/-- Flags of the enabled members into their groups (R62). -/
def flagMembers (s : State) (f : Nat → BitVec 6) : State :=
  overGroups s s.enabled fun g x => (s.enabled.filter fun k => grpOf k == g).foldl (fun x k => x.flag (f k)) x

/-- Low and high halves of a pair. -/
def loHalf (x : DWord) : Nat := x.toNat % 2 ^ 32
def hiHalf (x : DWord) : Nat := x.toNat / 2 ^ 32

/-- OSM of either form (R340), its arithmetic checked (R456); `other` gives (m2, l2) from the value of X. -/
def execOsmAs (wideX : Bool) (other : DWord → Nat × Nat) (r : BitVec 7) (x : BitVec 8) (st : BitVec 7) (s : State) : Res :=
  onThreads s .attention .yes (osmChecks s r st true ++ srcChecks s x wideX ++
      hintChecks s.lead false false false) <| residueChecked s.issue.core fun s =>
    let step := fun k : Nat =>
      let t := s.thread k
      let o := other (srcValue s k t wideX (codeOf x))
      softMerge (t.reg st.toNat).toNat (t.reg (st.toNat + 1)).toNat o.1 o.2
    let pair := fun lo hi : Nat => (BitVec.ofNat 32 hi ++ BitVec.ofNat 32 lo : DWord)
    let s1 := flagMembers (useFields s [(x, wideX)]) fun k => (step k).flags
    let s2 := putResult s1 s.enabled st 0 true (fun k _ => pair (step k).m (step k).l) fun _ => .full
    let s3 := putResult s2 s.enabled r 0 true (fun k _ => pair (step k).a1 (step k).a2) fun _ => .full
    closeRegions (advanceNone s3) s.members

/-- OSM (R340). -/
def execOsm (r : BitVec 7) (x : BitVec 8) (st : BitVec 7) (s : State) : Res :=
  execOsmAs false (fun v => (loHalf v, one32)) r x st s
/-- OSM.mrg (R340). -/
def execOsmMrg (r : BitVec 7) (x : BitVec 8) (st : BitVec 7) (s : State) : Res :=
  execOsmAs true (fun v => (loHalf v, hiHalf v)) r x st s

/-- OSMN (R341), its arithmetic checked (R456). DEDUCED (log 18), unsafe. -/
def execOsmn (d : BitVec 7) (x : BitVec 8) (st : BitVec 7) (s : State) : Res :=
  onThreads s .attention .yes (osmChecks s d st false ++ srcChecks s x false ++
      hintChecks s.lead false false false) <| residueChecked s.issue.core fun s =>
    let step := fun k : Nat =>
      let t := s.thread k
      normalise (loHalf (srcValue s k t false (codeOf x))) (t.reg st.toNat).toNat (t.reg (st.toNat + 1)).toNat
    let s1 := flagMembers (useFields s [(x, false)]) fun k => (step k).2
    giveResult s1 d 0 false (fun k _ => BitVec.ofNat 64 (step k).1) .full

/-! ## Lectern commands -/

/-- The slab-descriptor fault of a Lectern command (R337). -/
def lectSlabFault (s : State) (n off : Nat) (a : DWord) : State :=
  lectTrap s 0x0040 false [BitVec.ofNat 64 n, BitVec.ofNat 64 off, a]

/-- The Sideboard fault of a Lectern command (R337). -/
def lectSideboardFault (s : State) (cause rank : Nat) : State :=
  lectTrap s 0x0042 false [0, BitVec.ofNat 64 cause, BitVec.ofNat 64 rank]

/-- The Lectern's binding of kn. -/
def lectK (s : State) (n : Nat) : Option DWord := tabGet s.lect.k n

/-- A slab command that names a bound kN (R338). DEDUCED (log 14), unsafe. -/
def onSlab (n : Nat) (s : State) (body : DWord → State) : State :=
  match lectK s n with
  | none => lectSlabFault s n 0xFFFF 0
  | some a => body a

/-- SLSET (R338): it binds or unbinds kN; `%zero` unbinds. -/
def execSlset (n : BitVec 4) (x : BitVec 8) (s : State) : Res :=
  onUniform s .attention (xCheck x false true :: hintChecks (uniLead s) false false false) none fun s =>
    let a := xVal s x
    let unbind := codeOf x == 127
    if !unbind && (a.toNat % 64 != 0 || decide (2 ^ 57 ≤ a.toNat)) then lectSlabFault s n.toNat 0xFFFF a
    else
      let b := s.issueBlock
      let pos := (s.block b).dqBase + (s.block b).dq.length
      let s1 := pushEntry s { entryAt s with wk := some (n.toNat, if unbind then none else some a) } true
      s1.modBlock b fun y => { y with cmds := y.cmds ++
        [{ (newCmd .slset) with state := .sync, pos := pos, word := s.issue.word, pc := s.issue.pc }] }

/-- SLAPP (R338): its update acts at its SYNC start. -/
def execSlapp (n : BitVec 4) (x : BitVec 8) (d : BitVec 6) (s : State) : Res :=
  onUniform s .attention (xCheck x false false :: hintChecks (uniLead s) false false false) none fun s =>
    onSlab n.toNat s fun a =>
      if 2 ^ 32 ≤ (xVal s x).toNat then lectSlabFault s n.toNat 0xFFFF a
      else issueCmd s .plain true { (newCmd .slapp) with src := n.toNat, slab := a, d0 := xVal s x, dst := d.toNat }
        (some d.toNat)

/-- SLGROW (R338): it acts at its SYNC start. -/
def execSlgrow (n : BitVec 4) (x : BitVec 8) (d : BitVec 6) (s : State) : Res :=
  onUniform s .attention (xCheck x false false :: hintChecks (uniLead s) false false false) none fun s =>
    onSlab n.toNat s fun a =>
      if (xVal s x).toNat % 16 ≠ 0 then lectSlabFault s n.toNat 0xFFFF a
      else issueCmd s .plain true { (newCmd .slgrow) with src := n.toNat, slab := a, d0 := xVal s x, dst := d.toNat }
        (some d.toNat)

/-- Rows and channels that a Sideboard command's operand names, if it is well formed (R342). -/
def sideShape (q : DWord) : Option (Nat × Nat) :=
  let x := q.toNat
  let nr := x % 128
  let dv := bitsNat x 25 16
  if x = nr + dv * 2 ^ 16 ∧ 1 ≤ nr ∧ nr ≤ 64 ∧ dv % 16 = 0 ∧ 16 ≤ dv ∧ dv ≤ 512 then some (nr, dv) else none

/-- Bytes of a partial (R334). -/
def partialBytes (nr dv : Nat) : Nat := 8 * nr + 4 * nr * dv

/-- The cluster of a block. -/
def clusterOf (s : State) (b : Nat) : Cluster :=
  let x := s.block b
  match x.cluster with | some c => tabGetD s.clusters (clKey x.gid c) {} | none => {}

/-- A tile that a command needs: ready, and of a size; else the trap (R336). -/
def onReadyTile (s : State) (n bytes : Nat) (body : State) : State :=
  let b := s.issueBlock
  let t := s.tile b n
  if t.state ≠ .ready then lectTileTrap s n t.state (s.block b).rank
  else if t.bytes < bytes then lectDescFault s (bitsNat s.issue.word.toNat 23 16)
  else body

/-- What an SBSEND or an SBMRG needs to be executed (R342): else the fault. -/
def onSide (merge : Bool) (n : Nat) (q : DWord) (s : State) (body : Nat → Nat → Channel → State) : State :=
  let b := s.issueBlock
  let y := s.block b
  match sideShape q with
  | none => lectSlabFault s n 0xFFFF 0
  | some (nr, dv) =>
    match (clusterOf s b).channel with
    | none => lectSideboardFault s 0 y.rank
    | some ch =>
      if merge && y.rank != 0 then lectSideboardFault s 1 y.rank
      else onReadyTile s n (partialBytes nr dv) (body nr dv ch)

/-- SBSEND and SBMRG (R342): checks, and the command; an SBSEND of a later round stalls (R334). -/
def execSide (merge norm : Bool) (n : BitVec 6) (x : BitVec 8) (s : State) : Res :=
  onUniform s .attention (xCheck x false false :: (4, decide (nTileOf s s.issueBlock ≤ n.toNat)) ::
      hintChecks (uniLead s) false false false) none fun s =>
    onSide merge n.toNat (xVal s x) s fun _ _ ch =>
      let b := s.issueBlock
      if !merge && decide (ch.round < (s.block b).sbSent) then s
      else
        let s1 := issueCmd s .copy true { (newCmd (if merge then .sbmrg else .sbsend)) with
          dst := n.toNat, d0 := xVal s x, flag := norm }
        if merge then s1 else s1.modBlock b fun y => { y with sbSent := y.sbSent + 1 }

/-- SBSEND (R342). -/
def execSbsend (n : BitVec 6) (x : BitVec 8) (s : State) : Res := execSide false false n x s
/-- SBMRG (R342). -/
def execSbmrg (n : BitVec 6) (x : BitVec 8) (m : BitVec 1) (s : State) : Res := execSide true (m = 1) n x s

/-- PSEL's operands (R343): query tile, output tile, k, first page, page count; none for a bit or field out of range. -/
def pselArgs (q0 q1 : DWord) : Option (Nat × Nat × Nat × Nat × Nat) :=
  let x := q0.toNat
  let y := q1.toNat
  let k := bitsNat x 22 16
  let np := bitsNat y 44 32
  let used := x % 64 + bitsNat x 13 8 * 2 ^ 8 + k * 2 ^ 16
  if x = used ∧ y = y % 2 ^ 32 + np * 2 ^ 32 ∧ 1 ≤ k ∧ k ≤ 64 ∧ np ≤ 4096 then
    some (x % 64, bitsNat x 13 8, k, y % 2 ^ 32, np) else none

/-- PSEL (R343): the command; the record's checks follow when it runs. -/
def execPsel (n : BitVec 4) (x : BitVec 8) (s : State) : Res :=
  let ntile := nTileOf s s.issueBlock
  let q0 := (xVal s x).toNat
  let tilesBad := seesLectern s && (xCheck x true false).2 == false &&
    (decide (ntile ≤ bitsNat q0 5 0) || decide (ntile ≤ bitsNat q0 13 8))
  onUniform s .attention (xCheck x true false :: (4, tilesBad) :: hintChecks (uniLead s) false false false) none fun s =>
    onSlab n.toNat s fun a =>
      match pselArgs (xVal s x) (xVal1 s x) with
      | none => lectSlabFault s n.toNat 0xFFFF a
      | some (cq, co, k, _, _) =>
        onReadyTile s cq 0 (onReadyTile s co (8 * k)
          (issueCmd s .copy true { (newCmd .psel) with
            src := cq, dst := co, slab := a, d0 := xVal s x, d1 := xVal1 s x }))

/-- Operands of KVPK and KVUNP (R344): tile, BF16?, count, token; none for a bit or field out of range. -/
def kvArgs (q0 q1 : DWord) : Option (Nat × Bool × Nat × Nat) :=
  let x := q0.toNat
  let n := bitsNat x 22 16
  let t := q1.toNat
  if x = x % 64 + bitsNat x 8 8 * 2 ^ 8 + n * 2 ^ 16 ∧ 1 ≤ n ∧ n ≤ 64 ∧ t < 2 ^ 32 ∧ t % 64 + n ≤ 64 then
    some (x % 64, bitNat x 8, n, t) else none

/-- KVPK and KVUNP (R344): the command; the record's checks follow when it runs. -/
def execKv (kind : CmdKind) (n : BitVec 4) (x : BitVec 8) (s : State) : Res :=
  let tileBad := seesLectern s && (xCheck x true false).2 == false &&
    decide (nTileOf s s.issueBlock ≤ (xVal s x).toNat % 64)
  onUniform s .attention (xCheck x true false :: (4, tileBad) :: hintChecks (uniLead s) false false false) none fun s =>
    onSlab n.toNat s fun a =>
      match kvArgs (xVal s x) (xVal1 s x) with
      | none => lectSlabFault s n.toNat 0xFFFF a
      | some (c, _, _, _) =>
        onReadyTile s c 0 (issueCmd s .copy true { (newCmd kind) with
          src := n.toNat, dst := c, slab := a, d0 := xVal s x, d1 := xVal1 s x })

/-- KVPK (R344). -/
def execKvpk (n : BitVec 4) (x : BitVec 8) (s : State) : Res := execKv .kvpk n x s
/-- KVUNP (R344). -/
def execKvunp (n : BitVec 4) (x : BitVec 8) (s : State) : Res := execKv .kvunp n x s

/-! ## What a command does when it runs -/

/-- What carrying out a command gives: it must wait, it is done with flags for its groups, or it meets a fault (code,
resumable, ADDR, INFO after the word) with the state it has reached. -/
inductive Carry where
  | wait
  | done (s : State) (flags : BitVec 6)
  | fault (s : State) (code : Nat) (resumable : Bool) (addr : DWord) (info : List DWord)
  /-- It has read a poisoned word (R455). -/
  | poison (s : State) (pa : Nat)

/-- A command's reads have corrected errors beside what it did (R454). -/
def Carry.meets (asid : BitVec 6) (ranges : List (DWord × Nat)) : Carry → Carry
  | .wait => .wait
  | .done s f => .done (Sys2Proof.Machine.meets s asid .load ranges) f
  | .fault s code resumable addr info => .fault (Sys2Proof.Machine.meets s asid .load ranges) code resumable addr info
  | .poison s pa => .poison s pa

/-- A fault of a record or pool access (R338), or the poison it met. -/
def carryRecordFault (s : State) (e : DWord × Nat) : Carry :=
  if e.2 = poisonReason then .poison s e.1.toNat else .fault s 0x0012 true e.1 [BitVec.ofNat 64 e.2, 4]

/-- The slab-descriptor fault of a running command. DEDUCED (log 15), unsafe. -/
def carrySlabFault (s : State) (c : Cmd) (off : Nat) : Carry :=
  .fault s 0x0040 false 0 [BitVec.ofNat 64 (bitsNat c.word.toNat 19 16), BitVec.ofNat 64 off, c.slab]

/-- A page fault on a slab's pages (R336, R288). -/
def carryPageFault (s : State) (c : Cmd) (e : DWord × Nat) : Carry :=
  if e.2 = poisonReason then .poison s e.1.toNat
  else .fault s 0x0020 true e.1 [BitVec.ofNat 64 e.2, BitVec.ofNat 64 (bitsNat c.word.toNat 23 16)]

/-- The record of a command, valid, or the fault (R320, R321). -/
def withRecord (s : State) (b : Nat) (c : Cmd) (body : Slab → Carry) : Carry :=
  match readSlab s (s.asidOf b) c.slab with
  | .error (a, r) => carryRecordFault s (a, r)
  | .ok r =>
    match Slab.bad r with
    | some off => carrySlabFault s c off
    | none => (body r).meets (s.asidOf b) [(c.slab, 64)]

/-- A tile too small for a running command (R336). -/
def carryDescFault (s : State) (c : Cmd) : Carry :=
  .fault s 0x0021 false 0 [BitVec.ofNat 64 (bitsNat c.word.toNat 23 16)]

/-- SLAPP's effect (R338): the value for q(QD), or the fault. -/
def runSlapp (s : State) (b : Nat) (c : Cmd) (finish : State → DWord → Carry) : Carry :=
  withRecord s b c fun r =>
    let n := c.d0.toNat
    if !Slab.streaming r && decide (2 ^ Slab.capl r < Slab.len r + n) then finish s (-1)
    else match writeSlab s (s.asidOf b) c.slab (putBits r 128 64 (Slab.len r + n)) with
    | .error (a, e) => carryRecordFault s (a, e)
    | .ok s1 => finish s1 (BitVec.ofNat 64 (Slab.len r))

/-- The record that SLGROW writes (R326). -/
def Slab.grown (r : Slab) (region : Nat) : Slab :=
  let r1 := putBits (putBits r 64 64 (Slab.base r)) 264 8 (Slab.capl r)
  let r2 := putBits (putBits r1 0 64 (region % 2 ^ 57)) 256 8 (Slab.capl r + 1)
  putBits (putBits (putBits r2 192 32 0) 224 32 noLock) 273 1 1

/-- SLGROW's effect (R325, R326, R338): its status. -/
def runSlgrow (s : State) (b : Nat) (c : Cmd) (finish : State → DWord → Carry) : Carry :=
  withRecord s b c fun r =>
    let asid := s.asidOf b
    let pool := c.d0
    if Slab.moving r then finish s 1
    else if Slab.streaming r then finish s 2
    else if Slab.capl r = 24 then finish s 3
    else match readClean s asid pool .load 4, readClean s asid (pool + 8) .load 8 with
    | .error (a, e), _ => carryRecordFault s (a, e)
    | _, .error (a, e) => carryRecordFault s (a, e)
    | .ok count, .ok rsize =>
      if count = 0 then finish s 4
      else if rsize < Slab.regionBytes r (Slab.capl r + 1) then finish s 5
      else match readClean s asid (pool + BitVec.ofNat 64 (16 + 8 * (count - 1))) .load 8 with
      | .error (a, e) => carryRecordFault s (a, e)
      | .ok region =>
        match writeClean s asid pool .store 4 (count - 1) with
        | .error (a, e) => carryRecordFault s (a, e)
        | .ok s1 =>
          match writeSlab s1 asid c.slab (Slab.grown r region) with
          | .error (a, e) => carryRecordFault s (a, e)
          | .ok s2 => (finish { s2 with relocs := s2.relocs ++
              [{ core := coreOfB b, asid := asid, record := c.slab, chunk := 0 }] } 0).meets asid
                [(pool, 16), (pool + BitVec.ofNat 64 (16 + 8 * (count - 1)), 8)]

/-! ## The Sideboard channel -/

/-- Word i of a partial held as one number. -/
def wordAt (x i : Nat) : Nat := x / 2 ^ (32 * i) % 2 ^ 32

/-- Words as one number. -/
def ofWords (l : List Nat) : Nat := l.foldr (fun w n => w + 2 ^ 32 * n) 0

/-- Row i of a partial: m, l and its accumulators. -/
def partialRow (nr dv x i : Nat) : Nat × Nat × List Nat :=
  (wordAt x i, wordAt x (nr + i), (List.range dv).map fun d => wordAt x (2 * nr + dv * i + d))

/-- A partial from its rows (R334). -/
def ofRows (rows : List (Nat × Nat × List Nat)) : Nat :=
  ofWords (rows.map (·.1) ++ rows.map (·.2.1) ++ (rows.map (·.2.2)).flatten)

/-- One row folded into another (R332, R334), with flags. -/
def foldRow (p q : Nat × Nat × List Nat) : (Nat × Nat × List Nat) × BitVec 6 :=
  let r := softMerge p.1 p.2.1 q.1 q.2.1
  let acc := List.zipWith (mergeAcc r) p.2.2 q.2.2
  ((r.m, r.l, acc.map (·.1)), acc.foldl (fun f a => f ||| a.2) r.flags)

/-- A partial folded into the running one: the new one and flags. -/
def foldPartial (nr dv p q : Nat) : Nat × BitVec 6 :=
  let rows := (List.range nr).map fun i => foldRow (partialRow nr dv p i) (partialRow nr dv q i)
  (ofRows (rows.map (·.1)), rows.foldl (fun f r => f ||| r.2) 0)

/-- A partial with each accumulator normalised (R333), and flags. -/
def normPartial (nr dv p : Nat) : Nat × BitVec 6 :=
  let rows := (List.range nr).map fun i =>
    let r := partialRow nr dv p i
    let out := r.2.2.map fun a => normalise a r.1 r.2.1
    ((r.1, r.2.1, out.map (·.1)), out.foldl (fun f a => f ||| a.2) (0 : BitVec 6))
  (ofRows (rows.map (·.1)), rows.foldl (fun f r => f ||| r.2) 0)

/-- Commands that the copy counter counts (R286, R336). -/
def CmdKind.copies : CmdKind → Bool
  | .fill | .drain | .copy | .copym | .mcast | .kvpk | .kvunp | .psel | .sbsend | .sbmrg => true
  | .mmat | .release | .slset | .slapp | .slgrow => false

/-- The started SBSEND of a block that has not been folded; its partial is read once every earlier copy command of the block
has moved its bytes (R286). -/
def openSend (b : Block) : Option Cmd :=
  match b.cmds.find? fun c => c.kind == .sbsend && c.state == .ready with
  | none => none
  | some c =>
    if (b.cmds.takeWhile fun d => d.pos != c.pos).all fun d => !d.kind.copies || d.state == .moved then some c else none

/-- Sets a cluster's channel. -/
def setChannel (s : State) (gid cl : Nat) (ch : Channel) : State :=
  let c := tabGetD s.clusters (clKey gid cl) {}
  { s with clusters := tabSet s.clusters (clKey gid cl) { c with channel := some ch } }

/-- Sets flags in the groups that have passed a command, and in its entry for those that will (R299, R336). -/
def flagCounted (s : State) (b : Nat) (c : Cmd) (f : BitVec 6) : State :=
  if f = 0 then s else
  let now := fun (s : State) (slot : Nat) => s.modGroup (gKey (coreOfB b) slot) fun g => if g.blk = b then g.flag f else g
  ((c.counted ++ c.passed).foldl now s).modBlock b fun x => { x with dq := x.dq.mapIdx fun i e =>
    if i + x.dqBase = c.pos then { e with flags := e.flags ||| f } else e }

/-- Changes one command of a block, named by its uniform position. -/
def modCmd (s : State) (b pos : Nat) (f : Cmd → Cmd) : State :=
  s.modBlock b fun x => { x with cmds := x.cmds.map fun c => if c.pos == pos then f c else c }

/-- The running partial as one number. -/
def Channel.value (ch : Channel) : Nat := bytesAt ch.partialSum 0 (partialBytes ch.nr ch.dv)

/-- The fold of the next rank's partial (R334): none while it has not been sent, or after a mismatch. -/
def foldNext (s : State) (gid cl : Nat) : Option State :=
  match (tabGetD s.clusters (clKey gid cl) {}).channel with
  | none => none
  | some ch =>
    match ch.mismatch, s.blockOfRank gid cl ch.nextRank with
    | none, some b =>
      match openSend (s.block b) with
      | none => none
      | some c =>
        match sideShape c.d0 with
        | none => none
        | some (nr, dv) =>
          let data := readTile s b (s.tile b c.dst) 0 (partialBytes nr dv)
          match tilePoison s b (s.tile b c.dst) 0 (partialBytes nr dv) with
          | some pa => some (poisonKill s gid pa)
          | none =>
          if ch.nextRank = 0 then
            let s1 := setChannel s gid cl { ch with
              nextRank := 1, nr := nr, dv := dv, partialSum := bytesSet [] 0 (partialBytes nr dv) data }
            some (modCmd s1 b c.pos fun c => { c with state := .moved })
          else if (nr, dv) ≠ (ch.nr, ch.dv) then some (setChannel s gid cl { ch with mismatch := some ch.nextRank })
          else
            let r := foldPartial nr dv ch.value data
            let s1 := setChannel s gid cl { ch with
              nextRank := ch.nextRank + 1, partialSum := bytesSet [] 0 (partialBytes nr dv) r.1 }
            some (flagCounted (modCmd s1 b c.pos fun c => { c with state := .moved }) b c r.2)
    | _, _ => none

/-- SIDEBOARD_FOLD (R334). -/
def execSideboardFold (gid cl : Nat) (s : State) : Res := .next ((foldNext s gid cl).getD s)

/-- A rank has left without sending the open round (R342 cause 3): no live thread, and no SBSEND under way.
DEDUCED (log 27), unsafe. -/
def rankGone (s : State) (gid cl rank : Nat) : Bool :=
  match s.blockOfRank gid cl rank with
  | some b => (s.liveOfBlock b).isEmpty && !(s.block b).cmds.any fun c => c.kind == .sbsend && c.state != .moved
  | none => true

/-- SBMRG when it runs (R334, R342): it waits for the fold, raises the Sideboard fault, or writes the merged partial. -/
def runSbmrg (s : State) (b : Nat) (c : Cmd) : Carry :=
  let x := s.block b
  let gid := x.gid
  let cl := x.cluster.getD 0
  let size := (s.gridOf b).launch.clSize
  let sideFault := fun cause rank : Nat => Carry.fault s 0x0042 false 0 [0, BitVec.ofNat 64 cause, BitVec.ofNat 64 rank]
  match (clusterOf s b).channel, sideShape c.d0 with
  | some ch, some (nr, dv) =>
    match ch.mismatch with
    | some r => sideFault 2 r
    | none =>
      if size ≤ ch.nextRank then
        if (nr, dv) ≠ (ch.nr, ch.dv) then sideFault 2 0
        else
          let out := if c.flag then normPartial nr dv ch.value else (ch.value, 0)
          let s1 := writeTile s b (s.tile b c.dst) 0 (partialBytes nr dv) out.1
          .done (setChannel s1 gid cl { round := ch.round + 1 }) out.2
      else if rankGone s gid cl ch.nextRank then sideFault 3 ch.nextRank
      else .wait
  | _, _ => .wait

/-! ## PSEL -/

/-- One channel's term of ub(p) (R343): the greater product; NaN from either. DEDUCED (log 16), unsafe. -/
def ubTerm (q mx mn : Fl) : Fl :=
  let a := q.mul mx
  let b := q.mul mn
  if a.isNan || b.isNan then .nan else a.pick true b

/-- ub of a page (R343), and INV (R61): `digests` holds C maxima and then C minima in BF16. -/
def ubOf (c : Nat) (query digests : Nat) : Nat × BitVec 6 :=
  let at16 := fun i : Nat => bf16.decode (digests / 2 ^ (16 * i) % 2 ^ 16)
  let q := fun i : Nat => f32v (wordAt query i)
  let terms := (List.range c).map fun i => ubTerm (q i) (at16 i) (at16 (c + i))
  let sum := exactSum terms
  let read := (List.range c).any fun i => (q i).isNan || (at16 i).isNan || (at16 (c + i)).isNan
  (f32r sum, if sum.isNan && !read then fInv else 0)

/-- A page ranks before another (R343): greater ub first, NaN last, ties to the lower page. -/
def ranksBefore (x y : Nat × Nat) : Bool :=
  let a := f32v x.2
  let b := f32v y.2
  if a.isNan || b.isNan then (if a.isNan && b.isNan then decide (x.1 ≤ y.1) else b.isNan)
  else if a.cmp b = 0 then decide (x.1 ≤ y.1) else a.cmp b == 1

/-- Reads the digests of the pages from p0 (R343): pages with their digest bytes, a wait, or a fault. -/
def readDigests (s : State) (asid : BitVec 6) (r : Slab) : List Nat → Except (Option (DWord × Nat)) (List (Nat × Nat))
  | [] => .ok []
  | p :: ps =>
    match Slab.baseFor r (64 * p) with
    | none => .error none
    | some base =>
      match readClean s asid (BitVec.ofNat 64 (base + Slab.pageOff r (64 * p))) .load (4 * Slab.ch r) with
      | .error e => .error (some e)
      | .ok d =>
        match readDigests s asid r ps with
        | .error e => .error e
        | .ok rest => .ok ((p, d) :: rest)

/-- PSEL when it runs (R343). -/
def runPsel (s : State) (b : Nat) (c : Cmd) : Carry :=
  match pselArgs c.d0 c.d1 with
  | none => .wait
  | some (cq, co, k, p0, np) =>
    withRecord s b c fun r =>
      if !Slab.paged r then carrySlabFault s c 0x22
      else if 2 ^ (Slab.capl r - 6) < p0 + np then
        .fault s 0x0041 true 0 [BitVec.ofNat 64 (bitsNat c.word.toNat 19 16), BitVec.ofNat 64 (64 * (p0 + np - 1)), c.slab]
      else if (s.tile b cq).bytes < 4 * Slab.ch r then carryDescFault s c
      else match tilePoison s b (s.tile b cq) 0 (4 * Slab.ch r) with
      | some pa => .poison s pa
      | none => match readDigests s (s.asidOf b) r ((List.range np).map (p0 + ·)) with
      | .error none => .wait
      | .error (some e) => carryPageFault s c e
      | .ok pages =>
        let query := readTile s b (s.tile b cq) 0 (4 * Slab.ch r)
        let ubs := pages.map fun e => (e.1, ubOf (Slab.ch r) query e.2)
        let best := (sortBy ranksBefore (ubs.map fun e => (e.1, e.2.1))).take k
        let pad := fun (l : List Nat) (v : Nat) => l ++ List.replicate (k - l.length) v
        let words := pad (best.map (·.1)) noLock ++ pad (best.map (·.2)) negInf32
        let reads := pages.filterMap fun e => (Slab.baseFor r (64 * e.1)).map fun base =>
          (BitVec.ofNat 64 (base + Slab.pageOff r (64 * e.1)), 4 * Slab.ch r)
        (Carry.done (writeTile s b (s.tile b co) 0 (8 * k) (ofWords words)) (ubs.foldl (fun f e => f ||| e.2.2) 0)).meets
          (s.asidOf b) reads

/-! ## KVPK and KVUNP -/

/-- Element (i, c) of a tile of FP32 or BF16 rows as an exact value (R344). -/
def kvElem (bf : Bool) (row c : Nat) : Fl :=
  if bf then bf16.decode (row / 2 ^ (16 * c) % 2 ^ 16) else f32v (row / 2 ^ (32 * c) % 2 ^ 32)

/-- Bytes of a tile row (R344). -/
def kvRowBytes (bf : Bool) (ch : Nat) : Nat := if bf then 2 * ch else 4 * ch

/-- Codes packed in their containers (R65). -/
def packCodes (bits : Nat) (l : List Nat) : Nat := l.foldr (fun c n => c + 2 ^ bits * n) 0

/-- An element converted to a slab's element type (R344, LAYOUT 0), with flags. -/
def kvConvert (r : Slab) (v : Fl) : Nat × BitVec 6 :=
  if Slab.etype r = 12 then
    let e := (nfOf (Slab.fmt r)).encode .rn 0 v
    (e.1, nfFlags e.2.1 e.2.2)
  else ((if Slab.etype r = 8 then f16 else bf16).round .rn 0 v, 0)

/-- One channel of a packed page (R344): scale, MX, MN, its codes, and flags. -/
structure PackedChannel where
  scale : Nat
  mx : Nat
  mn : Nat
  codes : List Nat
  flags : BitVec 6
  deriving DecidableEq, Repr

/-- The greatest of a list of values, or the least. -/
def extreme (greater : Bool) : List Fl → Fl
  | [] => .fin false 0 0
  | v :: vs => vs.foldl (fun a b => a.pick greater b) v

/-- Packs the elements of one channel (R344). -/
def packChannel (f : NFmt) (xs : List Fl) : PackedChannel :=
  let bad : PackedChannel :=
    { scale := bf16.nan, mx := bf16.nan, mn := bf16.nan, codes := xs.map fun _ => 0, flags := fNfnan }
  let finite := fun v : Fl => match v with | .fin _ _ _ => true | _ => false
  let mag := fun v : Fl => match v with | .fin _ m e => Fl.fin false m e | x => x
  let top := extreme true (xs.map mag)
  let scale := bf16.round .ru 0 (top.div (f.decode f.maxFin))
  if !xs.all finite then bad
  else if top.cmp (.fin false 0 0) = 0 then { scale := 0, mx := 0, mn := 0, codes := xs.map fun _ => 0, flags := 0 }
  else match bf16.decode scale with
  | .inf _ => bad
  | sv =>
    let enc := xs.map fun x => f.encode .rn 0 (x.div sv)
    let vals := enc.map fun e => (f.decode e.1).mul sv
    { scale := scale, mx := bf16.round .ru 0 (extreme true vals), mn := bf16.round .rd 0 (extreme false vals)
      codes := enc.map (·.1), flags := enc.foldl (fun g e => g ||| nfFlags e.2.1 e.2.2) 0 }

/-- A whole packed page as one number (R323, R344). -/
def packPage (r : Slab) (chans : List PackedChannel) : Nat :=
  let c := Slab.ch r
  let bits := elemBits 12 (Slab.fmt r)
  let n := (chans.headD { scale := 0, mx := 0, mn := 0, codes := [], flags := 0 }).codes.length
  let heads := (chans.map (·.mx)) ++ (chans.map (·.mn)) ++ (chans.map (·.scale))
  let rows := (List.range n).map fun i => packCodes bits (chans.map fun p => p.codes.getD i 0)
  packCodes 16 heads + 2 ^ (48 * c) * packCodes (8 * Slab.rb r) rows

/-- The slot of a command's first token, with its checks (R344). -/
def onKvSlot (s : State) (c : Cmd) (r : Slab) (t n : Nat) (pack : Bool) (body : Nat → Nat → Carry) : Carry :=
  if pack && Slab.paged r && t % 64 != 0 then carrySlabFault s c 0xFFFF
  else match Slab.slot r (t + n - 1), Slab.slot r t with
  | some _, some x =>
    match Slab.baseFor r x with
    | none => .wait
    | some base => body x base
  | _, _ => .fault s 0x0041 true 0
      [BitVec.ofNat 64 (bitsNat c.word.toNat 19 16), BitVec.ofNat 64 (max t (2 ^ Slab.capl r)), c.slab]

/-- Writes rows one after another; a fault leaves those before it written (R288). -/
def writeRows (asid : BitVec 6) (n : Nat) : List (DWord × Nat) → State → State × Option (DWord × Nat)
  | [], s => (s, none)
  | (a, v) :: rest, s =>
    match writeClean s asid a .store n v with
    | .error e => (s, some e)
    | .ok s1 => writeRows asid n rest s1

/-- KVPK when it runs (R344). -/
def runKvpk (s : State) (b : Nat) (c : Cmd) : Carry :=
  match kvArgs c.d0 c.d1 with
  | none => .wait
  | some (tl, bf, n, t) =>
    withRecord s b c fun r =>
      onKvSlot s c r t n true fun x base =>
        let ch := Slab.ch r
        let rb := kvRowBytes bf ch
        let tile := s.tile b tl
        if tile.bytes < n * rb then carryDescFault s c
        else match tilePoison s b tile 0 (n * rb) with
        | some pa => .poison s pa
        | none =>
          let rows := (List.range n).map fun i =>
            let row := readTile s b tile (i * rb) rb
            (List.range ch).map (kvElem bf row)
          if Slab.paged r then
            let chans := (List.range ch).map fun j => packChannel (nfOf (Slab.fmt r)) (rows.map fun l => l.getD j .nan)
            match writeClean s (s.asidOf b) (BitVec.ofNat 64 (base + Slab.pageOff r x)) .store (Slab.pgb r) (packPage r chans) with
            | .error e => carryPageFault s c e
            | .ok s1 => .done s1 (chans.foldl (fun f p => f ||| p.flags) 0)
          else
            let out := rows.map fun l => l.map (kvConvert r)
            let bits := elemBits (Slab.etype r) (Slab.fmt r)
            let writes := out.mapIdx fun i l =>
              (BitVec.ofNat 64 (base + Slab.rowOff r (x + i)), packCodes bits (l.map (·.1)))
            let w := writeRows (s.asidOf b) (Slab.rb r) writes s
            match w.2 with
            | some e => carryPageFault w.1 c e
            | none => .done w.1 (out.foldl (fun f l => l.foldl (fun f e => f ||| e.2) f) 0)

/-- An element of a slab row widened to a tile type (R344), with flags; `scale` is absent for LAYOUT 0. Where LAYOUT 0
asks an exact widening that the tile type cannot hold, the result is a free value. DEDUCED (log 17), safe. -/
def kvWiden (bf : Bool) (r : Slab) (row i : Nat) (scale : Option Fl) : Nat × BitVec 6 :=
  let f := if bf then bf16 else f32
  let v := elemValue (Slab.etype r) (Slab.fmt r) row i
  match scale with
  | some sc =>
    let p := v.mul sc
    (f.round .rn 0 p, if p.isNan && !v.isNan && !sc.isNan then fInv else 0)
  | none =>
    let x := f.round .rn 0 v
    let exact := v.isNan || (f.decode x).cmp v == 0
    let w := elemBits (Slab.etype r) (Slab.fmt r)
    (if exact then x else (Config.inexactWiden (Slab.etype r) (row / 2 ^ (w * i) % 2 ^ w)).toNat % 2 ^ f.width, 0)

/-- Reads rows one after another, or the fault. -/
def readRows (s : State) (asid : BitVec 6) (n : Nat) : List DWord → Except (DWord × Nat) (List Nat)
  | [] => .ok []
  | a :: rest =>
    match readClean s asid a .load n with
    | .error e => .error e
    | .ok v =>
      match readRows s asid n rest with
      | .error e => .error e
      | .ok vs => .ok (v :: vs)

/-- KVUNP when it runs (R344). -/
def runKvunp (s : State) (b : Nat) (c : Cmd) : Carry :=
  match kvArgs c.d0 c.d1 with
  | none => .wait
  | some (tl, bf, n, t) =>
    withRecord s b c fun r =>
      onKvSlot s c r t n false fun x base =>
        let ch := Slab.ch r
        let asid := s.asidOf b
        let tile := s.tile b tl
        if tile.bytes < n * kvRowBytes bf ch then carryDescFault s c
        else
          let scales := if Slab.paged r then
              readClean s asid (BitVec.ofNat 64 (base + Slab.pageOff r x + 4 * ch)) .load (2 * ch) else .ok 0
          match scales, readRows s asid (Slab.rb r) ((List.range n).map fun i =>
              BitVec.ofNat 64 (base + Slab.rowOff r (x + i))) with
          | .error e, _ => carryPageFault s c e
          | _, .error e => carryPageFault s c e
          | .ok sc, .ok rows =>
            let out := rows.map fun row => (List.range ch).map fun i =>
              kvWiden bf r row i (if Slab.paged r then some (bf16.decode (sc / 2 ^ (16 * i) % 2 ^ 16)) else none)
            let words := out.mapIdx fun i l => (i * kvRowBytes bf ch, packCodes (if bf then 16 else 32) (l.map (·.1)))
            (Carry.done (words.foldl (fun s w => writeTile s b tile w.1 (kvRowBytes bf ch) w.2) s)
              (out.foldl (fun f l => l.foldl (fun f e => f ||| e.2) f) 0)).meets asid
                ((if Slab.paged r then [(BitVec.ofNat 64 (base + Slab.pageOff r x + 4 * ch), 2 * ch)] else []) ++
                  (List.range n).map fun i => (BitVec.ofNat 64 (base + Slab.rowOff r (x + i)), Slab.rb r))

/-! ## Relocation -/

/-- Addresses and lengths of what a chunk's copy moves (R327): old and new address, bytes. -/
def chunkPieces (r : Slab) (a : Nat) : List (DWord × DWord × Nat) :=
  let piece := fun (off n : Nat) => (BitVec.ofNat 64 (Slab.oldBase r + off), BitVec.ofNat 64 (Slab.base r + off), n)
  if Slab.paged r then [piece (a * Slab.pgb r) (Slab.pgb r)]
  else (List.range 64).map fun i => piece (Slab.rowOff r (64 * a + i)) (Slab.rb r)

/-- The marks of a source range on its copy: the words of the copy that the marked words reach, in HBM
those of whole granules (R455). -/
def copiedMarks (s : State) (asid : BitVec 6) (o n : DWord) (len : Nat) : List Nat :=
  if s.poison.isEmpty then [] else
  (pagePieces o.toNat len).flatMap fun p => match translate s asid (BitVec.ofNat 64 p.1) .load with
    | .error _ => []
    | .ok pa => (s.poison.filter fun w => decide (w < pa + p.2) && decide (pa < w + 4)).flatMap fun w =>
        [max w pa, min (w + 3) (pa + p.2 - 1)].flatMap fun byte =>
          match translate s asid (n + BitVec.ofNat 64 (p.1 - o.toNat + (byte - pa))) .store with
          | .ok at_ => if at_ < 12 * 2 ^ 36 then (List.range 8).map fun i => at_ / 32 * 32 + 4 * i else [at_ / 4 * 4]
          | .error _ => []

/-- The releases of a source range on its copy (R379). -/
def copiedReleases (s : State) (asid : BitVec 6) (o n : DWord) (len : Nat) : List Released :=
  if s.order.words.isEmpty then [] else
  (pagePieces o.toNat len).flatMap fun p => match translate s asid (BitVec.ofNat 64 p.1) .load with
    | .error _ => []
    | .ok pa => (s.order.words.filter fun w => decide (pa ≤ w.loc) && decide (w.loc + w.size ≤ pa + p.2)).filterMap fun w =>
        match translate s asid (n + BitVec.ofNat 64 (p.1 - o.toNat + (w.loc - pa))) .store with
        | .ok at_ => some { w with loc := at_ }
        | .error _ => none

/-- Copies the pieces of a chunk with their poison marks and what their bytes released (R327, R379, R455); a fault stops it. -/
def movePieces (asid : BitVec 6) : List (DWord × DWord × Nat) → State → Except (DWord × Nat) State
  | [], s => .ok s
  | (o, n, len) :: rest, s =>
    match readVirt s asid o .load len with
    | .error e => .error e
    | .ok v =>
      match writeMarked s asid n .store len v with
      | .error e => .error e
      | .ok s1 =>
        let marks := (copiedMarks s asid o n len).eraseDups.filter (!s1.poison.contains ·)
        let words := copiedReleases s asid o n len
        let s2 := meets s1 asid .load [(o, len)]
        movePieces asid rest { s2 with poison := s2.poison ++ marks, order := { s2.order with words := words ++ s2.order.words } }

/-- Replaces or removes entry n of the relocations. -/
def setReloc (s : State) (n : Nat) (x : Option Reloc) : State :=
  { s with relocs := match x with | some y => s.relocs.set n y | none => s.relocs.eraseIdx n }

/-- The relocation meets a page fault on a chunk (R330): the event, once, and the chunk is retried. -/
def relocFault (s : State) (n : Nat) (x : Reloc) (reason : Nat) : State :=
  let s1 := if x.retry then s else
    sendEvent s 0x0009 (Config.dieOfCore x.core) (Config.coreInDie x.core) x.record (BitVec.ofNat 64 (64 * x.chunk))
      (BitVec.ofNat 64 reason)
  setReloc s1 n (some { x with retry := true })

/-- A relocation's write of its record, which costs no grid anything (R327, R455). -/
def writeRecordOf (s : State) (x : Reloc) (r : Slab) : Except (DWord × Nat) State := writeMarked s x.asid x.record .store 64 r

/-- One update of a relocation (R327): it locks the next chunk; or it copies the locked chunk and unlocks it, ending the
relocation after the last. -/
def relocStep (s : State) (n : Nat) (x : Reloc) : State :=
  match readVirt s x.asid x.record .load 64 with
  | .error (_, e) => relocFault s n x e
  | .ok r =>
    if !x.locked then
      match writeRecordOf s x (putBits r 224 32 (64 * x.chunk)) with
      | .error (_, e) => relocFault s n x e
      | .ok s1 => setReloc s1 n (some { x with locked := true, retry := false })
    else
      match movePieces x.asid (chunkPieces r x.chunk) s with
      | .error (_, e) => relocFault s n x e
      | .ok s1 =>
        let last := decide (2 ^ (Slab.ocapl r - 6) ≤ x.chunk + 1)
        let r1 := putBits (putBits r 192 32 (64 * x.chunk + 64)) 224 32 noLock
        match writeRecordOf s1 x (if last then putBits r1 273 1 0 else r1) with
        | .error (_, e) => relocFault s1 n x e
        | .ok s2 =>
          if last then
            sendEvent (setReloc s2 n none) 0x0008 (Config.dieOfCore x.core) (Config.coreInDie x.core) x.record
              (BitVec.ofNat 64 (Slab.oldBase r)) 0
          else setReloc s2 n (some { x with chunk := x.chunk + 1, locked := false, retry := false })

/-- The die of a relocation's copy engine runs (R457). -/
def Reloc.runs (s : State) (x : Reloc) : Bool := dieServes s (Config.dieOfCore x.core)

/-- SLAB_CHUNK_MOVE (R327). -/
def execSlabChunkMove (n : Nat) (s : State) : Res :=
  match s.relocs[n]? with
  | some x => .next (if x.retry || !x.runs s then s else relocStep s n x)
  | none => .next s

/-- SLAB_MOVE_RETRY (R330). -/
def execSlabMoveRetry (n : Nat) (s : State) : Res :=
  match s.relocs[n]? with
  | some x => .next (if x.retry && x.runs s then relocStep s n x else s)
  | none => .next s

end Sys2Proof.Machine
end

