-- ==== Sys2Proof/Machine/Matrix.lean ====
section
/-! DEFINITION. The matrix array (R298 to R318): exact k-block sums, MMA over register fragments, MMAT over tiles, their
checks in order, and continuations. -/

namespace Sys2Proof.Machine

/-! ## Sums -/

/-- Element types and accumulators of R298 for an opcode: the k-block size, or none when the type is not accepted. -/
def kBlock (opc etype : Nat) (fmt : Half) : Option Nat :=
  if opc = 0xA0 ∨ opc = 0xA4 then
    (if etype = 0 ∨ etype = 1 then some 32 else if etype = 8 ∨ etype = 9 then some 16
     else if etype = 10 then some 8 else none)
  else if opc = 0xA1 ∨ opc = 0xA6 then
    (if etype = 12 then (if (nfOf fmt).width ≤ 4 then some 64 else some 32) else none)
  else if opc = 0xA2 then (if etype = 11 then some 8 else none)
  else none

/-- An operand element times its scale, with whether a NaN was read (R71, R299). -/
structure Term where
  v : Fl
  nan : Bool
  deriving DecidableEq, Repr

/-- A term from an element, a negate bit and a scale. -/
def termOf (neg : Bool) (x scale : Fl) : Term :=
  let y := if neg then x.neg else x
  { v := y.mul scale, nan := x.isNan || scale.isNan }

/-- A block sum over the rows that exist (R299): a missing B row contributes +0; and whether it is a NaN from operands that
are not. -/
def blockSum (a : List Term) (b : List (Option Term)) : Fl × Bool :=
  let ps := List.zipWith (fun x y => match y with | some t => x.v.mul t.v | none => Fl.fin false 0 0) a b
  let read := List.zipWith (fun x y => match y with | some t => x.nan || Term.nan t | none => false) a b
  let sum := exactSum ps
  (sum, sum.isNan && !read.any id)

/-- An exact whole number. -/
def flInt : Fl → Int
  | .fin neg m e => let x : Int := (m * 2 ^ e.toNat : Nat); if neg then -x else x
  | _ => 0

/-- The accumulator of an element type (R76): integer, FP32 or FP64. -/
inductive AccKind where
  | int | single | double
  deriving DecidableEq, Repr

/-- The accumulator of an element type. -/
def accOf (etype : Nat) : AccKind := if etype = 0 ∨ etype = 1 then .int else if etype = 11 then .double else .single

/-- One accumulation (R76, R77): the new accumulator and INV. -/
def accumulate (k : AccKind) (c : DWord) (sum : Fl × Bool) : DWord × Bool :=
  match k with
  | .int => ((toWord (lowInt c + flInt sum.1)).setWidth 64, false)
  | _ =>
    let f := if k = .double then f64 else f32
    let s := f.decode (f.round .rn 0 sum.1)
    let x := flOf f c
    let y := x.add .rn s
    (BitVec.ofNat 64 (f.round .rn 0 y), sum.2 || (y.isNan && !x.isNan && !s.isNan))

/-- One k-block over the rows of D (R304): `a m` and `b n` give the terms of a row and a column. -/
def matBlock (k : AccKind) (zero : Bool) (a : List (List Term)) (b : List (List (Option Term)))
    (d : List (List DWord)) : List (List DWord) × Bool :=
  let rows := List.zipWith (fun (row : List Term) (cs : List DWord) =>
    List.zipWith (fun (col : List (Option Term)) (c : DWord) =>
      accumulate k (if zero then 0 else c) (blockSum row col)) b cs) a d
  (rows.map fun r => r.map (·.1), rows.any fun r => r.any (·.2))

/-! ## MMA -/

/-- An MMA as its word or its continuation gives it (R302, R316, R317). -/
structure MmaOp where
  opc : Nat
  id : Nat
  areg : Nat
  lastA : Bool
  tile : Option Nat
  zc : Bool
  nb : Bool
  na : Bool
  nkb : Nat
  db : Nat
  row0 : Int
  /-- First k-block. -/
  j0 : Nat
  pc : DWord
  cont : Cont
  deriving DecidableEq, Repr

/-- D's first register. -/
def MmaOp.dreg (o : MmaOp) : Nat := 16 * o.db

/-- Checks of order 1 of R307 on the ranges. -/
def mmaRanges (rmax areg nkb db : Nat) : List (Nat × Bool) :=
  let d := 16 * db
  let an := 16 * nkb
  let past := decide (areg < d + 64) && decide (d < areg + an)
  [ (4, db == 3 || decide (96 ≤ areg) || areg % 16 != 0 || decide (96 < areg + an) || decide (96 < d + 64) || past),
    (5, decide (areg < 96) && (decide (rmax < areg + an) || decide (rmax < d + 64))) ]

/-- Fields of LIT in an MMA (R302). -/
def mmaLitChecks (l : Option (BitVec 24)) (tile : Bool) (ntile : Nat) : List (Nat × Bool) :=
  let x := (l.map (·.toNat)).getD 0
  [ (7, tile && l.isNone), (3, decide (2 ^ 11 ≤ x)), (4, tile && l.isSome && decide (ntile ≤ bitsNat x 10 5)) ]

/-- What an MMA's checks of orders 2 to 6 find (R307). -/
inductive MmaCheck where
  | pass
  | wait
  | tensor
  | descriptor (field : Nat)
  | tileState (st : TileState)
  | placement (addr : DWord) (phys : DWord) (owner : DWord)
  | page (addr : DWord) (reason : Nat)
  deriving DecidableEq, Repr

/-- The first bad offset of a list of checks by offset. -/
def firstField (l : List (Nat × Bool)) : Option Nat := (l.find? (·.2)).map (·.1)

/-- Rows of B that an MMA reads (R303). -/
def MmaOp.rowsOf (o : MmaOp) (t : Tensor) (kb : Nat) : List Nat :=
  (List.range (o.nkb * kb)).map (o.row0.toNat + ·) |>.filter fun r => decide (r < t.ext.getD 1 0)

/-- Address of row r of a row-major two-dimensional tensor. -/
def Tensor.rowAddr (t : Tensor) (r : Nat) : DWord := t.at 0 ((r : Int) * t.stride.getD 1 0)

/-- The lowest address and reason among failing translations of ranges. -/
def worstPage (s : State) (asid : BitVec 6) (l : List (DWord × Nat)) (acc : Access) : Option (DWord × Nat) :=
  (l.filterMap fun e => match translateRange s asid e.1 acc e.2 with
    | .error x => some x
    | .ok _ => none).foldl (fun m x => match m with
      | none => some x
      | some y => if x.1 < y.1 then some x else some y) none

/-- The vault that holds a physical address: its global core, or all ones (R308). -/
def vaultOwner (m : Mgmt) (pa : Nat) : DWord :=
  if physRegion m pa = .vault then BitVec.ofNat 64 ((pa - vaultBase) / 2 ^ 23) else 0xFFFFFFFF

/-- Bytes of the two-byte scales of an operand's rows. -/
def scaleRanges (t : Tensor) (rows : List Nat) : List (DWord × Nat) :=
  if t.scale = 0 then []
  else rows.map fun r => (t.scaleAddr 0 r, 2 * ceilDiv (t.ext.getD 0 0) (2 ^ t.scgran))

/-- A tile whose region is too small: an empty entry has no region. DEDUCED (log 61), unsafe. -/
def Tile.lacks (t : Tile) (n : Nat) : Bool := t.state != .empty && decide (t.bytes < n)

/-- Checks of orders 2 to 6 of R307 for the MMA of a group with live threads `ks`. DESIGN CHOICE (log 67), unsafe. -/
def mmaCheck (s : State) (b : Nat) (ks : List Nat) (o : MmaOp) : MmaCheck :=
  match tensorAt s b o.id with
  | none => .tensor
  | some t =>
    let kb := kBlock o.opc t.etype t.fmt
    let rows := o.rowsOf t (kb.getD 0)
    let asid := s.asidOf b
    let plain := o.tile.isNone
    let field := firstField
      [ (0x00, plain && t.base.toNat % 16 != 0), (0x12, kb.isNone), (0x13, t.layout != 0), (0x14, t.ndim != 2),
        (0x20, t.ext.getD 0 0 != 32), (0x48, plain && t.stride.getD 1 0 % 16 != 0) ]
    match field with
    | some f => .descriptor f
    | none =>
      let last := (rows.getLast?.map (· + 1)).getD 0
      let tile := o.tile.map (s.tile b)
      if o.row0 < 0 ∨ 2 ^ 31 - 1 < o.row0 then .descriptor 0xFFFF
      else match tile with
      | some c =>
        if c.lacks (last * t.rb) then .descriptor 0xFFFF
        else if c.state = .filling ∨ leaving s ks (o.tile.getD 0) = true then .wait
        else if c.state ≠ .ready then .tileState c.state
        else if !c.vault then .placement (BitVec.ofNat 64 c.start) 0xFFFFFFFFFFFFFFFF 0xFFFFFFFF
        else match worstPage s asid (scaleRanges t rows) .load with
        | some (a, r) => .page a r
        | none => .pass
      | none =>
        let ranges := rows.map fun r => (t.rowAddr r, t.rb)
        match worstPage s asid (ranges ++ scaleRanges t rows) .load with
        | some (a, r) => .page a r
        | none =>
          let own := coreOfB b
          let bad := (ranges.flatMap fun e => (List.range e.2).map fun i => e.1 + BitVec.ofNat 64 i).filterMap fun va =>
            match translate s asid va .load with
            | .ok pa => if decide (vaultAddr own 0 ≤ pa) && decide (pa < vaultAddr own (6 * 2 ^ 20)) then none
                        else some (va, pa)
            | .error _ => none
          match bad.foldl (fun m x => match m with
              | none => some x
              | some y => if x.1 < (Prod.fst y) then some x else some y) none with
          | some (va, pa) => .placement va (BitVec.ofNat 64 pa) (vaultOwner s.mgmt pa)
          | none => .pass

/-- What an MMA reads of memory: its B rows, unless they lie in a tile, and its scales. -/
def mmaReads (s : State) (b : Nat) (o : MmaOp) : List (DWord × Nat) :=
  match tensorAt s b o.id with
  | none => []
  | some t =>
    let rows := o.rowsOf t ((kBlock o.opc t.etype t.fmt).getD 0)
    (if o.tile.isNone then rows.map fun r => (t.rowAddr r, t.rb) else []) ++ scaleRanges t rows

/-- A poisoned word in the tile that holds an MMA's B rows (R455). -/
def mmaTilePoison (s : State) (b : Nat) (o : MmaOp) : Option Nat :=
  match o.tile, tensorAt s b o.id with
  | some n, some t =>
    let rows := o.rowsOf t ((kBlock o.opc t.etype t.fmt).getD 0)
    rows.findSome? fun r => tilePoison s b (s.tile b n) (r * t.rb) t.rb
  | _, _ => none

/-- A row of A in k-block j (R300): its bytes as one number; 0 for a lane whose thread has ended (R301).
DEDUCED (log 81), unsafe. -/
def aRow (s : State) (g : Nat) (o : MmaOp) (wide : Bool) (m j : Nat) : Nat :=
  let t := s.thread (tKey g (if wide then m else m / 2))
  let first := o.areg + 16 * j + (if wide then 0 else 8 * (m % 2))
  ((List.range (if wide then 16 else 8)).map fun w => (t.reg (first + w)).toNat * 2 ^ (32 * w)).foldl (· + ·) 0

/-- Row r of B as one number (R303). -/
def bRow (s : State) (b : Nat) (t : Tensor) (tile : Option Nat) (r : Nat) : Nat :=
  match tile with
  | some n => readTile s b (s.tile b n) (r * t.rb) t.rb
  | none => match readVirt s (s.asidOf b) (t.rowAddr r) .load t.rb with
    | .ok v => v
    | .error _ => 0

/-- The accumulator registers of a group (R301): rows of D. -/
def dRows (s : State) (g : Nat) (o : MmaOp) (wide : Bool) : List (List DWord) :=
  (List.range (if wide then 32 else 64)).map fun m => (List.range 32).map fun n =>
    let t := s.thread (tKey g (if wide then m else m / 2))
    if wide then t.pair (o.dreg + 2 * n) else (t.reg (o.dreg + 32 * (m % 2) + n)).setWidth 64

/-- Results for the live lanes of a group. -/
def dLandings (s : State) (g : Nat) (o : MmaOp) (wide : Bool) (rows : List (List DWord)) : List Landing :=
  let live := (s.liveOf g).map laneOf
  (rows.mapIdx fun m row => row.mapIdx fun n v =>
    { lane := if wide then m else m / 2
      reg := if wide then o.dreg + 2 * n else o.dreg + 32 * (m % 2) + n
      wide := wide, value := v : Landing }).flatten.filter fun l => live.contains l.lane

/-- The k-blocks of an MMA from j0 on (R304): the results after each that runs. -/
def mmaStages (s : State) (g b : Nat) (o : MmaOp) (t : Tensor) (kb : Nat) : List (List Landing × Bool) :=
  let wide := o.opc == 0xA2
  let ext := t.ext.getD 1 0
  let asid := s.asidOf b
  let one : Fl := .fin false 1 0
  let step := fun (acc : List (List DWord) × List (List Landing × Bool)) (j : Nat) =>
    let first := o.row0.toNat + j * kb
    if ext ≤ first ∧ ¬(o.zc = true ∧ j = 0) then acc
    else
      let a := (List.range (if wide then 32 else 64)).map fun m =>
        let row := aRow s g o wide m j
        (List.range kb).map fun k => termOf o.na (elemValue t.etype t.fmt row k) one
      let rows := (List.range kb).map fun k =>
        if first + k < ext then some (first + k, bRow s b t o.tile (first + k)) else none
      let bs := (List.range 32).map fun n => rows.map fun e => e.map fun rr =>
        termOf o.nb (elemValue t.etype t.fmt rr.2 n) (scaleOf s asid t n rr.1)
      let r := matBlock (accOf t.etype) (o.zc && j == 0 && o.j0 == 0) a bs acc.1
      (r.1, acc.2 ++ [(dLandings s g o wide r.1, r.2)])
  (((List.range o.nkb).drop o.j0).foldl step (dRows s g o wide, [])).2

/-- The traps of R307 for the live threads of the groups named. -/
def mmaTrap (s : State) (ks : List Nat) (o : MmaOp) : MmaCheck → State
  | .pass => s
  | .wait => s
  | .tensor => bundleTrap s ks 0x0013 false fun _ => (0, [s.issue.word.setWidth 64, BitVec.ofNat 64 o.id])
  | .descriptor f => bundleTrap s ks 0x0031 false fun g => (0, [s.issue.word.setWidth 64, info1, BitVec.ofNat 64 f,
      BitVec.ofNat 64 (coreOfG g), 0xFFFFFFFF])
  | .tileState st => bundleTrap s ks 0x0014 false fun g => (0, [s.issue.word.setWidth 64,
      BitVec.ofNat 64 (o.tile.getD 0), BitVec.ofNat 64 st.code, BitVec.ofNat 64 (s.blockOf g).rank])
  | .placement a p owner => bundleTrap s ks 0x0030 true fun g => (a, [s.issue.word.setWidth 64, info1, p,
      BitVec.ofNat 64 (coreOfG g), owner])
  | .page a r => bundleTrap s ks 0x0012 true fun _ => (a, [s.issue.word.setWidth 64, BitVec.ofNat 64 r, 6])
where
  /-- Tensor identifier, and tile number in bits [15:8] (R308). -/
  info1 : DWord := BitVec.ofNat 64 (o.id + 256 * o.tile.getD 0)

/-- Starts an MMA for one group (R304, R306): the results are on their way; D's index registers take the shadow full, and D's rows
are taken, unless every k-block is skipped (R177, R178, R190). -/
def beginMma (s : State) (g b : Nat) (o : MmaOp) : State :=
  match tensorAt s b o.id with
  | none => s
  | some t =>
    let kb := (kBlock o.opc t.etype t.fmt).getD 1
    let run : MmaRun := { dreg := o.dreg, areg := o.areg, anum := 16 * o.nkb, lastA := o.lastA
                          stages := mmaStages s g b o t kb, cont := o.cont }
    let live := laneMask ((s.liveOf g).map laneOf)
    let one := fun (x : Group) (n : Nat) =>
      if run.stages.isEmpty then (x.setShadow n .full).clearTags n else x.wrote live live n .full
    s.modGroup g fun x => { (List.range 64).foldl (fun x i => one x (run.dreg + i)) x with mma := some run }

/-- The latch run of the bundle closes (R305). -/
def closeRuns (s : State) : State :=
  settleRuns { s with threads := tabOver s.threads s.members fun _ t => { t with run := none } } s.members

/-- An instruction for whole groups (R305): the threads of the other groups wait at it, and the run in which it stands closes; the
rest of the instruction, its checks included, sees the live threads of the whole groups alone. -/
def onWhole (go : State → Res) (s : State) : Res :=
  if s.issue.agent = .lectern ∨ s.inHandler = true ∨ s.members = [] then go s
  else
    let s1 := holdPartial (closeRuns s)
    match s.members.filter fun k => (wholeGroups s).contains (grpOf k) with
    | [] => .next s1
    | ks => match go { s1 with issue := { s1.issue with members := ks } } with
      | .next s2 => .next { s2 with issue := { s2.issue with members := s.members } }
      | r => r

/-- The MMA of one group (R304 to R309): `go` is what its threads do once it has started. -/
def mmaOne (o : MmaOp) (g : Nat) (go : State → State) (s : State) : State :=
  let b := (s.group g).blk
  match mmaCheck s b (s.liveOf g) o with
  | .pass => match mmaTilePoison s b o with
    | some pa => poisonKill s (s.block b).gid pa
    | none => reading s b (mmaReads s b o) .load (residueChecked (coreOfG g) fun s => go (beginMma s g b o))
  | .wait => s
  | bad => mmaTrap s (s.liveOf g) o bad

/-- The threads of a group pass an MMA: their region closes (R309). -/
def passMma (g : Nat) (s : State) : State :=
  let ks := s.liveOf g
  closeRegions { s with threads := tabOver s.threads ks fun _ t => t.advance s.now false none } ks

/-- An MMA for the groups of the bundle, once for each (R305); a group has at most one in flight (R306). -/
def runMma (o : Nat → MmaOp) (s : State) : State :=
  let gs := (s.members.map grpOf).eraseDups
  if gs.any fun g => (s.group g).mma.isSome then s
  else gs.foldl (fun s g => mmaOne (o g) g (passMma g) s) s

/-- The A and D ranges wait for the results on their way to them (R168). -/
def mmaWaits (s : State) (areg nkb db : Nat) : Nat × Bool :=
  (waitMark, (s.members.map grpOf).eraseDups.any fun g =>
    (s.group g).onWayIn areg (16 * nkb) || (s.group g).onWayIn (16 * db) 64)

/-- The fields of an MMA word for a group (R302): row0 is read at the group's uniform position (R175). -/
def mmaOp (opc : Nat) (i x : BitVec 8) (t z b a k : BitVec 1) (d : BitVec 2) (s : State) (g : Nat) : MmaOp :=
  let lit := s.lead.lit
  let l := (lit.map (·.toNat)).getD 0
  let first := (s.members.find? fun k => grpOf k == g).getD 0
  let row0 := if bitNat l 4 then (srcValue s first (s.thread first) true (100 + l % 16)) else 0
  let word := s.issue.word.toNat
  { opc := opc, id := i.toNat, areg := codeOf x, lastA := lastOf x
    tile := if t = 1 then some (bitsNat l 10 5) else none
    zc := z = 1, nb := b = 1, na := a = 1, nkb := k.toNat + 1, db := d.toNat, row0 := row0.toInt, j0 := 0
    pc := s.issue.pc
    cont := { opc := BitVec.ofNat 8 opc, fbyte := BitVec.ofNat 8 word &&& 0xDF, tid := i, xbyte := x, nextkb := 0
              litv := lit.getD 0, litb := lit.isSome, qval := row0, pc := s.issue.pc } }

/-- MMA of any class (R302 to R309). -/
def execMmaAs (c : Class) (opc : Nat) (i x : BitVec 8) (t z b a k : BitVec 1) (d : BitVec 2) : State → Res :=
  onWhole fun s =>
    onThreads s c .no (mmaRanges s.regMax (codeOf x) (k.toNat + 1) d.toNat ++
      mmaLitChecks s.lead.lit (t = 1) (nTileOf s (s.group s.leadGroup).blk) ++
      mmaWaits s (codeOf x) (k.toNat + 1) d.toNat ::
      (s.lead.lit.filter fun l => bitNat l.toNat 4).toList.map (fun l => qWait s (100 + l.toNat % 16)) ++
      hintChecks s.lead true false false) (outsideSpan fun s => runMma (mmaOp opc i x t z b a k d s) s)

def execMma (i x : BitVec 8) (t z b a k : BitVec 1) (d : BitVec 2) (s : State) : Res := execMmaAs .base 0xA0 i x t z b a k d s
def execMmaNf (i x : BitVec 8) (t z b a k : BitVec 1) (d : BitVec 2) (s : State) : Res := execMmaAs .narrow 0xA1 i x t z b a k d s
def execMmaF64 (i x : BitVec 8) (t z b a k : BitVec 1) (d : BitVec 2) (s : State) : Res := execMmaAs .double 0xA2 i x t z b a k d s

/-- The results of a run, through its last k-block: they land, the D registers are mapped and take the shadow full, the A
range is released on last use, INV is set (R177, R190, R299, R304). -/
def landMma (s : State) (g : Nat) (r : MmaRun) : State :=
  let live := laneMask ((s.liveOf g).map laneOf)
  let s1 := match r.stages.getLast? with
    | none => s
    | some (ls, _) =>
      let land := fun (v : Tab Word) (l : Landing) => putReg v l.reg l.wide l.value
      let put := fun (t : Nat) (x : Thread) => { x with v := (ls.filter fun l : Landing => tKey g l.lane == t).foldl land x.v }
      let map := fun (x : Group) => (List.range 64).foldl (fun (x : Group) i => x.wrote live live (r.dreg + i) .full) x
      { s with threads := tabOver s.threads (s.liveOf g) put } |>.modGroup g map
  let free := fun (x : Group) => (List.range r.anum).foldl (fun x i => x.lastUse live live (r.areg + i)) x
  let drop := fun (_ : Nat) (t : Thread) => { t with v := (List.range r.anum).foldl (fun v i => tabDrop v (r.areg + i)) t.v }
  let s2 := if r.lastA then ({ s1 with threads := tabOver s1.threads (s1.liveOf g) drop }).modGroup g free else s1
  s2.modGroup g fun x => if r.stages.any (·.2) then x.flag fInv else x

/-- MMA_COMPLETE (R306). -/
def execMmaComplete (g : Nat) (s : State) : Res :=
  match (s.group g).mma with
  | none => .next s
  | some r => .next ((landMma (countCore s (coreOfG g) 12 r.stages.length) g r).modGroup g fun x => { x with mma := none })

/-! ## Continuations -/

/-- The 32 bytes of a continuation block (R316). -/
def Cont.bytes (c : Cont) : Nat :=
  c.opc.toNat + c.fbyte.toNat * 2 ^ 8 + c.tid.toNat * 2 ^ 16 + c.xbyte.toNat * 2 ^ 24 + c.nextkb.toNat * 2 ^ 32 +
    c.rank * 2 ^ 40 + c.litv.toNat * 2 ^ 64 + (if c.litb then 2 ^ 88 else 0) + c.qval.toNat * 2 ^ 128 + c.pc.toNat * 2 ^ 192

/-- A continuation block as read, and whether a reserved bit is set (R316, R317). -/
def contOf (x : Nat) : Cont × Bool :=
  ({ opc := BitVec.ofNat 8 x, fbyte := BitVec.ofNat 8 (x / 2 ^ 8), tid := BitVec.ofNat 8 (x / 2 ^ 16)
     xbyte := BitVec.ofNat 8 (x / 2 ^ 24), nextkb := BitVec.ofNat 8 (x / 2 ^ 32), rank := bitsNat x 43 40
     litv := BitVec.ofNat 24 (x / 2 ^ 64), litb := bitNat x 88, qval := BitVec.ofNat 64 (x / 2 ^ 128)
     pc := BitVec.ofNat 64 (x / 2 ^ 192) },
   bitsNat x 47 44 != 0 || bitsNat x 63 48 != 0 || bitsNat x 95 89 != 0 || bitsNat x 127 96 != 0)

/-- The word of a split command as its block holds it, without ZC (R316). -/
def Cont.word (c : Cont) : Word := c.opc ++ c.tid ++ c.xbyte ++ c.fbyte

/-- The operation that an MMA continuation names (R317). -/
def mmaOfCont (c : Cont) : MmaOp :=
  let f := c.fbyte.toNat
  { opc := c.opc.toNat, id := c.tid.toNat, areg := codeOf c.xbyte, lastA := lastOf c.xbyte
    tile := if bitNat f 6 then some (bitsNat c.litv.toNat 10 5) else none
    zc := bitNat f 5, nb := bitNat f 4, na := bitNat f 3, nkb := bitsNat f 2 2 + 1, db := f % 4
    row0 := c.qval.toInt, j0 := c.nextkb.toNat, pc := c.pc, cont := { c with fbyte := c.fbyte &&& 0xDF } }

/-- FBYTE, XBYTE or LITV that the original MMA word could not hold, whatever the grid's limits, or a wrong family or k-block
(R317). -/
def mmaContBad (reserved : Bool) (c : Cont) : Bool :=
  let o := mmaOfCont c
  reserved || !(o.opc == 0xA0 || o.opc == 0xA1 || o.opc == 0xA2) || decide (o.nkb ≤ o.j0) ||
    bitNat c.fbyte.toNat 7 || (!c.litb && c.litv != 0) ||
    (lowestReason (mmaRanges 96 o.areg o.nkb o.db ++
      mmaLitChecks (if c.litb then some c.litv else none) o.tile.isSome 64)).isSome

/-- The checks of order 1 of R307 that hang on the grid's limits, made again for a continuation (R317): a register at or above
REGMAX, or a tile at or above NTILE. DEDUCED (log 67), unsafe. -/
def mmaContReason (s : State) (b : Nat) (c : Cont) : Option Nat :=
  let o := mmaOfCont c
  lowestReason (mmaRanges (s.gridOf b).launch.regMax o.areg o.nkb o.db ++
    mmaLitChecks (if c.litb then some c.litv else none) o.tile.isSome (nTileOf s b))

/-- MMA.CONT for one group (R317): the block is read at the group's uniform position; its faults carry the block's PC. -/
def mmaContOne (code : Nat) (g : Nat) (s : State) : State :=
  let b := (s.group g).blk
  let ks := s.liveOf g
  let k := ks.headD 0
  let va := srcValue s k (s.thread k) true code
  let word : DWord := s.issue.word.setWidth 64
  if va.toNat % 32 ≠ 0 then bundleTrap s ks 0x0011 true fun _ => (va, [word, 32])
  else match readClean s (s.asidOf b) va .load 32 with
  | .error (a, r) =>
    if r = poisonReason then poisonKill s (s.block b).gid a.toNat
    else bundleTrap s ks 0x0012 true fun _ => (a, [word, BitVec.ofNat 64 r, 0])
  | .ok v =>
    let c := (contOf v).1
    let cl := classOf c.opc.toNat
    let at_ := { s with issue := { s.issue with pc := c.pc } }
    let back := fun t : State => { t with issue := s.issue }
    if !cl.onDie (Config.dieOfCore (coreOfB b)) then
      (if canMigrate (s.gridOf b).launch cl then
        { migrateTrap { s with issue := { s.issue with members := ks } } cl with issue := s.issue } else illegal s ks 2)
    else if mmaContBad (contOf v).2 c then back (mmaTrap at_ ks (mmaOfCont c) (.descriptor 0xFFFF))
    else match mmaContReason s b c with
    | some r => back (illegal at_ ks r)
    | none => back (mmaOne (mmaOfCont c) g (passMma g) (meets at_ (s.asidOf b) .load [(va, 32)]))

/-- MMA.CONT (R317). -/
def execMmaCont (x : BitVec 8) : State → Res :=
  onWhole fun s =>
    onThreads s .base .no (xCheck x false false :: qWait s (codeOf x) :: hintChecks s.lead false false false) <| outsideSpan fun s =>
      let gs := (s.members.map grpOf).eraseDups
      if gs.any fun g => (s.group g).mma.isSome || !(s.group g).loads.isEmpty || !(s.group g).atomics.isEmpty then s
      else gs.foldl (fun s g => mmaContOne (codeOf x) g s) s

/-! ## MMAT -/

/-- An MMAT as its word or its continuation gives it (R310, R316). -/
structure MmatOp where
  opc : Nat
  idB : Nat
  desc : Nat
  ranks : Nat
  na : Bool
  nb : Bool
  zc : Bool
  j0 : Nat
  deriving DecidableEq, Repr

/-- cA, cB, cD and tA of a descriptor (R310). -/
def MmatOp.cA (o : MmatOp) : Nat := bitsNat o.desc 5 0
def MmatOp.cB (o : MmatOp) : Nat := bitsNat o.desc 13 8
def MmatOp.cD (o : MmatOp) : Nat := bitsNat o.desc 21 16
def MmatOp.idA (o : MmatOp) : Nat := bitsNat o.desc 31 24

/-- Reserved bits of a descriptor. -/
def MmatOp.reserved (o : MmatOp) : Bool :=
  bitsNat o.desc 7 6 != 0 || bitsNat o.desc 15 14 != 0 || bitsNat o.desc 23 22 != 0 || decide (2 ^ 32 ≤ o.desc)

/-- Columns of a participating rank (R311). -/
def colsOf (n p : Nat) : Nat := min 128 (n - 128 * p)

/-- What an MMAT's checks at its start find (R312). -/
inductive MmatCheck where
  | pass
  | wait
  | tensor (id : Nat)
  | descriptor (id : Nat) (field : Nat)
  | tileState (n : Nat) (st : TileState) (rank : Nat)
  | placement (n : Nat) (start : Nat)
  | page (addr : DWord) (reason : Nat)
  deriving DecidableEq, Repr

/-- The tile of a participating rank p. -/
def rankTile (s : State) (b p n : Nat) : Tile :=
  match rankBlock s b ((s.block b).rank + p) with
  | some x => s.tile x n
  | none => {}

/-- Checks of an MMAT at its start (R307 with the replacements of R312); a failure that is not tA's alone names tB (R308).
DESIGN CHOICE (log 67, log 82), unsafe. -/
def mmatCheck (s : State) (b : Nat) (o : MmatOp) : MmatCheck :=
  match tensorAt s b o.idA, tensorAt s b o.idB with
  | none, _ => .tensor o.idA
  | _, none => .tensor o.idB
  | some a, some t =>
    let m := a.ext.getD 1 0
    let k := a.ext.getD 0 0
    let n := t.ext.getD 0 0
    let kb := kBlock o.opc t.etype t.fmt
    let fieldB := firstField
      [ (0x10, a.fmt != t.fmt), (0x12, a.etype != t.etype || kb.isNone), (0x13, t.layout == 3), (0x14, t.ndim != 2),
        (0x20, n == 0 || decide (512 < n)), (0x24, k != t.ext.getD 1 0) ]
    let fieldA := firstField [ (0x13, a.layout == 3), (0x14, a.ndim != 2), (0x24, m == 0 || decide (128 < m)) ]
    let ranks := (List.range o.ranks)
    match fieldB, fieldA with
    | some f, _ => .descriptor o.idB f
    | none, some f => .descriptor o.idA f
    | none, none =>
      if o.reserved || o.ranks != ceilDiv n 128 || decide (ranksOf s b < (s.block b).rank + o.ranks) then
        .descriptor o.idB 0xFFFF
      else
        -- what each named tile is to hold: A, and the B and D slices of every rank
        let sizes := (0, o.cA, rowBytes a.etype a.fmt k * m) :: (ranks.flatMap fun p =>
          [(p, o.cB, rowBytes t.etype t.fmt (colsOf n p) * k), (p, o.cD, 512 * m)])
        let named := sizes.map fun e => (e.1, e.2.1)
        let tooSmall := sizes.any fun e => (rankTile s b e.1 e.2.1).lacks e.2.2
        let started := ranks.all fun p => match rankBlock s b ((s.block b).rank + p) with
          | some x => x == b || (s.block x).started
          | none => true
        if tooSmall then .descriptor o.idB 0xFFFF
        else if !started then .wait
        else if named.any fun e => (rankTile s b e.1 e.2).state == .filling then .wait
        else match named.find? fun e => (rankTile s b e.1 e.2).state != .ready with
        | some (p, c) => .tileState c (rankTile s b p c).state ((s.block b).rank + p)
        | none =>
          let rowsA := List.range m
          let rowsB := List.range k
          match worstPage s (s.asidOf b) (scaleRanges a rowsA ++ scaleRanges t rowsB) .load with
          | some (x, r) => .page x r
          | none =>
            match (named.drop 1).find? fun e => !(rankTile s b e.1 e.2).vault with
            | some (p, c) => .placement c (rankTile s b p c).start
            | none => .pass

/-- D slice of rank p: rows of words. -/
def dSlice (s : State) (x : Nat) (c : Tile) (m np : Nat) : List (List DWord) :=
  (List.range m).map fun i => (List.range np).map fun n => BitVec.ofNat 64 (readTile s x c (512 * i + 4 * n) 4)

/-- One rank's share of an MMAT (R311): the k-blocks from j0 to below `stop`, then its D slice is written. -/
def mmatRank (s : State) (b : Nat) (o : MmatOp) (a t : Tensor) (kb stop p : Nat) : State × Bool :=
  match rankBlock s b ((s.block b).rank + p) with
  | none => (s, false)
  | some x =>
    let m := a.ext.getD 1 0
    let k := a.ext.getD 0 0
    let np := colsOf (t.ext.getD 0 0) p
    let ca := s.tile b o.cA
    let cb := s.tile x o.cB
    let cd := s.tile x o.cD
    let rba := rowBytes a.etype a.fmt k
    let rbb := rowBytes t.etype t.fmt np
    let asid := s.asidOf b
    let aRows := (List.range m).map fun i =>
      let row := readTile s b ca (rba * i) rba
      (List.range k).map fun e => termOf o.na (elemValue a.etype a.fmt row e) (scaleOf s asid a e i)
    let bRows := (List.range k).map fun r =>
      let row := readTile s x cb (rbb * r) rbb
      (List.range np).map fun n => termOf o.nb (elemValue t.etype t.fmt row n) (scaleOf s asid t (128 * p + n) r)
    let step := fun (acc : List (List DWord) × Bool) (j : Nat) =>
      let from_ := j * kb
      let pad := fun (l : List (Option Term)) => if l.length < kb then l ++ [none] else l
      let as := aRows.map fun r => ((r.drop from_).take kb) ++ [{ v := .fin false 0 0, nan := false : Term }]
      let bs := (List.range np).map fun n =>
        pad (((bRows.drop from_).take kb).map fun r => r[n]?)
      let r := matBlock (accOf t.etype) (o.zc && j == 0 && o.j0 == 0) as bs acc.1
      (r.1, acc.2 || r.2)
    let blocks := (List.range (min stop (ceilDiv k kb))).drop o.j0
    let r := blocks.foldl step (dSlice s x cd m np, false)
    let writes := (r.1.mapIdx fun i row => row.mapIdx fun n v => (512 * i + 4 * n, v)).flatten
    (writes.foldl (fun s e => writeTile s x cd e.1 4 e.2.toNat) s, r.2)

/-- An MMAT through its k-blocks below `stop` (R311, R313, R315): every participating rank, and INV. -/
def runMmat (s : State) (b : Nat) (o : MmatOp) (stop : Nat) : State × Bool :=
  match tensorAt s b o.idA, tensorAt s b o.idB with
  | some a, some t =>
    let kb := (kBlock o.opc t.etype t.fmt).getD 1
    (List.range o.ranks).foldl (fun r p =>
      let x := mmatRank r.1 b o a t kb stop p
      (x.1, r.2 || x.2)) (s, false)
  | _, _ => (s, false)

/-- What an MMAT reads of memory beside its tiles: its scales (R70). -/
def mmatReads (s : State) (b : Nat) (o : MmatOp) : List (DWord × Nat) :=
  match tensorAt s b o.idA, tensorAt s b o.idB with
  | some a, some t => scaleRanges a (List.range (a.ext.getD 1 0)) ++ scaleRanges t (List.range (a.ext.getD 0 0))
  | _, _ => []

/-- A poisoned word in a tile that an MMAT reads (R455): A, and the B and D slices of its ranks. -/
def mmatTilePoison (s : State) (b : Nat) (o : MmatOp) : Option Nat :=
  match tensorAt s b o.idA, tensorAt s b o.idB with
  | some a, some t =>
    let m := a.ext.getD 1 0
    let k := a.ext.getD 0 0
    match tilePoison s b (s.tile b o.cA) 0 (rowBytes a.etype a.fmt k * m) with
    | some pa => some pa
    | none => (List.range o.ranks).findSome? fun p =>
      match rankBlock s b ((s.block b).rank + p) with
      | none => none
      | some x =>
        match tilePoison s x (s.tile x o.cB) 0 (rowBytes t.etype t.fmt (colsOf (t.ext.getD 0 0) p) * k) with
        | some pa => some pa
        | none => tilePoison s x (s.tile x o.cD) 0 (512 * m)
  | _, _ => none

/-- A tile that an MMAT's descriptor names is at or above NTILE (R268). -/
def descTilesBad (ntile : Nat) (desc : Nat) : Bool :=
  decide (ntile ≤ bitsNat desc 5 0) || decide (ntile ≤ bitsNat desc 13 8) || decide (ntile ≤ bitsNat desc 21 16)

/-- The F and X bytes of an MMAT as its command keeps them: P in [7:0], NA, NB, ZC and SYNC in [11:8], X in [23:16]. -/
def mmatFlags (p : Nat) (a b z y : Bool) (x : Nat) : DWord :=
  BitVec.ofNat 64 (p + 1 + (if a then 256 else 0) + (if b then 512 else 0) + (if z then 1024 else 0) + (if y then 2048 else 0) +
    x * 2 ^ 16)

/-- MMAT of either class (R310): the Lectern issues it; it starts at MMAT_START. -/
def execMmatAs (c : Class) (opc : Nat) (i x : BitVec 8) (z b a : BitVec 1) (p : BitVec 2) (y : BitVec 1) (s : State) : Res :=
  let tilesBad := seesLectern s && !(xCheck x false false).2 && descTilesBad (nTileOf s s.issueBlock) (xVal s x).toNat
  onUniform s c (xCheck x false false :: (4, tilesBad) :: hintChecks (uniLead s) false false false) none fun s =>
    issueCmd s .matrix (y = 1) { (newCmd .mmat) with
      src := opc, dst := i.toNat, d0 := xVal s x, d1 := mmatFlags p.toNat (a = 1) (b = 1) (z = 1) (y = 1) x.toNat }

def execMmat (i x : BitVec 8) (z b a : BitVec 1) (p : BitVec 2) (y : BitVec 1) (s : State) : Res :=
  execMmatAs .base 0xA4 i x z b a p y s
def execMmatNf (i x : BitVec 8) (z b a : BitVec 1) (p : BitVec 2) (y : BitVec 1) (s : State) : Res :=
  execMmatAs .narrow 0xA6 i x z b a p y s

/-- The operation of an MMAT command. -/
def Cmd.mmatOp (c : Cmd) : MmatOp :=
  let f := c.d1.toNat
  { opc := c.src, idB := c.dst, desc := c.d0.toNat, ranks := f % 256, na := bitNat f 8, nb := bitNat f 9, zc := bitNat f 10
    j0 := c.from_ }

/-- The k-blocks of an MMAT's tensors; none where a tensor is not valid or its type is not accepted. -/
def mmatBlocks (s : State) (b : Nat) (o : MmatOp) : Option Nat :=
  match tensorAt s b o.idA, tensorAt s b o.idB with
  | some a, some t => (kBlock o.opc t.etype t.fmt).map (ceilDiv (a.ext.getD 0 0))
  | _, _ => none

/-- The command that an MMAT continuation names (R316, R317). -/
def mmatCmdOf (c : Cont) : Cmd :=
  let f := c.fbyte.toNat
  { (newCmd .mmat) with
    src := c.opc.toNat, dst := c.tid.toNat, d0 := c.qval, from_ := c.nextkb.toNat
    d1 := mmatFlags (bitsNat f 2 1) (bitNat f 3) (bitNat f 4) (bitNat f 5) (bitNat f 0) c.xbyte.toNat }

/-- The continuation block of an MMAT that goes on with k-block `next` (R316). -/
def mmatContOf (c : Cmd) (rank next : Nat) : Cont :=
  let o := c.mmatOp
  { opc := BitVec.ofNat 8 o.opc, tid := BitVec.ofNat 8 o.idB, nextkb := BitVec.ofNat 8 next, rank := rank
    fbyte := BitVec.ofNat 8 ((if bitNat c.d1.toNat 11 then 1 else 0) + (o.ranks - 1) * 2 + (if o.na then 8 else 0) +
      (if o.nb then 16 else 0))
    xbyte := BitVec.ofNat 8 (c.d1.toNat / 2 ^ 16), litv := 0, litb := false, qval := c.d0, pc := c.pc }

/-- An MMAT continuation that the original word could not hold (R317); a tensor that is not valid is found at the start (R50). -/
def mmatContBad (s : State) (b : Nat) (reserved : Bool) (c : Cont) : Bool :=
  reserved || !(c.opc == 0xA4 || c.opc == 0xA6) || c.rank != (s.block b).rank || bitsNat c.fbyte.toNat 7 6 != 0 ||
    (xCheck c.xbyte false false).2 || c.litb || c.litv != 0 ||
    (match mmatBlocks s b (mmatCmdOf c).mmatOp with | some n => decide (n ≤ c.nextkb.toNat) | none => false)

/-- The block that an MMAT.CONT names, where it can be read and the Lectern's registers stand for it. -/
def mmatContBlock (x : BitVec 8) (s : State) : Option Cont :=
  if seesLectern s && !(xCheck x false false).2 && (xVal s x).toNat % 32 == 0 then
    match readVirt s (s.asidOf s.issueBlock) (xVal s x) .load 32 with
    | .ok v => some (contOf v).1
    | .error _ => none
  else none

/-- The class that row 4 of R149 asks of an MMAT.CONT: that of the OPC in its block (R317). -/
def mmatContClass (x : BitVec 8) (s : State) : Class :=
  match mmatContBlock x s with | some c => classOf c.opc.toNat | none => .base

/-- A block of the right form names a tile at or above NTILE (R268, R317). -/
def mmatContTiles (x : BitVec 8) (s : State) : Bool :=
  match mmatContBlock x s with
  | some c => (c.opc == 0xA4 || c.opc == 0xA6) && descTilesBad (nTileOf s s.issueBlock) c.qval.toNat
  | none => false

/-- MMAT.CONT (R317): the Lectern reads the block and issues the rest of the command. -/
def execMmatCont (x : BitVec 8) (s : State) : Res :=
  onUniform s (mmatContClass x s) (xCheck x false false :: (4, mmatContTiles x s) ::
      hintChecks (uniLead s) false false false) none fun s =>
    let b := s.issueBlock
    let va := xVal s x
    let word : DWord := s.issue.word.setWidth 64
    if va.toNat % 32 ≠ 0 then blockTrap s b 0x0011 true s.issue.pc va [word, 32]
    else match readClean s (s.asidOf b) va .load 32 with
    | .error (a, r) =>
      if r = poisonReason then poisonKill s (s.block b).gid a.toNat
      else blockTrap s b 0x0012 true s.issue.pc a [word, BitVec.ofNat 64 r, 4]
    | .ok v =>
      let c := (contOf v).1
      if mmatContBad s b (contOf v).2 c then
        blockTrap s b 0x0031 false c.pc 0 [word, c.tid.setWidth 64, 0xFFFF, BitVec.ofNat 64 (coreOfB b), 0xFFFFFFFF]
      else
        let s1 := issueCmd (meets s (s.asidOf b) .load [(va, 32)]) .matrix (bitNat c.fbyte.toNat 0) (mmatCmdOf c)
        s1.modBlock b fun y => { y with cmds := y.cmds.map fun d =>
          if d.pos == y.dqBase + y.dq.length - 1 then { d with pc := c.pc } else d }

end Sys2Proof.Machine
end

