-- ==== Sys2Proof/Machine/Depend.lean ====
section
/-! DEFINITION. Dependences of queue heads (R105) and what a write to a signal word re-evaluates (R105, R107, R395). -/

namespace Sys2Proof.Machine

/-- Rejects a head: the launch-rejected event, and its entry is taken (R43, R97, R105). -/
def rejectGrid (s : State) (gid : Nat) (off : Nat) : State :=
  let g := s.grid gid
  let s1 := sendEvent s 0x0001 g.origin.die? 0xFF (g.launch.jobId.setWidth 64) (BitVec.ofNat 64 off) g.addr
  takeHead { s1 with grids := tabDrop s1.grids gid } g.origin

/-- Evaluates the dependence of a waiting head while its die's dispatcher serves (R105, R457): met, not yet, or a fault that rejects the grid at offset 0x90. -/
def evalDependence (s : State) (gid : Nat) : State :=
  match tabGet s.grids gid with
  | none => s
  | some g =>
    if g.stage != .waiting || !dieServes s g.origin.die? then s
    else if g.launch.waitAddr = 0 then s.setGrid gid { g with stage := .eligible }
    else match readVirt s g.asid g.launch.waitAddr .load 8 with
      | .error _ => rejectGrid s gid 0x90
      | .ok v =>
        let s := finds s g.asid .load [(g.launch.waitAddr, 8)]
        if g.launch.waitVal.toNat ≤ v then
          -- what the satisfying value released at package scope (R105, R372)
          let hb := match translate s g.asid g.launch.waitAddr .load with
            | .ok pa => s.order.viewAt pa 8 .package
            | .error _ => []
          s.setGrid gid { g with stage := .eligible, since := s.tick, startHb := hb }
        else s

/-- A signal word at a physical address has been written: every waiting head whose WAITADDR translates to it is
evaluated again (R105, R395). -/
def signalWritten (s : State) (pa : Nat) : State :=
  let hit := s.grids.filter fun e => e.2.stage == .waiting && e.2.launch.waitAddr.toNat != 0 &&
    (match translate s e.2.asid e.2.launch.waitAddr .load with
     | .ok a => a == pa
     | .error _ => false)
  hit.foldl (fun s e => evalDependence s e.1) s

end Sys2Proof.Machine
end

