-- ==== Sys2Proof/Machine/Sync.lean ====
section
/-! DEFINITION. Atomics, acquires and releases, signal words, fences, waits and barriers (R387 to R403). -/

namespace Sys2Proof.Machine

/-! ## Format A -/

/-- The LIT of a format A instruction; 0 without one (R388). -/
def litA (t : Thread) : Nat := (t.lit.map (·.toNat)).getD 0

/-- SH of R388: the address is an offset into shared memory. -/
def litShared (t : Thread) : Bool := bitNat (litA t) 3

/-- ALT of R388. -/
def litAlt (t : Thread) : Bool := bitNat (litA t) 2

/-- ORD of R388. -/
def litOrd (t : Thread) : Nat := litA t % 4

/-- Checks common to format A (R387, R388). -/
def checksA (s : State) (sc : BitVec 3) (i : BitVec 7) (bad : Bool) : List (Nat × Bool) :=
  (3, decide (6 ≤ sc.toNat) || decide (16 ≤ litA s.lead) || bad) ::
    srcChecks s ((0 : BitVec 1) ++ i) false ++ hintChecks s.lead true false false

/-- The accesses of a format A instruction (R387, R388). -/
def lanesA (i : BitVec 7) (a : BitVec 4) (size : Nat) (s : State) : List LaneAcc :=
  let foot := footLow s i.toNat a.toNat 0 size
  s.enabled.map fun k =>
    { arrayLane s k a.toNat (lowInt (srcValue s k (s.thread k) false i.toNat)) size (litShared s.lead) with foot := foot }

/-- Counts a checked access of format A (R200). -/
def countCheckedA (s : State) (i : BitVec 7) (a : BitVec 4) (size : Nat) : State := countChecked s i.toNat a.toNat 0 size

/-- The rank of a key's weight (R393): FP32 order with −0 below +0, every NaN above +∞ and all equal. -/
def weightRank (w : Word) : Nat :=
  let m := w.toNat % 2 ^ 31
  if 0x7F800000 < m then 2 ^ 33 else if w.msb then 2 ^ 31 - 1 - m else 2 ^ 31 + m

/-- mink (R393). -/
def mink (old x : DWord) : DWord :=
  let rank := fun k : DWord => weightRank ((k >>> 32).setWidth 32) * 2 ^ 32 + k.toNat % 2 ^ 32
  if rank x < rank old then x else old

/-- The operation f(old, x) of R392 at width `size`; none for a reserved one. -/
def atomicFn (opn : Nat) (alt : Bool) (size : Nat) : Option (Nat → Nat → Nat) :=
  let sg := fun n => sextNat n (8 * size)
  match alt, opn with
  | false, 0 => some fun o x => (o + x) % 2 ^ (8 * size)
  | false, 1 => some fun _ x => x
  | false, 2 => some fun o x => if sg x < sg o then x else o
  | false, 3 => some fun o x => if sg o < sg x then x else o
  | false, 4 => some fun o x => if x < o then x else o
  | false, 5 => some fun o x => if o < x then x else o
  | false, 6 => some fun o x => (BitVec.ofNat 64 o &&& BitVec.ofNat 64 x).toNat
  | false, 7 => some fun o x => (BitVec.ofNat 64 o ||| BitVec.ofNat 64 x).toNat
  | true, 0 => some fun o x => (BitVec.ofNat 64 o ^^^ BitVec.ofNat 64 x).toNat
  | true, 1 => if size = 8 then some fun o x => (mink (BitVec.ofNat 64 o) (BitVec.ofNat 64 x)).toNat else none
  | _, _ => none

/-- The order side of one lane of an atomic (R373, R389): its read part, and its write part where it writes. -/
def atomicOrder (s : State) (l : LaneAcc) (size sc : Nat) (acq rel wrote : Bool) : State :=
  let loc := locOf s .store l
  let i := instOf s l.k sc
  let t := tidOf s l.k
  let o := s.order.atomicRead loc size i t acq
  { s with order := if wrote then o.atomicWrite loc size i t rel else o }

/-- Performs the lanes of a bundle in increasing lane position (R391): each reads what the one before left. `f k old`
gives what the lane writes, if it writes; the results are the old values. -/
def performLanes (s : State) (ls : List LaneAcc) (size sc : Nat) (acq rel : Bool) (f : Nat → Nat → Option Nat) :
    State × List (Nat × DWord) :=
  ls.foldl (fun r l =>
    if l.masked then (r.1, r.2 ++ [(l.k, 0)])
    else
      let old := readPlace r.1 l .store size
      -- the read part sees the release that the location still holds
      let o := (atomicOrder r.1 l size sc acq rel (f l.k old).isSome).order
      let s1 := match f l.k old with | some v => writePlace r.1 l size v | none => r.1
      ({ s1 with order := o }, r.2 ++ [(l.k, BitVec.ofNat 64 old)])) (s, [])

/-- The race check of an atomic's lanes (R382, R386) in the order `o` that the lanes leave, each with what it acquires, from a lower
lane too (R391); `wrote` tells which of them write: a CAS that finds a different value does not. -/
def atomicRace (s : State) (o : Order) (ls : List LaneAcc) (size sc : Nat) (wrote : Nat → Bool) : List RaceAcc × Option State :=
  let as := (raceAccs s ls .store size true fun l => some (instOf s l.k sc)).map fun a => { a with wrote := wrote a.k }
  (as, raceTrap s o as)

/-- The lanes of an atomic that write, each from what the lanes before it leave (R391). -/
def writers (s : State) (ls : List LaneAcc) (size : Nat) (f : Nat → Nat → Option Nat) : List Nat :=
  (ls.foldl (fun r l =>
    if l.masked then r else match f l.k (readPlace r.1 l .store size) with
    | some v => (writePlace r.1 l size v, r.2 ++ [l.k])
    | none => r) ((s, []) : State × List Nat)).2

/-- A release of the bundle must still wait (R389). -/
def releaseWaits (s : State) : Bool := (s.enabled.map grpOf).any fun g => !drained s g

/-- Results of an atomic on their way (R391): the destination is written at ATOMIC_COMPLETE; rows, shadows and latch
follow at issue. `acq`: the atomic is an acquire (R389). -/
def beginAtomics (s : State) (d : BitVec 7) (wide : Bool) (vals : List (Nat × DWord)) (acq : Bool := false) : State :=
  let ks := vals.map (·.1)
  let send := fun (g : Nat) (x : Group) =>
    let x1 := groupWrite (laneMask ((s.liveOf g).map laneOf)) (lanesIn ks g) d.toNat wide .full x
    { x1 with atomics := x1.atomics ++ [(vals.filter fun v => grpOf v.1 == g).map fun v =>
        { lane := laneOf v.1, reg := d.toNat, wide := wide, value := v.2, born := s.tick, acq := acq }] }
  let s1 := { s with groups := tabOver s.groups (ks.map grpOf).eraseDups send }
  advanceAll s1 false fun k => some { value := ((vals.find? fun v => v.1 == k).map (·.2)).getD 0, iv := .full, born := some s.tick }

/-- The course of an atomic at a scope (R389 to R391): a release waits; checks; the race check; the lanes; the region
closes. `finish` sends the results or counts the write. -/
def doAtomic (size sc : Nat) (acq rel : Bool) (lanes : State → List LaneAcc) (f : State → Nat → Nat → Option Nat)
    (finish : State → List LaneAcc → List (Nat × DWord) → State) (s : State) : State :=
  if (rel && releaseWaits s) || acquiring s then s else
  let ls := lanes s
  match accessTrap s ls size .store 2 with
  | some t => t
  | none =>
    let at_ := ls.map (resolve s .store)
    let ready := afterBanks s ls .store
    let wrote := writers ready at_ size (f ready)
    let race := atomicRace s (performLanes ready at_ size sc acq rel (f ready)).1.order ls size sc wrote.contains
    match race.2 with
    | some t => t
    | none =>
      match bundleMeets s ls .store size with
      | some (gid, pa) => poisonKill s gid pa
      | none =>
        let start := countConflicts (sampleBundle (recordAll ready race.1) ls) ls size
        let r := performLanes start at_ size sc acq rel (f ready)
        closeRegions (finish (correctLanes r.1 ls size) ls r.2) s.members

/-- The order of a format A instruction: acquire, release (R388). -/
def ordAcq (t : Thread) : Bool := litOrd t % 2 == 1
def ordRel (t : Thread) : Bool := 2 ≤ litOrd t

/-- ATOM (R390 to R392). -/
def execAtom (size : Nat) (d : BitVec 7) (sc o : BitVec 3) (i : BitVec 7) (a : BitVec 4) (s : State) : Res :=
  let wide := size == 8
  let t := s.lead
  let fn := (atomicFn o.toNat (litAlt t) size).getD fun o _ => o
  onThreads s .base .yes (checksA s sc i (atomicFn o.toNat (litAlt t) size).isNone ++
      ((4, decide (96 ≤ d.toNat)) :: dstChecks s d 0 wide))
    fun s => doAtomic size sc.toNat (ordAcq t) (ordRel t) (lanesA i a size)
      (fun s k old => some (fn old (srcValue s k (s.thread k) wide d.toNat).toNat))
      (fun s _ vals => beginAtomics s d wide vals (ordAcq t)) (countCheckedA s i a size)

def execAtom32 (d : BitVec 7) (sc o : BitVec 3) (i : BitVec 7) (a : BitVec 4) (s : State) : Res := execAtom 4 d sc o i a s
def execAtom64 (d : BitVec 7) (sc o : BitVec 3) (i : BitVec 7) (a : BitVec 4) (s : State) : Res := execAtom 8 d sc o i a s

/-- CAS (R390, R391): compare and new values lie in consecutive registers or pairs. -/
def execCas (size : Nat) (d : BitVec 7) (sc : BitVec 3) (i : BitVec 7) (a : BitVec 4) (s : State) : Res :=
  let wide := size == 8
  let n := d.toNat
  let span := if wide then 4 else 2
  let t := s.lead
  onThreads s .base .yes (checksA s sc i (litAlt t) ++
      [(4, decide (96 ≤ n)), (6, decide (n < 96) && decide (n % span ≠ 0)),
       (5, decide (n < 96) && decide (n % span = 0) && decide (s.regMax < n + span)),
       (waitMark, (List.range span).any fun i => dstHeld s false (n + i))])
    fun s => doAtomic size sc.toNat (ordAcq t) (ordRel t) (lanesA i a size)
      (fun s k old =>
        let reg := fun m : Nat => (srcValue s k (s.thread k) wide m).toNat
        if old = reg n then some (reg (n + span / 2)) else none)
      (fun s _ vals => beginAtomics s d wide vals (ordAcq t)) (countCheckedA s i a size)

def execCas32 (d : BitVec 7) (sc : BitVec 3) (i : BitVec 7) (a : BitVec 4) (s : State) : Res := execCas 4 d sc i a s
def execCas64 (d : BitVec 7) (sc : BitVec 3) (i : BitVec 7) (a : BitVec 4) (s : State) : Res := execCas 8 d sc i a s

/-- RED (R390 to R392): no result; counted as a write (R277). -/
def execRed (size : Nat) (d : BitVec 7) (sc o : BitVec 3) (i : BitVec 7) (a : BitVec 4) (s : State) : Res :=
  let wide := size == 8
  let t := s.lead
  let fn := (atomicFn o.toNat (litAlt t) size).getD fun o _ => o
  onThreads s .base .yes (checksA s sc i ((atomicFn o.toNat (litAlt t) size).isNone || ordAcq t) ++
      srcChecks s ((0 : BitVec 1) ++ d) wide) fun s =>
    if counterFull s (·.nGather) then s else
    doAtomic size sc.toNat false (ordRel t) (lanesA i a size)
      (fun s k old => some (fn old (srcValue s k (s.thread k) wide d.toNat).toNat))
      (fun s ls _ => advanceNone (countGather s ls)) (countCheckedA s i a size)

def execRed32 (d : BitVec 7) (sc o : BitVec 3) (i : BitVec 7) (a : BitVec 4) (s : State) : Res := execRed 4 d sc o i a s
def execRed64 (d : BitVec 7) (sc o : BitVec 3) (i : BitVec 7) (a : BitVec 4) (s : State) : Res := execRed 8 d sc o i a s

/-- The checks of LDACQ and STREL: a LIT may set SH only (R394). -/
def checksAcq (s : State) (sc : BitVec 3) (i : BitVec 7) : List (Nat × Bool) :=
  checksA s sc i (litA s.lead % 8 != 0)

/-- LDACQ (R394). DEDUCED (log 30), unsafe. -/
def execLdacq (d : BitVec 7) (sc : BitVec 3) (z : BitVec 1) (i : BitVec 7) (a : BitVec 4) (s : State) : Res :=
  let wide := z == 1
  let size := if wide then 8 else 4
  onThreads s .base .yes (checksAcq s sc i ++ ((4, decide (96 ≤ d.toNat)) :: dstChecks s d 0 wide))
    fun s => doLoadAt (some sc.toNat) d 0 wide false size .full [] (lanesA i a size) (countCheckedA s i a size)

/-- STREL (R394): it takes the release action, and closes the region (R403). -/
def execStrel (d : BitVec 7) (sc : BitVec 3) (z : BitVec 1) (i : BitVec 7) (a : BitVec 4) (s : State) : Res :=
  let wide := z == 1
  let size := if wide then 8 else 4
  let data : BitVec 8 := (0 : BitVec 1) ++ d
  onThreads s .base .yes (checksAcq s sc i ++ srcChecks s data wide) fun s =>
    if releaseWaits s then s else
    match storeAt (some sc.toNat) data wide size [] (lanesA i a size) (countCheckedA s i a size) with
    | (true, s1) => closeRegions s1 s.members
    | (false, s1) => s1

/-! ## Signal words -/

/-- SIGW (R395): 8-byte atomics on addresses in lane order, a release at package scope; waiting heads on a word are
evaluated after its write. -/
def execSigw (f : Nat → Nat → Nat) (v x : BitVec 8) (s : State) : Res :=
  onThreads s .base .yes (srcChecks s v true ++ srcChecks s x true ++
      hintChecks s.lead false false false) fun s =>
    if counterFull s (·.nGather) || releaseWaits s then s else
    let lanes := fun s : State => s.enabled.map fun k =>
      let va := srcValue s k (s.thread k) true (codeOf x)
      ({ k := k, addr := va, place := .virt va } : LaneAcc)
    doAtomic 8 4 false true lanes (fun s k old => some (f old (srcValue s k (s.thread k) true (codeOf v)).toNat))
      (fun s1 ls _ =>
        let words := ls.map fun l => physOf s l.k .store l.addr
        words.foldl signalWritten (advanceNone (countGather (useFields s1 [(v, true), (x, true)]) ls))) s

/-- SIGW.st (R395). -/
def execSigwSt (v x : BitVec 8) (s : State) : Res := execSigw (fun _ n => n) v x s
/-- SIGW.add (R395). -/
def execSigwAdd (v x : BitVec 8) (s : State) : Res := execSigw (fun o n => (o + n) % 2 ^ 64) v x s
/-- SIGW.max (R395). -/
def execSigwMax (v x : BitVec 8) (s : State) : Res := execSigw max v x s

/-! ## FENCE and WAIT -/

/-- FENCE (R375, R396): it issues once the writes of its threads have completed, and takes its place in the order of
the fences of each thread's instance. -/
def execFence (sc : BitVec 3) (s : State) : Res :=
  onThreads s .base .yes ((3, decide (6 ≤ sc.toNat)) :: hintChecks s.lead false false false) fun s =>
    if releaseWaits s then s
    else
      let o := s.enabled.foldl (fun o k => o.fence (instOf s k sc.toNat) (tidOf s k)) s.order
      advanceNone { s with order := o }

/-- The operations of a class that a WAIT with threshold n covers (R377): all that the group counted but the n counted last;
`open_` of them are not logged yet. -/
def Group.covered (x : Group) (cls : OpClass) (open_ : Nat) (n : Nat) : List Op :=
  let l := x.ops.filter (·.cls = cls)
  l.take (l.length - (n - open_))

/-- What a thread takes from a WAIT (R377, R397): it adopts what has completed; for the collective class it departs from the
phases, at the instance of each. -/
def waitOrder (s : State) (cls : OpClass) (n : Nat) (o : Order) (k : Nat) : Order :=
  let g := s.group (grpOf k)
  let t := tidOf s k
  (g.covered cls (if cls = .coll then g.nColl else 0) n).foldl (fun o x =>
    if cls = .coll then o.acquire (instOf s k (if x.tag = 1 then 2 else 1)) t x.hb else o.adopt t x.hb) o

/-- WAIT (R377, R397): the enabled threads wait until their group's counter is at most n; then the bundle passes, and each adopts
what its group counted. -/
def execWait (cls : OpClass) (count : Group → Nat) (n : BitVec 6) (s : State) : Res :=
  onThreads s .base .yes (hintChecks s.lead false false false) fun s =>
    if (s.enabled.map grpOf).all fun g => decide (count (s.group g) ≤ n.toNat) then
      advanceNone { s with order := s.enabled.foldl (waitOrder s cls n.toNat) s.order }
    else s

/-- WAIT.copy (R397). -/
def execWaitCopy (n : BitVec 6) (s : State) : Res := execWait .copy (·.nCopy) n s
/-- WAIT.matrix (R397). -/
def execWaitMatrix (n : BitVec 6) (s : State) : Res := execWait .matrix (·.nMatrix) n s
/-- WAIT.gather (R397). -/
def execWaitGather (n : BitVec 6) (s : State) : Res := execWait .gather (·.nGather) n s
/-- WAIT.near-bank (R397). -/
def execWaitNearBank (n : BitVec 6) (s : State) : Res := execWait .bank (·.nBank) n s
/-- WAIT.collective (R397). -/
def execWaitCollective (n : BitVec 6) (s : State) : Res := execWait .coll (·.nColl) n s

/-! ## Barriers -/

/-- Threads that could arrive: those of the block, or of the cluster (R399). -/
def barRoom (s : State) (b : Nat) (cl : Bool) : Nat :=
  let r := (s.gridOf b).launch
  if cl then r.threads * r.clSize else r.threads

/-- One arrival (R399): the cause of a barrier fault (R402), or the barrier and the phase of the arrival. `count` is
none in live-count mode; `v` is what the thread releases to the phase (R400). -/
def Barrier.arrive (x : Barrier) (room : Nat) (live : List (Nat × Nat)) (id : Nat × Nat) (count : Option Nat) (v : View) :
    Except Nat (Barrier × Nat) :=
  let past := match count with | some c => c == 0 || decide (room < c) | none => false
  match x.count with
  | none =>
    if past then .error 1 else step { x with count := some count }
  | some c => if c != count then .error 0 else step x
where
  /-- Counts the arrival and completes the phase where it is full. -/
  step (y : Barrier) : Except Nat (Barrier × Nat) :=
    let z := { y with arrivals := y.arrivals + 1, who := if y.who.contains id then y.who else y.who ++ [id]
                      cur := joinView y.cur v }
    .ok (if z.full live then z.nextPhase else z, y.phase)

/-- The instance of a barrier (R372, R400). -/
def barInst (s : State) (b : Nat) (cl : Bool) : Inst :=
  let x := s.block b
  match cl, x.cluster with
  | true, some c => .cluster x.gid c
  | _, _ => .block x.gid x.num.toNat

/-- The arrivals of a bundle in lane order: the barrier, the phase of each arrival, and the offending lanes with their
causes (R399, R402). -/
def arriveAll (s : State) (b : Nat) (cl : Bool) (n : Nat) (ks : List Nat) (count : Nat → Option Nat) :
    Barrier × List (Nat × Nat) × List (Nat × Nat) :=
  let live := barLive s b cl
  ks.foldl (fun r k =>
    match r.1.arrive (barRoom s b cl) live (barId s k) (count k) (s.order.own (barInst s b cl) (tidOf s k)) with
    | .ok (x, ph) => (x, r.2.1 ++ [(k, ph)], r.2.2)
    | .error c => (r.1, r.2.1, r.2.2 ++ [(k, c)])) (getBar s b cl n, [], [])

/-- The barrier fault (R402). -/
def barFault (s : State) (b : Nat) (cl : Bool) (n : Nat) (bad : List (Nat × Nat)) (count : Nat → Option Nat) : State :=
  bundleTrap s (bad.map (·.1)) 0x0070 false fun g =>
    let e := (bad.find? fun e => grpOf e.1 == g).getD (0, 0)
    let enc := fun c : Option Nat => match c with | some c => BitVec.ofNat 64 c | none => 0xFFFFFFFF
    (0, [s.issue.word.setWidth 64, BitVec.ofNat 64 n, BitVec.ofNat 64 e.2, enc (count e.1),
         match (getBar s b cl n).count with | some c => enc c | none => 0])

/-- A thread after its arrival (R158, R400, R403, R436): the region closes, the step count rises unless a STEP stands in
the group, which gives the SNUM; a waiting thread stays at the instruction; a cut stops it. -/
def arrived (tick : Nat) (asked : GridHold) (wait : Option Wait) (t : Thread) : Thread :=
  let step := t.hints.bind (·.step)
  let snum := step.getD 0xFFFFFF
  let t1 := t.advance tick false none
  let t2 := { t1 with rentry := t1.pc, rcount := t.rcount + 1, rgen := t1.gen, rspan := t1.span
                      steps := if step.isSome then t.steps else t.steps + 1, snum := snum }
  let t3 := if cutStops asked t2.steps then { t2 with halt := .cut snum } else t2
  match wait with
  | some w => { t3 with pc := t.pc, wait := w }
  | none => t3

/-- A barrier instruction (R398 to R403). `waits`: BAR and CBAR. -/
def execBarrier (cl waits : Bool) (bn : BitVec 10) (x : BitVec 8) (s : State) : Res :=
  let r := (s.gridOf (s.group s.leadGroup).blk).launch
  let n := bn.toNat
  onThreads s .base .no ([(4, decide ((if cl then r.nCBar else r.nBar) ≤ n) || lastOf x || decide (codeOf x < 100)), qWait s (codeOf x)] ++
      hintChecks s.lead false false false) fun s =>
    if (!waits && counterFull s (·.nColl)) || releaseWaits s then s else
    let b := (s.group s.leadGroup).blk
    let count := fun k => if codeOf x = 126 then none
      else some (srcValue s k (s.thread k) false (codeOf x)).toNat
    let a := arriveAll s b cl n s.enabled count
    match a.2.2 with
    | e :: es => barFault s b cl n (e :: es) count
    | [] =>
      let phaseOf := fun k => ((a.2.1.find? fun e => e.1 == k).map (·.2)).getD 0
      let asked := s.cutAsked b
      -- the clocks of the threads that have released move on
      let s1 := if s.enabled.isEmpty then s else
        setBar { s with order := (s.enabled.map (tidOf s)).foldl Order.tick s.order } b cl n a.1
      let go := fun (k : Nat) (t : Thread) =>
        arrived s.now asked (if waits && t.enabled then some (.bar cl n (phaseOf k)) else none) t
      let collect := fun (g : Nat) (y : Group) =>
        let ph := (a.2.1.filter fun e => grpOf e.1 == g).map (·.2)
        { y with nColl := y.nColl + 1
                 coll := y.coll ++ [{ cluster := cl, bar := n, first := leastOf 0 ph, phase := ph.foldl max 0 }] }
      let s2 := { s1 with threads := tabOver s1.threads s.members go }
      settleRuns (if waits then s2
        else { s2 with groups := tabOver s2.groups (s.enabled.map grpOf).eraseDups collect }) s.members

/-- BAR (R398). -/
def execBar (b : BitVec 10) (x : BitVec 8) (s : State) : Res := execBarrier false true b x s
/-- BARA (R398). -/
def execBara (b : BitVec 10) (x : BitVec 8) (s : State) : Res := execBarrier false false b x s
/-- CBAR (R398). -/
def execCbar (b : BitVec 10) (x : BitVec 8) (s : State) : Res := execBarrier true true b x s
/-- CBARA (R398). -/
def execCbara (b : BitVec 10) (x : BitVec 8) (s : State) : Res := execBarrier true false b x s

/-- What the phases from `lo` to `hi` released, of those that have completed. -/
def pastView (past : List (Nat × View)) (lo hi : Nat) : View :=
  (past.filter fun e => decide (lo ≤ e.1) && decide (e.1 ≤ hi)).foldl (fun v e => joinView v e.2) []

/-- A collective addition when phases below `ph` of a barrier have completed. -/
def Phase.settle (p : Phase) (cl : Bool) (n ph : Nat) (past : List (Nat × View)) : Phase :=
  if p.cluster == cl && p.bar == n then
    { p with done := decide (p.phase < ph), hb := joinView p.hb (pastView past p.first p.phase) }
  else p

/-- Collective additions complete in the order counted (R376); a completed one is logged for the WAITs that depart from its
phase (R397). -/
def Group.settleColl (g : Group) (cl : Bool) (n ph : Nat) (past : List (Nat × View)) : Group :=
  let l := g.coll.map fun p => p.settle cl n ph past
  let out := l.takeWhile (·.done)
  let rest := l.dropWhile (·.done)
  { g with coll := rest, nColl := rest.length
           ops := out.foldl (fun o p => logOp o { cls := .coll, tag := if p.cluster then 1 else 0, hb := p.hb }) g.ops }

/-- The phases of a barrier that have completed (R400): their waiting threads acquire what the arrivals released and depart, unless
their group is stopped or a cut or a save holds them; collective additions complete. A live-count phase that exits have
completed ends first (R399). -/
def settleBarrier (s : State) (b : Nat) (cl : Bool) (n : Nat) : State :=
  let x0 := getBar s b cl n
  let x := if x0.full (barLive s b cl) then x0.nextPhase else x0
  let s1 := if x = x0 ∧ x.past = [] then s else setBar s b cl n { x with past := [] }
  let gs := (barBlocks s1 b cl).flatMap s1.groupsOf
  let due := fun (k : Nat) => match (s1.thread k).wait with
    | .bar c m p => if c == cl && m == n && decide (p < x.phase) then some p else none
    | _ => none
  let out := gs.flatMap s1.liveOf |>.filterMap fun k => (due k).map fun p => (k, p)
  let go := fun (k : Nat) (t : Thread) => if s1.stopped (grpOf k) || t.halt != .none then t
    else { t with wait := .none, pc := t.pc + 4, since := s1.cycleOf k }
  { s1 with
    threads := tabOver s1.threads (out.map (·.1)) go
    groups := tabOver s1.groups gs fun _ g => g.settleColl cl n x.phase x.past
    order := out.foldl (fun o e => o.acquire (barInst s1 b cl) (tidOf s1 e.1) (pastView x.past e.2 e.2)) s1.order }

/-- BARRIER_PHASE_COMPLETE (R399, R400). -/
def execBarrierPhaseComplete (b : Nat) (cl : Bool) (n : Nat) (s : State) : Res :=
  if (tabGet s.blocks b).isSome then .next (settleBarrier s b cl n) else .next s

end Sys2Proof.Machine
end

