-- ==== Sys2Proof/Machine/Engine.lean ====
section
/-! DEFINITION. The engines' side of a block's commands (R285 to R288, R290, R312, R313, R336): the start after SYNC, the
movement in stream order, completion and its counters, faults, and the matrix array. -/

namespace Sys2Proof.Machine

/-- Removes one command. -/
def dropCmd (s : State) (b pos : Nat) : State :=
  s.modBlock b fun x => { x with cmds := x.cmds.filter fun c => c.pos != pos }

/-- The Lectern's wait at a command ends. -/
def endWait (s : State) (b pos : Nat) : State :=
  s.modBlock b fun x => if x.lect.wait = .entry pos then { x with lect := { x.lect with wait := .none } } else x

/-- The block trap of a command (R288): PC is the command's address. -/
def cmdTrap (s : State) (b : Nat) (c : Cmd) (code : Nat) (resumable : Bool) (addr : DWord) (info : List DWord) : State :=
  blockTrap s b code resumable c.pc addr (c.word.setWidth 64 :: info)

/-! ## SYNC -/

/-- Every live thread has passed the entry of a command, and the writes of their groups have completed (R285). -/
def syncMet (s : State) (b : Nat) (c : Cmd) : Bool :=
  allPassed s b c.pos && (s.groupsOf b).all (drained s)

/-- Commands in flight that use a tile of the block, on any rank of its cluster (R290, R313, R334). -/
def tileBusy (s : State) (b n pos : Nat) : Bool :=
  let x := s.block b
  let blks := match x.cluster with | some cl => s.blocksOfCluster x.gid cl | none => [b]
  blks.any fun y => (s.block y).cmds.any fun c =>
    c.uses n && c.state != .sync && !(y == b && c.pos == pos) &&
      -- copies of one rank touch its own tiles only, but for MCAST, and MMAT on its participating ranks
      (y == b || c.kind == .mcast || (c.kind == .mmat && decide ((s.block y).rank < x.rank) &&
        decide (x.rank < (s.block y).rank + c.mmatOp.ranks)))

/-- The command of a block that stands at its SYNC and may start, or the withdrawn SBSEND that is executed again (R335). -/
def syncReady (s : State) (b : Nat) : Option Cmd :=
  match (s.block b).cmds.find? fun c => c.state == .sync || c.state == .withdrawn with
  | none => none
  | some c =>
    if s.lectStopped b then none
    else if c.state = .withdrawn then (if (s.block b).saving.isNone then some c else none)
    else if !syncMet s b c then none
    else match c.kind with
    | .release => if tileBusy s b c.dst c.pos then none else some c
    | .drain => if tileBusy s b c.dst c.pos then none else some c
    | _ => some c

/-- A command whose value the Lectern waits for ends (R338). -/
def finishValue (b : Nat) (c : Cmd) (s : State) (v : DWord) : Carry :=
  .done (writeEntry (dropCmd s b c.pos) b c.pos v) 0

/-- The outcome of a command that runs at its start: its state, or its fault as a block trap. -/
def settleStart (s : State) (b : Nat) (c : Cmd) : Carry → State
  | .wait => s
  | .done s1 _ => s1
  | .fault s1 code resumable addr info => cmdTrap s1 b c code resumable addr info
  | .poison s1 pa => poisonKill s1 (s.block b).gid pa

/-- A command fails at its start and waits for its answer (R288). -/
def failCmd (s : State) (b : Nat) (c : Cmd) (code : Nat) (resumable : Bool) (addr : DWord) (info : List DWord) : State :=
  cmdTrap (modCmd s b c.pos fun c => { c with state := .failed }) b c code resumable addr info

/-- A tile that keeps a command from starting: the tile-state trap (R269). -/
def failTile (s : State) (b : Nat) (c : Cmd) (st : TileState) (rank : Nat) : State :=
  failCmd s b c 0x0014 false 0 [BitVec.ofNat 64 c.dst, BitVec.ofNat 64 st.code, BitVec.ofNat 64 rank]

/-- A withdrawn SBSEND is executed again, with its checks (R335, R342). -/
def resend (s : State) (b : Nat) (c : Cmd) (go : State) : State :=
  let t := s.tile b c.dst
  match (clusterOf s b).channel, sideShape c.d0 with
  | none, _ => failCmd s b c 0x0042 false 0 [0, 0, BitVec.ofNat 64 (s.block b).rank]
  | some _, none => go
  | some _, some (nr, dv) =>
    if t.state ≠ .ready then failTile s b c t.state (s.block b).rank
    else if t.bytes < partialBytes nr dv then failCmd s b c 0x0021 false 0 [BitVec.ofNat 64 (bitsNat c.word.toNat 23 16)]
    else go

/-- A command starts after its SYNC (R285, R290, R293, R338). -/
def startCmd (s : State) (b : Nat) (c : Cmd) : State :=
  let go := endWait (modCmd s b c.pos fun c => { c with state := .ready }) b c.pos
  match c.kind with
  | .release =>
    let t := s.tile b c.dst
    endWait (dropCmd (releaseRegion (s.setTile b c.dst { t with state := .empty }) b t) b c.pos) b c.pos
  | .slset => endWait (dropCmd s b c.pos) b c.pos
  | .slapp => settleStart s b c (runSlapp s b c (finishValue b c))
  | .slgrow => settleStart s b c (runSlgrow s b c (finishValue b c))
  | .drain =>
    let t := s.tile b c.dst
    endWait (modCmd (s.setTile b c.dst { t with state := .draining, tid := BitVec.ofNat 8 c.src }) b c.pos
      fun c => { c with state := .ready }) b c.pos
  | .mcast =>
    if !ranksStarted s b (ranksOf s b) then s
    else match mcastBad s b c.dst Tile.noCast with
    | some (r, t) => failTile s b c t.state r
    | none =>
      -- a rank may have taken a smaller region while the command stood at its SYNC
      match tensorAt s b c.src with
      | none => go
      | some ten => match mcastBad s b c.dst fun t => decide (t.bytes < ten.rb * ten.rows) with
        | some _ => failCmd s b c 0x0021 false 0 [BitVec.ofNat 64 c.src]
        | none => go
  | .sbsend => if c.state = .withdrawn then resend s b c go else go
  | _ => go

/-- SYNC_COMMAND_START (R285). -/
def execSyncCommandStart (b : Nat) (s : State) : Res :=
  match syncReady s b with
  | none => .next s
  | some c => .next (startCmd s b c)

/-! ## Movement -/

/-- An SBSEND that has started and whose partial is still to be read (R334). -/
def Cmd.sending (c : Cmd) : Bool := c.kind == .sbsend && c.state == .ready

/-- A command writes a tile of its block (R293, R342 to R344). -/
def Cmd.writesTile (c : Cmd) (n : Nat) : Bool :=
  match c.kind with
  | .mcast | .sbmrg | .kvunp | .psel => c.dst == n
  | _ => false

/-- The next command to move (R286): the first copy command in stream order whose bytes have not moved. A started SBSEND
does not hold back later commands (R336), but for those that write the tile it reads (R286); a withdrawn one holds back none
(R295, R335). -/
def nextMove (s : State) (b : Nat) : Option Cmd :=
  let cmds := (s.block b).cmds
  match cmds.find? fun c => c.kind.copies && c.state != .moved && c.state != .done && c.state != .withdrawn && !c.sending with
  | some c =>
    if c.state = .ready ∧ ((cmds.takeWhile fun d => d.pos != c.pos).any fun d => d.sending && c.writesTile d.dst) = false then some c
    else none
  | none => none

/-- A box movement's outcome (R287, R288). -/
def boxMove (s : State) (b : Nat) (src : Side) (dst : List Side) (t : Tensor) : Carry :=
  match moveRows (s.asidOf b) t.rb src dst t.rowList s with
  | (s1, none) => .done s1 0
  | (s1, some (a, r, id)) =>
    if r = poisonReason then .poison s1 a.toNat else .fault s1 0x0020 true a [BitVec.ofNat 64 r, BitVec.ofNat 64 id]

/-- Carries out a copy command (R287 to R293, R342 to R344). -/
def carryCmd (s : State) (b : Nat) (c : Cmd) : Carry :=
  match c.kind with
  | .kvpk => runKvpk s b c
  | .kvunp => runKvunp s b c
  | .psel => runPsel s b c
  | .sbmrg => runSbmrg s b c
  | .sbsend | .mmat | .release | .slset | .slapp | .slgrow => .wait
  | .fill | .drain | .mcast | .copy | .copym =>
    match tensorAt s b c.src with
    | none => .wait
    | some t =>
      match c.kind with
      | .fill => boxMove s b (.box c.src t c.d0) [.tile b (s.tile b c.dst)] t
      | .drain => boxMove s b (.tile b (s.tile b c.dst)) [.box c.src t c.d0] t
      | .mcast =>
        let ranks := (List.range (ranksOf s b)).filterMap (rankBlock s b)
        boxMove s b (.box c.src t c.d0) (ranks.map fun x => .tile x (s.tile x c.dst)) t
      | _ =>
        match tensorAt s b c.dst with
        | none => .wait
        | some d => boxMove s b (.box c.src t c.d0) [.box c.dst d c.d1] t

/-- Copy bytes that a command has moved, in 32-byte units (R468). -/
def copyUnits (s : State) (b : Nat) (c : Cmd) : Nat :=
  match c.kind with
  | .fill | .drain | .mcast | .copy | .copym =>
    match tensorAt s b c.src with
    | some t => t.rowList.length * t.rb / 32
    | none => 0
  | _ => 0

/-- Marks a command as moved, with flags for the groups that counted it. -/
def markMoved (s : State) (b : Nat) (c : Cmd) (f : BitVec 6) : State :=
  flagCounted (modCmd (countCore s (coreOfB b) 13 (copyUnits s b c)) b c.pos fun c => { c with state := .moved }) b c f

/-! ## Completion -/

/-- A command completes: it leaves the stream, its counters fall, and what happened-before its start is kept for the WAITs that
adopt it, and for the completion of its grid (R286, R377). -/
def completeCmd (s : State) (b : Nat) (c : Cmd) : State :=
  let cls : OpClass := if c.matrix then .matrix else .copy
  let log := fun (s : State) (slot : Nat) => s.modGroup (gKey (coreOfB b) slot) fun g =>
    if g.blk = b then { g with ops := g.ops.map fun x => if x.cls = cls ∧ x.tag = c.pos then { x with hb := c.hb } else x } else g
  let s1 := (c.counted ++ c.passed).foldl log (uncount (dropCmd s b c.pos) b c)
  s1.modBlock b fun x => { x with engineHb := joinView x.engineHb c.hb }

/-- Completes the moved copy commands that no earlier copy command holds back (R286); a withdrawn SBSEND holds back none (R335). -/
def completeMoved (s : State) (b : Nat) : State :=
  (((s.block b).cmds.filter fun c => c.kind.copies && c.state != .withdrawn).takeWhile fun c => c.state == .moved).foldl
    (fun s c => completeCmd s b c) s

/-- COPY_COMMAND_COMPLETE (R286): the next command other than a fill or drain moves, and moved ones complete in stream
order. -/
def execCopyCommandComplete (b : Nat) (s : State) : Res :=
  match nextMove s b with
  | none => .next (completeMoved s b)
  | some c =>
    if c.kind = .fill ∨ c.kind = .drain then .next (completeMoved s b)
    else match carryCmd s b c with
    | .done s1 f => .next (completeMoved (markMoved s1 b c f) b)
    | .poison s1 pa => .next (poisonKill s1 (s.block b).gid pa)
    | _ => .next (completeMoved s b)

/-- The fill or drain of a tile whose turn it is. -/
def tileMove (s : State) (b n : Nat) (kind : CmdKind) : Option Cmd :=
  match nextMove s b with
  | some c => if c.kind = kind ∧ c.dst = n then some c else none
  | none => none

/-- A fill or drain ends: its tile takes the state given (R269). -/
def endTile (s : State) (b n : Nat) (kind : CmdKind) (st : TileState) : State :=
  match tileMove s b n kind with
  | none => s
  | some c =>
    match carryCmd s b c with
    | .done s1 f =>
      let s2 := markMoved s1 b c f
      s2.setTile b n { (s2.tile b n) with state := st }
    | .poison s1 pa => poisonKill s1 (s.block b).gid pa
    | _ => s

/-- TILE_FILL_LANDED (R269). -/
def execTileFillLanded (b n : Nat) (s : State) : Res := .next (endTile s b n .fill .ready)
/-- TILE_DRAIN_DONE (R269, R290). -/
def execTileDrainDone (b n : Nat) (s : State) : Res := .next (endTile s b n .drain .empty)

/-- COPY_FAULT (R288): the next movement meets a fault: what has moved stays, a fill's tile becomes empty, and the block
takes the trap; in a block that was killed the command is abandoned. -/
def execCopyFault (b : Nat) (s : State) : Res :=
  match nextMove s b with
  | none => .next s
  | some c =>
    match carryCmd s b c with
    | .fault s1 code resumable addr info =>
      let s2 := modCmd s1 b c.pos fun c => { c with state := .failed }
      let s3 := if c.kind = .fill then s2.setTile b c.dst { (s2.tile b c.dst) with state := .empty } else s2
      .next (if (s.block b).killed then completeMoved (completeCmd s3 b c) b else cmdTrap s3 b c code resumable addr info)
    | _ => .next s

/-! ## The matrix array -/

/-- The MMAT of a block that may start (R312): no earlier copy or matrix command is left; a withdrawn SBSEND counts as none. -/
def mmatNext (s : State) (b : Nat) : Option Cmd :=
  match (s.block b).cmds.find? fun c => (c.kind.copies && c.state != .withdrawn) || c.kind == .mmat with
  | some c => if c.kind = .mmat ∧ c.state = .ready then some c else none
  | none => none

/-- The block trap of an MMAT's failed check (R308, R312). -/
def mmatTrap (s : State) (b : Nat) (c : Cmd) : MmatCheck → State
  | .pass => s
  | .wait => s
  | .tensor id => failCmd s b c 0x0013 false 0 [BitVec.ofNat 64 id]
  | .descriptor id f => failCmd s b c 0x0031 false 0 [BitVec.ofNat 64 id, BitVec.ofNat 64 f, gcore, 0xFFFFFFFF]
  | .tileState n st rank => failCmd s b c 0x0014 false 0 [BitVec.ofNat 64 n, BitVec.ofNat 64 st.code, BitVec.ofNat 64 rank]
  | .placement n start => failCmd s b c 0x0030 true (BitVec.ofNat 64 start)
      [BitVec.ofNat 64 (c.dst + 256 * n), 0xFFFFFFFFFFFFFFFF, gcore, 0xFFFFFFFF]
  | .page a r => failCmd s b c 0x0012 true a [BitVec.ofNat 64 r, 6]
where
  /-- `%gcore`. -/
  gcore : DWord := BitVec.ofNat 64 (coreOfB b)

/-- MMAT_START (R312). -/
def execMmatStart (b : Nat) (s : State) : Res :=
  match mmatNext s b with
  | none => .next s
  | some c =>
    match mmatCheck s b c.mmatOp with
    | .pass => .next (modCmd s b c.pos fun c => { c with state := .moved, split := false })
    | .wait => .next s
    | bad => .next (mmatTrap s b c bad)

/-- The MMAT of a block in flight. -/
def mmatRunning (s : State) (b : Nat) : Option Cmd := (s.block b).cmds.find? fun c => c.kind == .mmat && c.state == .moved

/-- MMAT_COMPLETE (R313). -/
def execMmatComplete (b : Nat) (s : State) : Res :=
  match mmatRunning s b with
  | none => .next s
  | some c =>
    match mmatTilePoison s b c.mmatOp with
    | some pa => .next (poisonKill s (s.block b).gid pa)
    | none => .next (reading s b (mmatReads s b c.mmatOp) .load (residueChecked (coreOfB b) fun s =>
      let n := (mmatBlocks s b c.mmatOp).getD 0
      let r := runMmat (countCore s (coreOfB b) 12 (n - c.from_)) b c.mmatOp n
      completeCmd (flagCounted r.1 b c (if r.2 then fInv else 0)) b c))

end Sys2Proof.Machine
end

