-- ==== Sys2Proof/Machine/Bulk.lean ====
section
/-! DEFINITION. Reading and writing long virtual ranges, one 64 KiB page at a time. -/

namespace Sys2Proof.Machine

/-- Reads pieces of a virtual range; the fault carries its address and reason. -/
def readPieces (s : State) (asid : BitVec 6) (acc : Access) : List (Nat × Nat) → Except (DWord × Nat) Nat
  | [] => .ok 0
  | p :: ps =>
    match translate s asid (BitVec.ofNat 64 p.1) acc with
    | .error r => .error (BitVec.ofNat 64 p.1, r)
    | .ok pa =>
      match readPieces s asid acc ps with
      | .error e => .error e
      | .ok hi => .ok (bytesAt s.mem pa p.2 + 256 ^ p.2 * hi)

/-- Reads `n` bytes at a virtual address. -/
def readBig (s : State) (asid : BitVec 6) (va : DWord) (acc : Access) (n : Nat) : Except (DWord × Nat) Nat :=
  readPieces s asid acc (pagePieces va.toNat n)

/-- Writes pieces of a virtual range in order; a fault leaves the pieces before it written and carries its address. -/
def writePieces (asid : BitVec 6) (acc : Access) : List (Nat × Nat) → Nat → State → State × Option (DWord × Nat)
  | [], _, s => (s, none)
  | p :: ps, v, s =>
    match translate s asid (BitVec.ofNat 64 p.1) acc with
    | .error r => (s, some (BitVec.ofNat 64 p.1, r))
    | .ok pa => writePieces asid acc ps (v / 256 ^ p.2) (clearPoison (s.store pa p.2 v) pa p.2)

/-- Writes `n` bytes at a virtual address. -/
def writeBig (s : State) (asid : BitVec 6) (va : DWord) (acc : Access) (n v : Nat) : State × Option (DWord × Nat) :=
  writePieces asid acc (pagePieces va.toNat n) v s

end Sys2Proof.Machine
end

