-- ==== Sys2Proof/Machine/Queues.lean ====
section
/-! DEFINITION. Queues and launch records: the checks of a record and its tables (R42 to R49, R70, R82, R101, R116, R314,
R324, R347), entries, doorbells, aborts and dependences (R95 to R99, R105, R106). -/

namespace Sys2Proof.Machine

/-! ## The launch record -/

/-- A field of a record held as a number: `n` bytes at an offset (R3). -/
def fieldAt (raw off n : Nat) : Nat := raw / 2 ^ (8 * off) % 2 ^ (8 * n)

/-- An 8-byte field. -/
def addrAt (raw off : Nat) : DWord := BitVec.ofNat 64 (fieldAt raw off 8)

/-- The launch record of 256 bytes (R42); DEADLINE 0 stands for 200. -/
def launchOf (raw : Nat) : Launch :=
  let f := fieldAt raw
  { kind := f 0x02 1, prio := f 0x03 1 % 4, dieMask := BitVec.ofNat 8 (f 0x04 1), migrate := f 0x05 1 % 4 == 1
    body7 := addrAt raw 0x08, body6 := addrAt raw 0x10, image := addrAt raw 0x18
    gridX := f 0x20 4, gridY := f 0x24 4, gridZ := f 0x28 4, blkX := f 0x2C 2, blkY := f 0x2E 2, blkZ := f 0x30 2
    clSize := f 0x32 1, nTile := f 0x33 1, regBase := f 0x34 1, regMax := f 0x35 1, shmem := f 0x36 2
    nBar := f 0x38 2, nCBar := f 0x3A 1, deadline := if f 0x3C 4 = 0 then 200 else f 0x3C 4
    args := addrAt raw 0x40, trapH := addrAt raw 0x68, trapArea := addrAt raw 0x70, trapN := f 0x78 2
    save := addrAt raw 0x80, saveLen := f 0x88 4, jobId := BitVec.ofNat 32 (f 0x8C 4)
    waitAddr := addrAt raw 0x90, waitVal := addrAt raw 0x98
    sigAddr := addrAt raw 0xA0, sigVal := addrAt raw 0xA8, sigOp := f 0xB0 1 }

/-- NCONST, NARR and NTENS of a record (R42). -/
def nConstOf (raw : Nat) : Nat := fieldAt raw 0x3B 1
def nArrOf (raw : Nat) : Nat := fieldAt raw 0x4C 1
def nTensOf (raw : Nat) : Nat := fieldAt raw 0x4E 2

/-- Die d may run a grid (R109). -/
def Launch.allows (r : Launch) (d : Nat) : Bool := r.dieMask.getLsbD d && r.bodyFor d != 0

/-- Bits [63:57] of an address field are zero and it is aligned (R42, R43). -/
def badAddr (raw off align : Nat) : Bool :=
  decide (2 ^ 57 ≤ fieldAt raw off 8) || fieldAt raw off 8 % align != 0

/-- Limits of the record's own fields: offset, and whether the field fails (R42, R43, R78, R116). -/
def recordFails (raw : Nat) : List (Nat × Bool) :=
  let r := launchOf raw
  let f := fieldAt raw
  let below := fun (n lo hi : Nat) => decide (n < lo) || decide (hi < n)
  [ (0x00, f 0x00 2 != 1),
    (0x02, decide (1 < r.kind)),
    (0x04, r.dieMask == 0 || decide (1 < f 0x05 1 % 4) || !((List.range 8).any r.allows)),
    (0x08, badAddr raw 0x08 1), (0x10, badAddr raw 0x10 1),
    (0x18, badAddr raw 0x18 256 || (r.migrate && r.image == 0)),
    (0x2C, r.blkX == 0), (0x2E, r.blkY == 0), (0x30, r.blkZ == 0 || decide (1024 < r.threads)),
    (0x32, if r.kind = 1 then below r.clSize 1 16 else r.clSize != 0),
    (0x33, decide (64 < r.nTile)),
    (0x34, below r.regBase 1 96 || decide (2048 < r.groups * r.regBase)),
    (0x35, below r.regMax r.regBase 96),
    (0x36, decide (320 < r.shmem) || decide (320 * 1024 < r.sharedBytes)),
    (0x38, decide (1024 < r.nBar)),
    (0x3A, decide (64 < r.nCBar) || (r.kind != 1 && r.nCBar != 0)),
    (0x3B, decide (64 < nConstOf raw)),
    (0x3C, decide (1000000 < f 0x3C 4)),
    (0x40, badAddr raw 0x40 8 || (f 0x48 4 == 0 && r.args != 0)),
    (0x48, f 0x48 4 % 8 != 0 || decide (4096 < f 0x48 4)),
    (0x4C, decide (16 < nArrOf raw)), (0x4E, decide (256 < nTensOf raw)),
    (0x50, badAddr raw 0x50 8), (0x58, badAddr raw 0x58 16), (0x60, badAddr raw 0x60 128),
    (0x68, badAddr raw 0x68 1),
    (0x70, badAddr raw 0x70 64 || r.trapArea == 0),
    (0x78, below r.trapN 1 4096),
    (0x80, badAddr raw 0x80 1),
    (0x90, badAddr raw 0x90 8), (0xA0, badAddr raw 0xA0 8),
    (0xB0, decide (1 < r.sigOp)) ]

/-! ## Tables -/

/-- An entry of the array table (R48), or none where it breaks a limit. -/
def arrayOf (raw : Nat) : Option ArrayReg :=
  let base := fieldAt raw 0 8 % 2 ^ 57
  let flags := fieldAt raw 0x0C 4
  let esize := flags % 8
  if 3 < esize ∨ base % 2 ^ esize ≠ 0 then none
  else some { base := BitVec.ofNat 57 base, extent := BitVec.ofNat 31 (fieldAt raw 8 4), esize := BitVec.ofNat 2 esize
              mode := bitNat flags 3, pclass := BitVec.ofNat 2 (bitsNat flags 5 4) }

/-- The eight extents and strides of a tensor entry (R49). -/
def extentsOf (raw : Nat) : List Nat := (List.range 8).map fun j => fieldAt raw (0x20 + 4 * j) 4
def stridesOf (raw : Nat) : List Int := (List.range 8).map fun j => sextNat (fieldAt raw (0x40 + 8 * j) 8) 64

/-- A tensor entry of 128 bytes, with its continuation where it has one (R49). -/
def tensorOf (raw next : Nat) : Tensor :=
  let n := fieldAt raw 0x14 1
  let ext := extentsOf raw ++ (if 8 < n then extentsOf next else [])
  let stride := stridesOf raw ++ (if 8 < n then stridesOf next else [])
  { base := BitVec.ofNat 57 (fieldAt raw 0 8), scale := BitVec.ofNat 57 (fieldAt raw 8 8)
    fmt := BitVec.ofNat 16 (fieldAt raw 0x10 2), etype := fieldAt raw 0x12 1, layout := fieldAt raw 0x13 1
    ndim := n, scgran := fieldAt raw 0x15 1 % 16, tilem := fieldAt raw 0x16 1 % 8, tilen := fieldAt raw 0x17 1 % 8
    ext := ext.take n, stride := stride.take n }

/-- A narrow-format register is valid (R63). -/
def narrowValid (x : Half) : Bool := bitsNat x.toNat 14 13 != 3 && decide ((nfOf x).width ≤ 8)

/-- What each layout asks of a tensor entry (R314, R324, R347). -/
def layoutValid (t : Tensor) : Bool :=
  let n := t.ext.getD 0 0
  let step := t.stride.getD 1 0
  match t.layout with
  | 1 => decide (2 ≤ t.ndim) && t.etype != 13 && 2 ^ t.tilen * elemBits t.etype t.fmt % 8 == 0
  | 2 => (t.etype == 8 || t.etype == 9) && t.ndim == 2 && t.scale == 0 && step == 0 &&
      bankFits (t.base.setWidth 64) n (t.ext.getD 1 0)
  | 3 => t.etype == 12 && t.ndim == 2 && t.scale == 0 && n % 16 == 0 && decide (16 ≤ n) && decide (n ≤ 512) &&
      decide (step % 128 = 0) && decide ((pageBytes n t.rb : Int) ≤ step)
  | _ => true

/-- A tensor entry is valid, apart from its continuation (R49, R63, R70). -/
def Tensor.valid (t : Tensor) : Bool :=
  decide (t.etype ≤ 13) && decide (t.layout ≤ 3) && decide (1 ≤ t.ndim) && decide (t.ndim ≤ 16) &&
    t.stride.getD 0 0 == 0 && (if t.etype = 12 then narrowValid t.fmt else t.fmt == 0) &&
    (t.scale == 0 || ((t.etype == 12 || t.etype == 13) && t.scale.toNat % 2 == 0)) &&
    (t.layout == 1 || (t.tilem == 0 && t.tilen == 0)) && layoutValid t

/-- The entries of a tensor table as numbers of 128 bytes: the table, or none where an entry is invalid (R49). -/
def tensorsOf : List Nat → Option (List Tensor)
  | [] => some []
  | [x] =>
    let t := tensorOf x 0
    if t.valid && decide (t.ndim ≤ 8) then some [t] else none
  | x :: y :: rest =>
    let t := tensorOf x y
    if !t.valid then none
    else if 8 < t.ndim then
      if fieldAt y 0x12 1 = 255 then (tensorsOf rest).map fun l => t :: { etype := 255 } :: l else none
    else (tensorsOf (y :: rest)).map fun l => t :: l

/-- Entries of `size` bytes of a table read as one number. -/
def entriesOf (raw size n : Nat) : List Nat := (List.range n).map fun i => fieldAt raw (size * i) size

/-- Reads a table of `n` entries. -/
def readTable (s : State) (asid : BitVec 6) (va : DWord) (size n : Nat) : Option (List Nat) :=
  match readBig s asid va .load (size * n) with
  | .ok raw => some (entriesOf raw size n)
  | .error _ => none

/-- Every entry of a list of options, or none. -/
def allSome {α : Type} : List (Option α) → Option (List α)
  | [] => some []
  | none :: _ => none
  | some x :: xs => (allSome xs).map fun l => x :: l

/-! ## Body headers -/

/-- DGDESC of a die as 16 bytes (R26). -/
def dgdescOf (d : Nat) : Nat :=
  Config.genOf d + 2 ^ 8 * Config.fclassOf d + 2 ^ 16 * (Config.stepRev d).toNat

/-- Checks of one body header against the dies that DIEMASK allows for it (R82): it fails. -/
def headerFails (r : Launch) (dies : List Nat) (raw : Nat) : Bool :=
  bitsNat (fieldAt raw 1 1) 7 4 != 0 || fieldAt raw 4 12 != 0 ||
    (dies.filter fun d => r.dieMask.getLsbD d).any fun d =>
      fieldAt raw 0 1 != Config.genOf d ||
        (fieldAt raw 2 2 != 0 && fieldAt raw 2 2 != (Config.stepRev d).toNat)

/-- A body header of 128 bytes: absent, unreadable, or its bytes (R80). -/
def readHeader (s : State) (asid : BitVec 6) (va : DWord) : Option Nat :=
  match readBig s asid va .load 128 with
  | .ok raw => some raw
  | .error _ => none

/-- The bodies of a migrating grid agree (R82). -/
def bodiesAgree (h7 h6 : Nat) : Bool :=
  fieldAt h7 0x40 32 == fieldAt h6 0x40 32 && fieldAt h7 0x40 32 != 0 &&
    fieldAt h7 0x10 4 == fieldAt h6 0x10 4 && fieldAt h7 0x10 4 != 0 &&
    fieldAt h7 0x18 2 != 0xFFFF && fieldAt h6 0x18 2 != 0xFFFF

/-- Checks of the bodies (R82), with their offsets. -/
def bodyFails (s : State) (asid : BitVec 6) (r : Launch) : List (Nat × Bool) :=
  let h7 := readHeader s asid r.body7
  let h6 := readHeader s asid r.body6
  let fails := fun (dies : List Nat) (h : Option Nat) => match h with
    | none => true
    | some x => headerFails r dies x
  [ (0x08, r.body7 != 0 && fails (List.range 6) h7),
    (0x10, r.body6 != 0 && fails [6, 7] h6),
    (0x18, r.migrate && !(r.body7 != 0 && r.body6 != 0 && bodiesAgree (h7.getD 0) (h6.getD 0))) ]

/-! ## Checking a record -/

/-- The record's tables as copied at the start of its grid (R45). -/
structure Tables where
  const : List DWord := []
  arrays : List ArrayReg := []
  tensors : List Tensor := []
  deriving DecidableEq, Repr

/-- Reads the three tables: each is absent where its read or an entry fails (R43, R46, R48, R49). -/
def readTables (s : State) (asid : BitVec 6) (raw : Nat) : Option (List DWord) × Option (List ArrayReg) × Option (List Tensor) :=
  let table := fun (off size n limit : Nat) =>
    if n = 0 || limit < n then some [] else readTable s asid (addrAt raw off) size n
  ((table 0x50 8 (nConstOf raw) 64).map fun l => l.map fun x => BitVec.ofNat 64 x,
   (table 0x58 16 (nArrOf raw) 16).bind fun l => allSome (l.map arrayOf),
   (table 0x60 128 (nTensOf raw) 256).bind tensorsOf)

/-- The failing offsets of a record (R43): its fields, tables and bodies, and those of its queue. -/
def allFails (s : State) (asid : BitVec 6) (o : Origin) (raw : Nat) : List Nat :=
  let r := launchOf raw
  let t := readTables s asid raw
  let own : List (Nat × Bool) := match o with
    | .die _ q => [(0x03, r.prio != q / 16)]
    | .core g => [(0x02, r.kind != 0), (0x04, !r.dieMask.getLsbD (Config.dieOfCore g))]
  let all : List (Nat × Bool) := recordFails raw ++ own ++ bodyFails s asid r ++
    [(0x50, t.1.isNone), (0x58, t.2.1.isNone), (0x60, t.2.2.isNone)]
  (all.filter (·.2)).map (·.1)

/-- The record at an address: a number of 256 bytes, or none where it is zero, misaligned or unreadable (R97). -/
def readRecord (s : State) (asid : BitVec 6) (entry : DWord) : Option Nat :=
  if entry = 0 ∨ entry.toNat % 256 ≠ 0 then none
  else match translate s asid entry .load with
    | .ok pa => some (bytesAt s.mem pa 256)
    | .error _ => none

/-- Code length of the body at an address (R80), or 0. -/
def codeLenOf (s : State) (asid : BitVec 6) (va : DWord) : Nat :=
  if va = 0 then 0 else match readHeader s asid va with
    | some h => fieldAt h 0x14 4
    | none => 0

/-- FCLASS of a body names attention (R80). -/
def usesAttention (s : State) (asid : BitVec 6) (va : DWord) : Bool :=
  match readHeader s asid va with
  | some h => bitNat (fieldAt h 1 1) 2
  | none => false

/-- What the checks of a record read (R43): the record, its tables and its body headers. -/
def recordReads (s : State) (asid : BitVec 6) (entry : DWord) : List (DWord × Nat) :=
  match readRecord s asid entry with
  | none => []
  | some raw =>
    [(entry, 256), (addrAt raw 0x08, 128), (addrAt raw 0x10, 128), (addrAt raw 0x50, 8 * nConstOf raw),
     (addrAt raw 0x58, 16 * nArrOf raw), (addrAt raw 0x60, 128 * nTensOf raw)].filter fun r => r.1 != 0

/-- The launch-rejected event (R29, R43). -/
def rejected (s : State) (die : Nat) (job : DWord) (off : Nat) (p2 : DWord) : State :=
  sendEvent s 0x0001 die 0xFF job (BitVec.ofNat 64 off) p2

/-- Checks the record that an entry or a card names (R43): the state with its grid as a head whose dependence has been
evaluated, and its number; or the state with the rejection sent. The copy of the tables that R45 asks for is the one read
here. DESIGN CHOICE (log 69), unsafe. -/
def enter (before : State) (asid : BitVec 6) (o : Origin) (entry : DWord) (since : Nat) (hb : View) : State × Option Nat :=
  let s := finds before asid .load (recordReads before asid entry)
  match readRecord s asid entry with
  | none => (rejected s o.die? 0 0xFFFF entry, none)
  | some raw =>
    let r := launchOf raw
    match allFails s asid o raw with
    | f :: fs => (rejected s o.die? (r.jobId.setWidth 64) (fs.foldl min f) entry, none)
    | [] =>
      let t := readTables s asid raw
      let g : Grid := { launch := r, addr := entry, asid := asid, origin := o, since := since, const := t.1.getD []
                        arrays := t.2.1.getD [], tensors := t.2.2.getD [], codeLen7 := codeLenOf s asid r.body7
                        codeLen6 := codeLenOf s asid r.body6, postHb := hb
                        attention := r.body7 != 0 && usesAttention s asid r.body7 }
      ({ s with grids := tabSet s.grids s.nextGrid g, nextGrid := s.nextGrid + 1 }, some s.nextGrid)

/-! ## Die queues -/

/-- A die queue. -/
def State.queue (s : State) (d q : Nat) : Queue := tabGetD s.queues (64 * d + q) {}

/-- Sets a die queue. -/
def State.setQueue (s : State) (d q : Nat) (x : Queue) : State := { s with queues := tabSet s.queues (64 * d + q) x }

/-- The ring lies wholly in memory that can hold it (R96), the scratch slices of vaults included. DEDUCED (log 80), unsafe. -/
def ringOk (m : Mgmt) (x : Queue) : Bool := ringInMemory m true x.base.toNat (8 * 2 ^ x.size.toNat)

/-- QSIZE serves (R95). -/
def Queue.sized (x : Queue) : Bool := decide (4 ≤ x.size.toNat) && decide (x.size.toNat ≤ 16)

/-- Pending entries of a queue (R96). -/
def Queue.pending (x : Queue) : Nat := (x.tail - x.head).toNat

/-- The doorbell time of the head entry (R102): that of the first doorbell that covers it. -/
def Queue.rungAt (x : Queue) (tick : Nat) : Nat :=
  match x.rings.find? fun r => decide (0 < (r.1 - x.head).toNat) && decide ((r.1 - x.head).toNat ≤ 65536) with
  | some r => r.2
  | none => tick

/-- The dispatcher may take the entry QHEAD (R97, R123). -/
def takeDue (s : State) (d q : Nat) : Bool :=
  let x := s.queue d q
  dieServes s d && x.en && x.sized && x.cur.isNone && decide (0 < x.pending) &&
    (tabGetD s.host.spaces x.asid.toNat {}).en && ringOk s.mgmt x

/-- QUEUE_ENTRY_TAKE (R97). DEDUCED (log 26), unsafe. -/
def execQueueEntryTake (d q : Nat) (s : State) : Res :=
  if takeDue s d q then
    let x := s.queue d q
    let at_ := x.base.toNat + 8 * (x.head.toNat % 2 ^ x.size.toNat)
    let entry := BitVec.ofNat 64 (bytesAt s.mem at_ 8)
    let r := enter (detect (demand s at_ 8) at_ 8) x.asid (.die d q) entry (x.rungAt s.tick) []
    let left := x.rings.filter fun e => decide (0 < (e.1 - (x.head + 1)).toNat) && decide ((e.1 - (x.head + 1)).toNat ≤ 65536)
    match r.2 with
    | none => .next (r.1.setQueue d q { x with head := x.head + 1, rings := left })
    | some gid => .next (evalDependence (r.1.setQueue d q { x with cur := some gid, rings := left }) gid)
  else .next s

/-- QTAIL_DOORBELL (R96). -/
def execQtailDoorbell (d q : Nat) (value : BitVec 32) (s : State) : Res :=
  if d < 8 ∧ q < 64 then
    let x := s.queue d q
    hostWrite s (.next (s.setQueue d q { x with tail := value, rings := x.rings ++ [(value, s.tick)] }))
  else .fault .noSuchUnit

/-- The head that an ABORT finds: it has placed none of its blocks, so that it is discarded (R98). -/
def headFresh (s : State) (x : Queue) : Bool :=
  match x.cur with
  | none => true
  | some gid => (s.grid gid).nextBlock == 0

/-- ABORT (R98). -/
def abortQueue (s : State) (d q : Nat) : State :=
  let x := s.queue d q
  let first := x.abortTo.getD (if headFresh s x then x.head else x.head + 1)
  let n := (x.tail - first).toNat
  let s1 := match x.cur with
    | some gid =>
      if headFresh s x then
        { s with grids := tabDrop s.grids gid, reservations := s.reservations.filter (·.gid != gid) }
      else s
    | none => s
  let y : Queue := if headFresh s x then { x with head := x.tail, cur := none, abortTo := none, rings := [] }
    else { x with abortTo := some x.tail }
  sendEvent (s1.setQueue d q y) 0x0003 d 0xFF (BitVec.ofNat 64 n) (BitVec.ofNat 64 q) 0

/-- ABORT (R98). -/
def execAbort (d q : Nat) (s : State) : Res :=
  if d < 8 ∧ q < 64 then hostWrite s (.next (abortQueue s d q)) else .fault .noSuchUnit

/-- POKE (R105): the head's dependence is evaluated at once. -/
def pokeQueue (s : State) (d q : Nat) : State :=
  match (s.queue d q).cur with
  | some gid => evalDependence s gid
  | none => s

/-- POKE (R105). -/
def execPoke (d q : Nat) (s : State) : Res :=
  if d < 8 ∧ q < 64 then hostWrite s (.next (pokeQueue s d q)) else .fault .noSuchUnit

/-- QUEUE_ENABLE (R95, R96): a write of the word at 0x0C; a queue whose ring cannot be served says so. -/
def execQueueEnable (d q : Nat) (value : BitVec 32) (s : State) : Res :=
  if d < 8 ∧ q < 64 then
    let x := s.queue d q
    let y : Queue := { x with en := value.getLsbD 0, evt := value.getLsbD 3 }
    let s1 := s.setQueue d q y
    let s2 := if y.en && !ringOk s.mgmt y then rejected s1 d 0 0xFFFE y.base else s1
    let s3 := if value.getLsbD 1 then abortQueue s2 d q else s2
    hostWrite s (.next (if value.getLsbD 2 then pokeQueue s3 d q else s3))
  else .fault .noSuchUnit

/-- DEPENDENCE_POLL (R105). -/
def execDependencePoll (gid : Nat) (s : State) : Res := .next (evalDependence s gid)

/-! ## Local queues -/

/-- LOCAL_CARD_CHECK (R101). -/
def execLocalCardCheck (g : Nat) (s : State) : Res :=
  let c := s.core g
  match c.queue.cards, c.queue.cur with
  | card :: rest, none =>
    if coreServes s g then
      let r := enter s card.asid (.core g) card.addr card.since card.hb
      match r.2 with
      | none => .next (r.1.setCore g { c with queue := { cards := rest, cur := none } })
      | some gid =>
        let s1 := r.1.setCore g { c with queue := { c.queue with cur := some gid } }
        .next (evalDependence (s1.modGrid gid fun x => { x with poster := card.poster }) gid)
    else .next s
  | _, _ => .next s

end Sys2Proof.Machine
end

