-- ==== Sys2Proof/Machine/Place.lean ====
section
/-! DEFINITION. Placement and completion: what a core has free (R112 to R117), the choice of the next block or cluster
(R102, R103, R109 to R111, R118), the state a block starts with (R46, R48, R74, R166, R173), and the completion of
blocks, clusters and grids (R44, R107, R451 to R453). -/

namespace Sys2Proof.Machine

/-! ## What a core holds -/

/-- Keys of the blocks of a core. -/
def blocksOnCore (s : State) (c : Nat) : List Nat := (s.blocks.filter fun e => coreOfB e.1 == c).map (·.1)

/-- Home groups of a core. -/
def groupsOnCore (s : State) (c : Nat) : List (Nat × Group) :=
  s.groups.filter fun e => coreOfG e.1 == c && !isHandler e.1

/-- Slots that may not be given to a group: those held, and those whose scratch slices still have stores under way
(R117). -/
def slotsHeld (s : State) (c : Nat) : List Nat :=
  (groupsOnCore s c).map (fun e => slotOfG e.1) ++ ((s.core c).hats.filter fun h => h.spill != 0).map (·.slot)

/-- REGBASE of a group. -/
def regBaseOf (s : State) (g : Group) : Nat := (s.gridOf g.blk).launch.regBase

/-- Rows reserved to the resident groups of a core (R113). -/
def rowsReserved (s : State) (c : Nat) : Nat := ((groupsOnCore s c).map fun e => regBaseOf s e.2).foldl (· + ·) 0

/-- Rows of the pool lent to growth (R113, R178). -/
def rowsLent (s : State) (c : Nat) : Nat :=
  ((groupsOnCore s c).map fun e => e.2.rows.length - regBaseOf s e.2).foldl (· + ·) 0

/-- Rows left in the pool of a core (R113). -/
def poolFree (s : State) (c : Nat) : Nat := 2048 - rowsReserved s c - rowsLent s c

/-- A sum over the grids of a core's blocks. -/
def coreSum (s : State) (c : Nat) (f : Launch → Nat) : Nat :=
  ((blocksOnCore s c).map fun b => f (s.gridOf b).launch).foldl (· + ·) 0

/-- A core has room for a block that needs `grown` rows beyond its reservations (R112 to R114). -/
def coreFits (s : State) (r : Launch) (grown c : Nat) : Bool :=
  coreServes s c && decide ((blocksOnCore s c).length < 16) &&
    decide ((slotsHeld s c).eraseDups.length + r.groups ≤ 64) &&
    decide (rowsReserved s c + r.groups * r.regBase ≤ 2048) && decide (r.groups * r.regBase + grown ≤ poolFree s c) &&
    decide (coreSum s c Launch.sharedBytes + r.sharedBytes ≤ 320 * 1024) &&
    decide (coreSum s c (·.nBar) + r.nBar ≤ 1024) && decide (coreSum s c (·.nTile) + r.nTile ≤ 64)

/-- Cores of a die, by global index. -/
def coresOfDie (d : Nat) : List Nat := (List.range (Config.coresOf d)).map (Config.globalCore d)

/-- Lowest free numbers below `n`. -/
def lowestFree (taken : List Nat) (n : Nat) : List Nat := (List.range n).filter fun i => !taken.contains i

/-! ## Reservations -/

/-- A core has drained for a level: it holds no block of it or of a lower priority (R103). -/
def drainedFor (s : State) (c level : Nat) : Bool :=
  (blocksOnCore s c).all fun b => (s.gridOf b).launch.prio < level

/-- The reservation that holds a core, if any: its grid and level (R103). -/
def heldFor (s : State) (c : Nat) : Option (Nat × Nat) :=
  (s.reservations.find? fun r => r.stands && r.die == Config.dieOfCore c &&
    drainedFor s c (s.grid r.gid).launch.prio).map fun r => (r.gid, (s.grid r.gid).launch.prio)

/-! ## Candidates -/

/-- Blocks or clusters of a grid (R41, R42). -/
def Launch.units (r : Launch) : Nat := r.gridX * r.gridY * r.gridZ

/-- What the dispatcher may place: the next unit of a head, or a saved unit, named by its grid and cluster or block. -/
inductive Cand where
  | head (gid : Nat)
  | saved (gid : Nat) (cluster : Option Nat) (num : Nat)
  deriving DecidableEq, Repr

/-- The grid of a candidate. -/
def Cand.gid : Cand → Nat
  | .head g => g
  | .saved g _ _ => g

/-- A core accepts a candidate: it is not held, or held for that cluster, the next of its grid, or the candidate is of strictly higher
priority (R103). -/
def accepts (s : State) (core : Nat) (c : Cand) : Bool :=
  match heldFor s core with
  | none => true
  | some (g, level) => c == .head g || decide ((s.grid c.gid).launch.prio < level)

/-- Saved blocks of a unit: a cluster's, or one block. -/
def savedUnit (s : State) (gid : Nat) (cluster : Option Nat) (num : Nat) : List Saved :=
  s.saved.filter fun x => x.gid == gid && (match cluster with | some c => x.cluster == some c | none => x.num.toNat == num)

/-- A head may be placed (R97, R102, R424, R436). -/
def headReady (s : State) (gid : Nat) : Bool :=
  let g := s.grid gid
  g.stage == .eligible && g.hold == .none && s.isHead gid && decide (g.nextBlock < g.launch.units)

/-- A grid is being cut, or its cut is complete: its unplaced blocks are not placed (R436). -/
def GridHold.cuts : GridHold → Bool
  | .cut _ | .cutDone => true
  | .none | .hold => false

/-- A saved block waits for a place (R424, R435); while its grid is cut only one that migrates, which the cut waits for (R436, R443). -/
def Saved.waits (s : State) (x : Saved) : Bool :=
  !x.held && !x.refused && (x.kind == 3 || !(s.grid x.gid).hold.cuts)

/-- Everything that waits for a place. -/
def candidates (s : State) : List Cand :=
  ((s.saved.filter fun x => x.waits s && (savedUnit s x.gid x.cluster x.num.toNat).all fun y => decide (x.rank ≤ y.rank)).map fun x => Cand.saved x.gid x.cluster x.num.toNat) ++
    ((s.grids.map (·.1)).filter (headReady s)).map Cand.head

/-- A saved unit of a local card that a migration takes, or has taken, away from the card's core (R111). -/
def leftCore (s : State) (c : Cand) (o : Nat) : Bool :=
  match c with
  | .head _ => false
  | .saved gid cl n => (savedUnit s gid cl n).any fun x => x.kind == 3 || (x.kind == 1 && x.die != Config.dieOfCore o)

/-- Dies on which a candidate may stand (R99, R109, R111, R179): those of its grid; an evicted block's own die; the dies of
the missing class for a migrating unit; for a local card the die of its core. -/
def mayStand (s : State) (c : Cand) (d : Nat) : Bool :=
  let g := s.grid c.gid
  g.launch.allows d && (match c with
  | .head _ => true
  | .saved gid cl n =>
    match savedUnit s gid cl n with
    | x :: _ =>
      if x.kind = 1 then x.die == d
      else if x.kind = 3 then (s.migrations.find? fun m => m.gid == gid && m.saved && m.unit.1 == cl && (cl.isSome || m.unit.2 == n)).any fun m =>
        decide (Config.fclassOf d / 2 ^ m.cls % 2 = 1)
      else true
    | [] => false) &&
  (match g.origin with | .core o => Config.dieOfCore o == d || leftCore s c o | .die _ _ => true)

/-- The order of R102 as a list of numbers, compared from the first: level, precedence of evicted and migrating units,
eligibility, origin. -/
def candKey (s : State) (c : Cand) : List Nat :=
  let g := s.grid c.gid
  let first := match c with
    | .head _ => 2
    | .saved gid cl n => if (savedUnit s gid cl n).any fun x => x.kind == 1 || x.kind == 3 then 0 else 1
  let from_ := match g.origin with
    | .die d q => [0, q, d]
    | .core _ => [1, g.poster, 0]
  [g.launch.prio, if first = 0 then 0 else 1, g.since] ++ from_ ++ [first]

/-- A unit is a cluster of this many blocks, or one block (none). -/
def Cand.clusterSize (s : State) (c : Cand) : Option Nat :=
  let r := (s.grid c.gid).launch
  if r.kind = 1 then some r.clSize else none

/-- Cluster barriers and Sideboard channels are free on a die (R118). -/
def clusterRoom (s : State) (gid d : Nat) : Bool :=
  let g := s.grid gid
  let here := s.clusters.filter fun e => e.2.die == d
  let bars := (here.map fun e => (s.grid (e.1 / 2 ^ 64)).launch.nCBar).foldl (· + ·) 0
  decide (bars + g.launch.nCBar ≤ 64) &&
    (!g.attention || Config.isCd6 d || decide ((here.filter fun e => e.2.channel.isSome).length < 16))

/-- Rows that the blocks of a candidate need beyond their reservations, by rank (R113). -/
def Cand.grown (s : State) : Cand → List Nat
  | .head gid =>
    let r := (s.grid gid).launch
    List.replicate (if r.kind = 1 then r.clSize else 1) 0
  | .saved gid cl n => (sortBy (fun a b => decide (a.rank ≤ b.rank)) (savedUnit s gid cl n)).map (·.grown)

/-- The lowest of the cores that take the blocks of a cluster in the order of their ranks (R118). -/
def assignCores (fits : Nat → Nat → Bool) : List Nat → List Nat → Option (List Nat)
  | _, [] => some []
  | [], _ :: _ => none
  | c :: cs, e :: es => if fits e c then (assignCores fits cs es).map fun l => c :: l else assignCores fits cs (e :: es)

/-- The cores of a die that a cluster takes (R103, R118): the lowest set of the cores that its reservation holds, or else the
lowest that fit and accept it. -/
def clusterCores (s : State) (c : Cand) (d : Nat) : Option (List Nat) :=
  let r := (s.grid c.gid).launch
  if !mayStand s c d || !clusterRoom s c.gid d then none else
  let open_ := (coresOfDie d).filter fun x => accepts s x c
  let held := open_.filter fun x => (heldFor s x).map (fun r => Cand.head r.1) == some c
  (assignCores (coreFits s r) held (c.grown s)).or (assignCores (coreFits s r) open_ (c.grown s))

/-- The cores on which a candidate would stand on a die. -/
def coresFor (s : State) (c : Cand) (d : Nat) : Option (List Nat) :=
  match c.clusterSize s with
  | some _ => clusterCores s c d
  | none =>
    let r := (s.grid c.gid).launch
    if !mayStand s c d then none
    else
      let ok := fun x => coreFits s r ((c.grown s).headD 0) x && accepts s x c &&
        (match (s.grid c.gid).origin with | .core o => o == x || leftCore s c o | .die _ _ => true)
      ((coresOfDie d).find? ok).map fun x => [x]

/-- The place of a candidate (R110): fewest hops from its home die, then the lower die number; with its cores. -/
def placeFor (s : State) (c : Cand) : Option (Nat × List Nat) :=
  let home := match c with
    | .saved gid cl n => match savedUnit s gid cl n with
      | x :: _ => if x.kind = 3 then x.die else (s.grid gid).origin.die?
      | [] => (s.grid gid).origin.die?
    | .head gid => (s.grid gid).origin.die?
  let places := (List.range 8).filterMap fun d => (coresFor s c d).map fun l => (d, l)
  firstBy (fun p => [Config.hops home p.1, p.1]) places

/-- The next unit to place and its place (R102, R110): a candidate whose unit does not fit is skipped. -/
def nextPlacement (s : State) : Option (Cand × Nat × List Nat) :=
  let open_ := (candidates s).filterMap fun c => (placeFor s c).map fun p => (c, p.1, p.2)
  firstBy (fun e => candKey s e.1) open_

/-! ## The state a block starts with -/

/-- The generator state of a new thread (R74). -/
def seedOf (block : Word) (lin : Nat) : Word :=
  let g := (block * 1024 + BitVec.ofNat 32 lin) * 0x9E3779B9 + 0x7F4A7C15
  if g = 0 then 1 else g

/-- A thread at the start of its block (R166, R410). -/
def newThread (pc : DWord) (block : Word) (now lin : Nat) : Thread :=
  { lin := lin, pc := pc, gen := seedOf block lin, rentry := pc, rgen := seedOf block lin, since := now }

/-- Uniform registers from the constant table (R46): a zero is not listed. -/
def seedConst (l : List DWord) : Tab DWord :=
  ((List.range 64).filterMap fun i => match l[i]? with
    | some x => if x = 0 then none else some (i, x)
    | none => none)

/-- Array registers from the array table (R48). -/
def seedArrays (l : List ArrayReg) : Tab ArrayReg := (List.range 16).filterMap fun i => (l[i]?).map fun a => (i, a)

/-- A fresh block in its context (R41, R46, R48, R114, R173, R268, R399). -/
def newBlock (s : State) (gid : Nat) (num : Word) (cluster : Option Nat) (rank d : Nat) (slots : List Nat) : Block :=
  let g := s.grid gid
  let q := seedConst g.const
  let a := seedArrays g.arrays
  { gid := gid, num := num, cluster := cluster, rank := rank, slots := slots, placedAt := s.tick, q := q, a := a
    lect := { pc := g.launch.codeFor d, q := q, a := a } }

/-- The scratch slices of a slot read as zero until their threads write them (R115). -/
def clearSlices (m : Bytes) (core : Nat) (slots : List Nat) : Bytes :=
  slots.foldl (fun m slot => bytesClear m (sliceAddr core slot 0) (sliceAddr core slot 32)) m

/-- A block of a grid is placed on a core that has no other block of the grid: the core's read-only cache is invalidated
(R272). -/
def dropReadOnly (s : State) (core gid : Nat) : Tab Core :=
  if (blocksOnCore s core).any (fun b => (s.block b).gid == gid) || (s.core core).ro.isEmpty then s.cores
  else tabSet s.cores core { s.core core with ro := [] }

/-- Takes a context and slots on a core for a block that `fill` describes, with its groups and threads (R112): the lowest free ones.
DESIGN CHOICE (log 83), unsafe. -/
def occupy (s : State) (r : Launch) (core : Nat) (fill : List Nat → Block) (thread : Nat → Option Thread)
    (group : Nat → Group → Group) : State :=
  let ctx := (lowestFree ((blocksOnCore s core).map (· % 16)) 16).headD 0
  let slots := (lowestFree (slotsHeld s core) 64).take r.groups
  let b := bKey core ctx
  let groups := slots.zipIdx.foldl (fun t e => tabSet t (gKey core e.1) (group e.2 { blk := b, num := e.2 })) s.groups
  let threads := (List.range r.threads).foldl (fun t i =>
    match thread i, slots[i / 32]? with
    | some x, some sl => tabSet t (tKey (gKey core sl) (i % 32)) x
    | _, _ => t) s.threads
  { s with blocks := tabSet s.blocks b (fill slots), groups := groups, threads := threads
           cores := dropReadOnly s core (fill slots).gid, mem := clearSlices s.mem core slots }

/-- What the new threads of a block have seen (R100, R105, R372). -/
def seedOrder (s : State) (gid : Nat) (num : Word) (d : Nat) (n : Nat) : Order :=
  let g := s.grid gid
  let ids := (List.range n).map (idOf gid num.toNat)
  let o1 := if g.postHb = [] then s.order else s.order.acquireAll (.die d) ids g.postHb
  if g.startHb = [] then o1 else o1.acquireAll .package ids g.startHb

/-- Starts a block on a core. -/
def startBlock (gid : Nat) (cluster : Option Nat) (s : State) (e : Nat × Nat) : State :=
  let g := s.grid gid
  let core := e.1
  let rank := e.2
  let d := Config.dieOfCore core
  let num : Word := match cluster with
    | some c => BitVec.ofNat 32 (c * g.launch.clSize + rank)
    | none => BitVec.ofNat 32 g.nextBlock
  let s1 := { s with order := seedOrder s gid num d g.launch.threads }
  occupy s1 g.launch core (newBlock s gid num cluster rank d)
    (fun i => some (newThread (g.launch.codeFor d) num (s.core core).cycle i)) fun _ x => x

/-- The head's next unit has been placed: the queue moves on after the last (R97). -/
def placedUnit (s : State) (gid : Nat) : State :=
  let g := s.grid gid
  let s1 := s.setGrid gid { g with nextBlock := g.nextBlock + 1 }
  if g.launch.units ≤ g.nextBlock + 1 then takeHead s1 g.origin else s1

/-- Places the next unit of a head on its cores. -/
def placeHead (s : State) (gid d : Nat) (cores : List Nat) : State :=
  let g := s.grid gid
  if g.launch.kind = 1 then
    let cl := g.nextBlock
    let c : Cluster := { die := d, channel := if g.attention && !Config.isCd6 d then some {} else none }
    let s1 := { s with clusters := tabSet s.clusters (clKey gid cl) c
                       reservations := s.reservations.filter fun r => r.gid != gid }
    placedUnit (cores.zipIdx.foldl (startBlock gid (some cl)) s1) gid
  else placedUnit (cores.zipIdx.foldl (startBlock gid none) s) gid

/-- BLOCK_PLACE (R102): the dispatchers' next decision, where it places a block on this core. -/
def execBlockPlace (core : Nat) (s : State) : Res :=
  match nextPlacement s with
  | some (.head gid, d, [c]) => .next (if c = core ∧ (s.grid gid).launch.kind ≠ 1 then placeHead s gid d [c] else s)
  | _ => .next s

/-- CLUSTER_PLACE (R118): the dispatchers' next decision, where it places a cluster on this die. -/
def execClusterPlace (die : Nat) (s : State) : Res :=
  match nextPlacement s with
  | some (.head gid, d, cores) => .next (if d = die ∧ (s.grid gid).launch.kind = 1 then placeHead s gid d cores else s)
  | _ => .next s

/-- Where no reservation stands on a die, the first in R102's order of the clusters that wait for it takes it (R103). -/
def grantReservations (s : State) : State :=
  (List.range Config.dies).foldl (fun s d =>
    let here := s.reservations.filter (·.die == d)
    if here.any (·.stands) then s
    else match firstBy (fun r => candKey s (.head r.gid)) here with
      | none => s
      | some r => { s with reservations := s.reservations.map fun x => if x = r then { x with stands := true } else x }) s

/-- CLUSTER_RESERVATION (R103): the head asks for the first die of R110 among the allowed ones. -/
def execClusterReservation (gid : Nat) (s : State) : Res :=
  let g := s.grid gid
  if (tabGet s.grids gid).isSome ∧ headReady s gid = true ∧ g.launch.kind = 1 ∧
      (s.reservations.any fun r => r.gid == gid) = false then
    match firstBy (fun d => [Config.hops g.origin.die? d, d]) ((List.range 8).filter g.launch.allows) with
    | none => .next s
    | some d => .next (grantReservations { s with reservations := s.reservations ++ [{ gid := gid, die := d }] })
  else .next s

/-! ## Completion -/

/-- A SBSEND of a killed block waits for a fold that can still happen (R334, R451): a rank that left without sending ends the
round. DEDUCED (log 27), unsafe. -/
def sendsOpen (s : State) (b : Nat) : Bool :=
  let x := s.block b
  match x.cluster with
  | none => false
  | some cl =>
    match (tabGetD s.clusters (clKey x.gid cl) {}).channel with
    | none => false
    | some ch => x.cmds.any (fun c => c.kind == .sbsend && c.state == .ready) &&
        !(decide (ch.nextRank < (s.gridOf b).launch.clSize) && rankGone s x.gid cl ch.nextRank) && ch.mismatch.isNone

/-- A block has completed (R451). -/
def blockDone (s : State) (b : Nat) : Bool :=
  let x := s.block b
  (tabGet s.blocks b).isSome && (s.groupsOf b).isEmpty &&
    !((s.core (coreOfB b)).hats.any fun h => h.ctx == b % 16) &&
    x.cmds.all (fun c => x.killed && c.kind == .sbsend && c.state == .ready) && !sendsOpen s b

/-- Frees a block's context (R117). -/
def freeBlock (s : State) (b : Nat) : State := { s with blocks := tabDrop s.blocks b }

/-- A cluster with no block left, resident or saved, is freed (R119, R452). -/
def freeCluster (s : State) (gid : Nat) (cluster : Option Nat) : State :=
  match cluster with
  | none => s
  | some cl =>
    if (s.blocksOfCluster gid cl).isEmpty && !(s.saved.any fun x => x.gid == gid && x.cluster == some cl) then
      { s with clusters := tabDrop s.clusters (clKey gid cl) }
    else s

/-- The saved unit of a migration is held by a POP 2 (R443). -/
def Migration.held (s : State) (m : Migration) : Bool :=
  m.saved && s.saved.any fun x => x.gid == m.gid && x.kind == 3 && x.held && x.cluster == m.unit.1 &&
    (m.unit.1.isSome || x.num.toNat == m.unit.2)

/-- A pre-emption command ends when no block of its grid is still to be saved (R423). -/
def preDone (s : State) : State :=
  let p := s.host.prectl
  let open_ := s.blocks.any fun e => e.2.gid == p.gid &&
    (match e.2.saving with | some v => v.kind == 0 || v.kind == 2 || v.kind == 4 | none => false)
  -- a migrating unit of the grid is acted on after its move (R443)
  let moving := s.migrations.any fun m => m.gid == p.gid && !(p.pop == 2 && m.held s)
  if p.go && (p.pop == 1 || p.pop == 2) && !open_ && !moving then
    sendEvent { s with host := { s.host with prectl := { p with go := false } } } 0x000B 0xFF 0xFF
      (p.job.setWidth 64) (p.stat.setWidth 64) (p.cnt.setWidth 64)
  else s

/-- BLOCK_COMPLETE (R451). -/
def execBlockComplete (b : Nat) (s : State) : Res :=
  if blockDone s b then
    let x := s.block b
    let s1 := (freeBlock s b).modGrid x.gid fun g => { g with done := g.done + 1, endHb := joinView g.endHb x.engineHb }
    let left := (s1.migrations.map fun m => { m with blks := m.blks.filter (· != b) }).filter fun m => m.saved || !m.blks.isEmpty
    .next (preDone (freeCluster { s1 with migrations := left } x.gid x.cluster))
  else .next s

/-- Blocks of a grid in all (R41). -/
def Launch.blocks (r : Launch) : Nat := if r.kind = 1 then r.units * r.clSize else r.units

/-- A grid is complete (R44, R107), or killed with nothing left of it. -/
def gridDone (s : State) (gid : Nat) : Bool :=
  match tabGet s.grids gid with
  | none => false
  | some g => (s.blocksOf gid).isEmpty && (match g.stage with
    | .killed => true
    | .eligible => g.launch.blocks ≤ g.done
    | .waiting => false)

/-- What a grid's threads release at package scope with its completion signal, and the operations that its completion adopts
(R107, R372, R377). -/
def gridView (s : State) (gid : Nat) : View :=
  let o := s.order
  let ids := (o.checked.map Checked.tid ++ o.seen.map (·.tid) ++ o.adopted.map (·.1) ++ o.clocks.map (·.1)).eraseDups
  (ids.filter fun t => t / 2 ^ 43 == gid).foldl (fun v t => joinView v (o.own .package t)) (s.grid gid).endHb

/-- The completion signal (R107, R108): the word stored or added to, or the signal-fault event; waiting heads on it are
evaluated again. -/
def signal (s : State) (gid : Nat) : State :=
  let g := s.grid gid
  if g.launch.sigAddr = 0 then s
  else match translate s g.asid g.launch.sigAddr .store with
    | .error r => sendEvent s 0x001A g.origin.die? 0xFF (g.launch.jobId.setWidth 64) g.launch.sigAddr (BitVec.ofNat 64 r)
    | .ok pa =>
      let s := if g.launch.sigOp = 0 then s else detect (demand s pa 8) pa 8
      let old := bytesAt s.mem pa 8
      let v := if g.launch.sigOp = 0 then g.launch.sigVal.toNat else (old + g.launch.sigVal.toNat) % 2 ^ 64
      let o := s.order
      let chain : View := if g.launch.sigOp = 0 then [] else o.viewAt pa 8 .package
      let rel : Released := { loc := pa, size := 8, inst := .package, view := joinView chain (gridView s gid) }
      let s1 := { (clearPoison (s.store pa 8 v) pa 8) with order := { o with words := rel :: o.without pa 8 } }
      signalWritten s1 pa

/-- GRID_COMPLETE (R107, R453): the signal, then the grid-completed event where the queue asks for it; a killed grid
writes none. -/
def execGridComplete (gid : Nat) (s : State) : Res :=
  if gridDone s gid then
    let g := s.grid gid
    let s0 := if s.isHead gid then takeHead s g.origin else s
    let s1 := if g.stage = GridStage.killed then s0 else signal s0 gid
    let s2 := match g.origin with
      | .die d q =>
        if g.stage ≠ GridStage.killed ∧ (s1.queue d q).evt = true then
          sendEvent s1 0x0002 d 0xFF (g.launch.jobId.setWidth 64) (BitVec.ofNat 64 q) 0
        else s1
      | .core _ => s1
    .next { s2 with grids := tabDrop s2.grids gid, order := s2.order.dropGrid gid
                    reservations := s2.reservations.filter fun r => r.gid != gid }
  else .next s

end Sys2Proof.Machine
end

