-- ==== Sys2Proof/Machine/Finish.lean ====
section
/-! DEFINITION. What completes by itself in a core: loads, writes and atomics (R274, R277, R391), threads that pass a JOIN
(R182), and the detection of a join deadlock (R184). -/

namespace Sys2Proof.Machine

/-- Results land in the registers of a group's live threads (R168, R274). -/
def landList (s : State) (g : Nat) (l : List Landing) : State :=
  l.foldl (fun s x => s.modThread (tKey g x.lane) fun t => { t with v := putReg t.v x.reg x.wide x.value }) s

/-- The thread side of JOIN_PASS and of a group that has gathered: it is ready again from now on. -/
def Thread.wake (t : Thread) (now : Nat) (pc : DWord) : Thread := { t with wait := .none, pc := pc, since := now }

/-- LOAD_COMPLETE (R274): the n-th load under way; a poisoned word kills the grid of its consumer (R455). -/
def execLoadComplete (g n : Nat) (s : State) : Res :=
  let x := s.group g
  match x.loads[n]? with
  | none => .next s
  | some l =>
    match x.bad with
    | some pa => .next (poisonKill s (s.blockOf g).gid pa)
    | none => .next ((landList s g l).modGroup g fun x => { x with loads := x.loads.eraseIdx n })

/-- ATOMIC_COMPLETE (R391): the n-th atomic under way. -/
def execAtomicComplete (g n : Nat) (s : State) : Res :=
  let x := s.group g
  match x.atomics[n]? with
  | none => .next s
  | some l =>
    match x.bad with
    | some pa => .next (poisonKill s (s.blockOf g).gid pa)
    | none => .next ((landList s g l).modGroup g fun x => { x with atomics := x.atomics.eraseIdx n })

/-- WRITE_COMPLETE (R277, R376, R450): the gather counter of the group, or of the Hatstand entry that took it over, falls
by one. DEDUCED (log 28), safe. DEDUCED (log 58), safe. -/
def execWriteComplete (g : Nat) (s : State) : Res :=
  let c := coreOfG g
  let core := s.core c
  let mine := fun h : Hat => h.slot == slotOfG g && h.gather != 0
  match core.hats.find? mine with
  | some h =>
    let h' : Hat := { h with gather := h.gather - 1, spill := h.spill - 1 }
    let hats := (core.hats.map fun y => if y == h then h' else y).filter fun y => y.copy + y.matrix + y.gather + y.nbank != 0
    .next (s.setCore c { core with hats := hats })
  | none => .next (s.modGroup g fun x => { x with nGather := x.nGather - 1, spill := x.spill - 1 })

/-! ## JOIN -/

/-- Where a thread waits as at a JOIN, and its mask (R182, R305, R448). -/
def joinOf (t : Thread) : Option (DWord × Word) :=
  match t.wait with
  | .join a m => some (a, m)
  | .whole a => some (a, 0xFFFFFFFF)
  | _ => none

/-- Lanes that block a waiting thread: live lanes of its mask that do not wait at its address (R182, R184). -/
def blockers (s : State) (g k : Nat) : List Nat :=
  match joinOf (s.thread k) with
  | none => []
  | some (a, m) => (s.liveOf g).filter fun j => j != k && inMask m (laneOf j) &&
      (match joinOf (s.thread j) with | some (b, _) => b != a | none => true)

/-- The threads of a group whose JOIN condition holds (R182). -/
def joinReady (s : State) (g : Nat) : List Nat :=
  (s.liveOf g).filter fun k => match (s.thread k).wait with
    | .join _ _ => (blockers s g k).isEmpty && (s.thread k).halt == .none
    | _ => false

/-- Every live thread of a group waits at one TAIL or MMA with one hint group: the picker may issue it for the group
(R305, R448). -/
def gathered (s : State) (g : Nat) : Bool :=
  match (s.liveOf g).map s.thread with
  | [] => false
  | t :: ts => (match t.wait with | .whole _ => true | _ => false) &&
      (t :: ts).all fun u => u.wait == t.wait && u.hints.map (·.start) == t.hints.map (·.start) && u.halt == .none

/-- JOIN_PASS (R182). -/
def execJoinPass (g : Nat) (s : State) : Res :=
  if s.stopped g then .next s
  else if gathered s g then
    .next { s with threads := tabOver s.threads (s.liveOf g) fun k t => t.wake (s.cycleOf k) t.pc }
  else .next { s with threads := tabOver s.threads (joinReady s g) fun k t => t.wake (s.cycleOf k) (t.pc + 4) }

/-- The largest set of waiting threads whose blockers all lie in it (R184): what is left after dropping, `n` times, those
that are not blocked or have a blocker outside. -/
def deadSet (s : State) (g : Nat) : Nat → List Nat → List Nat
  | 0, d => d
  | n + 1, d => deadSet s g n (d.filter fun k => !(blockers s g k).isEmpty && (blockers s g k).all d.contains)

/-- The deadlocked threads of a group (R184). -/
def deadlocked (s : State) (g : Nat) : List Nat :=
  deadSet s g 32 ((s.liveOf g).filter fun k => (joinOf (s.thread k)).isSome)

/-- The word at an address, or 0 where it cannot be fetched. -/
def wordAtPc (s : State) (b : Nat) (pc : DWord) : DWord :=
  match readVirt s (s.asidOf b) pc .fetch 4 with
  | .ok w => BitVec.ofNat 64 w
  | .error _ => 0

/-- JOIN_DEADLOCK_DETECT (R184, R409). -/
def execJoinDeadlockDetect (g : Nat) (s : State) : Res :=
  if s.stopped g then .next s
  else match deadlocked s g with
  | [] => .next s
  | k :: ks =>
    let t := s.thread k
    let mask := match joinOf t with | some (_, m) => m | none => 0
    .next (groupTrap s g (k :: ks) 0x000D false t.pc 0 [wordAtPc s (s.group g).blk t.pc, mask.setWidth 64])

end Sys2Proof.Machine
end

