-- ==== Sys2Proof/Machine/HostIf.lean ====
section
/-! DEFINITION. What the host does outside the queues: the aperture (R25), clock ceilings (R26, R35), the event ring's
interrupts (R28), address spaces and the translation caches (R122, R128, R130). -/

namespace Sys2Proof.Machine

/-! ## The aperture -/

/-- Physical address of byte x of the aperture (R25). -/
def aperturePa (s : State) (x : Nat) : Nat := s.host.apBase.toNat * 2 ^ 32 + x

/-- The aperture reaches every byte of an access: HBM and vaults outside their scratch part (R25); in state 3 it reaches
nothing (R470). DEDUCED (log 57), unsafe. -/
def apertureReaches (s : State) (x size : Nat) : Bool :=
  s.mgmt.devState != .failed && (List.range size).all fun i =>
    let r := physRegion s.mgmt (aperturePa s x + i)
    r == .hbm || r == .vault

/-- Largest value of `n` bytes. -/
def allOnes (n : Nat) : DWord := BitVec.ofNat 64 (2 ^ (8 * n) - 1)

/-- The host acquires at package scope what a word released there (R25, R373). -/
def hostAcquires (s : State) (pa size : Nat) : State :=
  { s with host := { s.host with view := joinView s.host.view (s.order.viewAt pa size .package) } }

/-- The host's write releases at package scope (R25, R373). -/
def hostReleases (s : State) (pa size : Nat) : State :=
  let rest := s.order.without pa size
  let words := if s.host.view = [] then rest
    else { loc := pa, size := size, inst := .package, view := s.host.view } :: rest
  { s with order := { s.order with words := words } }

/-- APERTURE_READ (R25) of up to 8 bytes: the value stands in apRead. DEDUCED (log 31), unsafe. -/
def execApertureRead (x size : Nat) (s : State) : Res :=
  if 2 ^ 32 < x + size ∨ 8 < size then .fault .noSuchUnit
  else if apertureReaches s x size then
    let pa := aperturePa s x
    let v := if (poisonAt s pa size).isSome then Config.poisonedRead s.fresh else BitVec.ofNat 64 (bytesAt s.mem pa size)
    let s1 := hostAcquires (detect (demand { s with fresh := s.fresh + 1 } pa size) pa size) pa size
    .next { s1 with host := { s1.host with apRead := v &&& allOnes size } }
  else .next { s with host := { s.host with apRead := allOnes size } }

/-- APERTURE_WRITE (R25) of up to 8 bytes. -/
def execApertureWrite (x size : Nat) (value : BitVec 64) (s : State) : Res :=
  if 2 ^ 32 < x + size ∨ 8 < size then .fault .noSuchUnit
  else if apertureReaches s x size then
    let pa := aperturePa s x
    .next (hostReleases (clearPoison (s.store pa size value.toNat) pa size) pa size)
  else .next s

/-! ## Clocks -/

/-- The governor setting taken for a ceiling written (R26, R32). -/
def clockSetting (v : Nat) : Nat := 1100 + (min (max v 1100) 3300 - 1100) / 50 * 50

/-- CLKCEIL_WRITE (R26, R35). DEDUCED (log 33), unsafe. -/
def execClkceilWrite (d : Nat) (value : BitVec 32) (s : State) : Res :=
  if d < 8 then .next (s.setDie d { s.die d with clkCeil := clockSetting (value.setWidth 16).toNat })
  else .fault .noSuchUnit

/-! ## The event ring's interrupts -/

/-- EVMASK_CLEAR (R27, R28): a write of the word at 0x00B0_0008. Clearing EVMASK over unconsumed events raises the vector. -/
def execEvmaskClear (value : BitVec 32) (s : State) : Res :=
  let old := s.host.ring
  let r : EventRing := { old with size := value.setWidth 5, en := value.getLsbD 8, mask := value.getLsbD 9
                                  ovf := old.ovf && !value.getLsbD 31 }
  let r1 := if old.mask && !r.mask && r.head != r.tail then raiseVector r else r
  hostWrite s (.next { s with host := { s.host with ring := r1 } })

/-- MSIX_DELAYED_INTERRUPT (R28): the 2 us have passed. -/
def execMsixDelayedInterrupt (s : State) : Res :=
  let r := s.host.ring
  let free : EventRing := { r with limit := false, held := false }
  .next { s with host := { s.host with ring := if r.limit && r.held then raiseVector free else free } }

/-! ## Address spaces and translation caches -/

/-- An address space's registers. -/
def State.space (s : State) (a : Nat) : Space := tabGetD s.host.spaces a {}

/-- Sets an address space's registers. -/
def State.setSpace (s : State) (a : Nat) (x : Space) : State :=
  { s with host := { s.host with spaces := tabSet s.host.spaces a x } }

/-- Entries that a translation cache holds at most (R128). -/
def TlbOwner.entries : TlbOwner → Nat
  | .core _ => 128
  | .die _ => 8192

/-- A translation enters its cache; a full one loses the entry that it has held longest. DEDUCED (log 34), unsafe. -/
def fillTlb (l : List TlbEntry) (e : TlbEntry) : List TlbEntry :=
  let mine := l.filter fun x => x.owner == e.owner
  (if mine.length < e.owner.entries then l else match mine.head? with | some x => l.erase x | none => l) ++ [e]

/-- The entry of one cache for an address. -/
def heldBy (s : State) (o : TlbOwner) (asid : BitVec 6) (va : Nat) : Option TlbEntry :=
  s.tlb.find? fun e => e.owner == o && e.asid == asid.toNat && e.va == va / 2 ^ e.log * 2 ^ e.log

/-- TRANSLATION_WALK (R127, R128) after a miss of a core's TLB, whose core and address `miss` names: the die's TLB, or a walk
that fills it too, fills the core's; an entry that is not valid is never cached. -/
def execTranslationWalk (asid : BitVec 6) (miss : Nat × BitVec 64) (s : State) : Res :=
  if Config.cores ≤ miss.1 then .fault .noSuchUnit
  else
    let va := miss.2
    let own : TlbOwner := .core miss.1
    let shared : TlbOwner := .die (Config.dieOfCore miss.1)
    match heldBy s own asid va.toNat, heldBy s shared asid va.toNat, walkTables s asid va.toNat with
    | some _, _, _ => .next s
    | none, some e, _ => .next { s with tlb := fillTlb s.tlb { e with owner := own } }
    | none, none, .ok l =>
      let e : TlbEntry := { owner := shared, asid := asid.toNat, va := va.toNat / 2 ^ l.log * 2 ^ l.log
                            entry := l.entry, log := l.log, slot := l.slot }
      .next { s with tlb := fillTlb (fillTlb s.tlb e) { e with owner := own } }
    | none, none, .error _ => .next s

/-- INVGO (R122, R130): a write of the word at 0x10 of an address space. INVSZ is ignored while INVGO is 1. -/
def execInvgo (a : Nat) (value : BitVec 32) (s : State) : Res :=
  if a < 64 then
    let x := s.space a
    hostWrite s (.next (s.setSpace a { x with invSz := if x.invGo then x.invSz else value.setWidth 2, en := value.getLsbD 30
                                              invGo := x.invGo || value.getLsbD 31 }))
  else .fault .noSuchUnit

/-- The range of virtual addresses that an invalidation names (R122). -/
def invRange (x : Space) : Nat × Nat :=
  match x.invSz.toNat with
  | 0 => (x.invVa.toNat / 2 ^ 16 * 2 ^ 16, 2 ^ 16)
  | 1 => (x.invVa.toNat / 2 ^ 21 * 2 ^ 21, 2 ^ 21)
  | 2 => (x.invVa.toNat / 2 ^ 30 * 2 ^ 30, 2 ^ 30)
  | _ => (0, 2 ^ 57)

/-- A page and a range of virtual addresses share a byte. -/
def sharesByte (va log lo n : Nat) : Bool := decide (va < lo + n) && decide (lo < va + 2 ^ log)

/-- No cache holds a translation of a range of an address space any more. -/
def dropTranslations (s : State) (a lo n : Nat) : State :=
  { s with tlb := s.tlb.filter fun e => !(e.asid == a && sharesByte e.va e.log lo n) }

/-- Granule records of pages whose leaf no longer has CHK are discarded (R386). -/
def dropUnchecked (s : State) (a lo n : Nat) : State :=
  let keep := fun x : Checked => !(x.asid.toNat == a && decide (lo ≤ x.va.toNat) && decide (x.va.toNat < lo + n)) ||
    (match walk s x.asid x.va.toNat with | .ok l => l.chk | .error _ => false)
  { s with order := { s.order with checked := s.order.checked.filter keep } }

/-- A bank command that an old translation of an address space placed has not executed yet (R130, R357). -/
def banksHold (s : State) (a : Nat) : Bool := s.banks.any fun e => e.2.queue.any fun c => c.asid == a

/-- INVALIDATION_COMPLETE (R130): it waits until every access that used an old translation has completed. -/
def execInvalidationComplete (a : Nat) (s : State) : Res :=
  if (s.space a).invGo && !banksHold s a then
    let r := invRange (s.space a)
    let s1 := dropUnchecked (dropTranslations s a r.1 r.2) a r.1 r.2
    .next (s1.setSpace a { s1.space a with invGo := false })
  else .next s

end Sys2Proof.Machine
end

