-- ==== Sys2Proof/Machine/Int.lean ====
section
/-! DEFINITION. Integer arithmetic, logic and shifts (R205 to R207) and unary integer operations (R208). -/

namespace Sys2Proof.Machine

/-! ## Functions of the operations -/

/-- A signed function of two 32-bit sources: the exact result, of which a 32-bit destination keeps the low bits and a latch
64 (R7, R204, R205). -/
def fnI (f : Int → Int → Int) : LaneIn → LaneOut := pureFn fun a b => toDWord (f (lowInt a) (lowInt b))

/-- An unsigned function of two 32-bit sources with a 32-bit result (R205). -/
def fnN (f : Nat → Nat → Nat) : LaneIn → LaneOut :=
  pureFn fun a b => (BitVec.ofNat 32 (f (a.setWidth 32 : Word).toNat (b.setWidth 32 : Word).toNat)).setWidth 64

/-- A signed function with a 64-bit result (R205, MULW.i32). -/
def fnWideI (f : Int → Int → Int) : LaneIn → LaneOut := pureFn fun a b => toDWord (f (lowInt a) (lowInt b))

/-- An unsigned function with a 64-bit result (R205, MULW.n32). -/
def fnWideN (f : Nat → Nat → Nat) : LaneIn → LaneOut :=
  pureFn fun a b => BitVec.ofNat 64 (f (a.setWidth 32 : Word).toNat (b.setWidth 32 : Word).toNat)

/-- Clamps to the signed range (R56). -/
def satI (x : Int) : Int := clampInt minI32 maxI32 x

/-- Clamps to the unsigned range from above (R56). -/
def satN (x : Nat) : Nat := min x (2 ^ 32 - 1)

/-- Signed division truncated toward zero; 0xFFFF_FFFF for a zero divisor, and −2^31 by −1 gives −2^31 (R57, R206). -/
def divI (a b : Int) : Int := if b = 0 then 0xFFFFFFFF else if a = minI32 ∧ b = -1 then minI32 else a.tdiv b

/-- Bits [63:32] of a signed product (R205). -/
def mulhiI (a b : Int) : Int := (a * b).fdiv (2 ^ 32 : Nat) % (2 ^ 32 : Nat)

/-- Remainder with the sign of the dividend; the dividend for a zero divisor (R57, R206). -/
def remI (a b : Int) : Int := if b = 0 then a else a.tmod b

/-- Unsigned division; all ones for a zero divisor (R206). -/
def divN (a b : Nat) : Nat := if b = 0 then 2 ^ 32 - 1 else a / b

/-- Unsigned remainder (R206). -/
def remN (a b : Nat) : Nat := if b = 0 then a else a % b

/-- SHL (R207). -/
def shlN (a c : Nat) : Nat := if 32 ≤ c then 0 else a * 2 ^ c

/-- SHR.n32 (R207). -/
def shrN (a c : Nat) : Nat := if 32 ≤ c then 0 else a / 2 ^ c

/-- SHR.i32: an arithmetic shift; the sign fills from 32 on (R207). -/
def shrI (a : Int) (c : Nat) : Int := a.fdiv (2 ^ min c 32 : Nat)

/-- The function of SHR.i32: A signed, the count unsigned (R207). -/
def fnShrI : LaneIn → LaneOut :=
  pureFn fun a b => toDWord (shrI (lowInt a) (b.setWidth 32 : Word).toNat)

/-! ## The operations of R205 -/

/-- a + b; interval under R188. -/
def aluAddI32 : Alu := { fn := fnI (· + ·), iv := .add }

/-- AddI32, register form: x = a + b (R205). -/
def execAddI32 (d : BitVec 7) (w : BitVec 1) (a b : BitVec 8) (s : State) : Res :=
  execAlu .base aluAddI32 { d, w, a, b } [] false s

/-- AddI32, immediate form (R144, R205). -/
def execAddI32Imm (d : BitVec 7) (w : BitVec 1) (a i : BitVec 8) (s : State) : Res :=
  execAlu .base aluAddI32 { d, w, a, imm := some (immOf s.lead i true false) } [] true s

/-- a − b; interval under R188. -/
def aluSubI32 : Alu := { fn := fnI (· - ·), iv := .sub }

/-- SubI32, register form: x = a − b (R205). -/
def execSubI32 (d : BitVec 7) (w : BitVec 1) (a b : BitVec 8) (s : State) : Res :=
  execAlu .base aluSubI32 { d, w, a, b } [] false s

/-- SubI32, immediate form (R144, R205). -/
def execSubI32Imm (d : BitVec 7) (w : BitVec 1) (a i : BitVec 8) (s : State) : Res :=
  execAlu .base aluSubI32 { d, w, a, imm := some (immOf s.lead i true false) } [] true s

/-- a + b clamped to the signed range; interval under R188. -/
def aluAddSatI32 : Alu := { fn := fnI fun a b => satI (a + b), iv := .addSat }

/-- AddSatI32, register form: x = a + b clamped to the signed range (R205). -/
def execAddSatI32 (d : BitVec 7) (w : BitVec 1) (a b : BitVec 8) (s : State) : Res :=
  execAlu .base aluAddSatI32 { d, w, a, b } [] false s

/-- AddSatI32, immediate form (R144, R205). -/
def execAddSatI32Imm (d : BitVec 7) (w : BitVec 1) (a i : BitVec 8) (s : State) : Res :=
  execAlu .base aluAddSatI32 { d, w, a, imm := some (immOf s.lead i true false) } [] true s

/-- a + b clamped to [0, 2^32 − 1]; interval under R188. -/
def aluAddSatN32 : Alu := { fn := fnN fun a b => satN (a + b), iv := .addSatN }

/-- AddSatN32, register form: x = a + b clamped to [0, 2^32 − 1] (R205). -/
def execAddSatN32 (d : BitVec 7) (w : BitVec 1) (a b : BitVec 8) (s : State) : Res :=
  execAlu .base aluAddSatN32 { d, w, a, b } [] false s

/-- AddSatN32, immediate form (R144, R205). -/
def execAddSatN32Imm (d : BitVec 7) (w : BitVec 1) (a i : BitVec 8) (s : State) : Res :=
  execAlu .base aluAddSatN32 { d, w, a, imm := some (immOf s.lead i false false) } [] true s

/-- a − b clamped to the signed range; interval under R188. -/
def aluSubSatI32 : Alu := { fn := fnI fun a b => satI (a - b), iv := .subSat }

/-- SubSatI32, register form: x = a − b clamped to the signed range (R205). -/
def execSubSatI32 (d : BitVec 7) (w : BitVec 1) (a b : BitVec 8) (s : State) : Res :=
  execAlu .base aluSubSatI32 { d, w, a, b } [] false s

/-- SubSatI32, immediate form (R144, R205). -/
def execSubSatI32Imm (d : BitVec 7) (w : BitVec 1) (a i : BitVec 8) (s : State) : Res :=
  execAlu .base aluSubSatI32 { d, w, a, imm := some (immOf s.lead i true false) } [] true s

/-- max(a − b, 0); interval under R188. -/
def aluSubSatN32 : Alu := { fn := fnN (· - ·), iv := .subSatN }

/-- SubSatN32, register form: x = max(a − b, 0) (R205). -/
def execSubSatN32 (d : BitVec 7) (w : BitVec 1) (a b : BitVec 8) (s : State) : Res :=
  execAlu .base aluSubSatN32 { d, w, a, b } [] false s

/-- SubSatN32, immediate form (R144, R205). -/
def execSubSatN32Imm (d : BitVec 7) (w : BitVec 1) (a i : BitVec 8) (s : State) : Res :=
  execAlu .base aluSubSatN32 { d, w, a, imm := some (immOf s.lead i false false) } [] true s

/-- a × b; interval under R188. -/
def aluMulI32 : Alu := { fn := fnI (· * ·), iv := .mul }

/-- MulI32, register form: x = a × b (R205). -/
def execMulI32 (d : BitVec 7) (w : BitVec 1) (a b : BitVec 8) (s : State) : Res :=
  execAlu .base aluMulI32 { d, w, a, b } [] false s

/-- MulI32, immediate form (R144, R205). -/
def execMulI32Imm (d : BitVec 7) (w : BitVec 1) (a i : BitVec 8) (s : State) : Res :=
  execAlu .base aluMulI32 { d, w, a, imm := some (immOf s.lead i true false) } [] true s

/-- a × b clamped to the signed range; interval under R188. -/
def aluMulSatI32 : Alu := { fn := fnI fun a b => satI (a * b), iv := .mulSat }

/-- MulSatI32, register form: x = a × b clamped to the signed range (R205). -/
def execMulSatI32 (d : BitVec 7) (w : BitVec 1) (a b : BitVec 8) (s : State) : Res :=
  execAlu .base aluMulSatI32 { d, w, a, b } [] false s

/-- MulSatI32, immediate form (R144, R205). -/
def execMulSatI32Imm (d : BitVec 7) (w : BitVec 1) (a i : BitVec 8) (s : State) : Res :=
  execAlu .base aluMulSatI32 { d, w, a, imm := some (immOf s.lead i true false) } [] true s

/-- a × b clamped to [0, 2^32 − 1]; interval under R188. -/
def aluMulSatN32 : Alu := { fn := fnN fun a b => satN (a * b), iv := .mulSatN }

/-- MulSatN32, register form: x = a × b clamped to [0, 2^32 − 1] (R205). -/
def execMulSatN32 (d : BitVec 7) (w : BitVec 1) (a b : BitVec 8) (s : State) : Res :=
  execAlu .base aluMulSatN32 { d, w, a, b } [] false s

/-- MulSatN32, immediate form (R144, R205). -/
def execMulSatN32Imm (d : BitVec 7) (w : BitVec 1) (a i : BitVec 8) (s : State) : Res :=
  execAlu .base aluMulSatN32 { d, w, a, imm := some (immOf s.lead i false false) } [] true s

/-- bits [63:32] of the signed product; interval under R188. -/
def aluMulhiI32 : Alu := { fn := fnI mulhiI, iv := .full }

/-- MulhiI32, register form: x = bits [63:32] of the signed product (R205). -/
def execMulhiI32 (d : BitVec 7) (w : BitVec 1) (a b : BitVec 8) (s : State) : Res :=
  execAlu .base aluMulhiI32 { d, w, a, b } [] false s

/-- MulhiI32, immediate form (R144, R205). -/
def execMulhiI32Imm (d : BitVec 7) (w : BitVec 1) (a i : BitVec 8) (s : State) : Res :=
  execAlu .base aluMulhiI32 { d, w, a, imm := some (immOf s.lead i true false) } [] true s

/-- ⌊a × b / 2^32⌋; interval under R188. -/
def aluMulhiN32 : Alu := { fn := fnN fun a b => a * b / 2 ^ 32, iv := .full }

/-- MulhiN32, register form: x = ⌊a × b / 2^32⌋ (R205). -/
def execMulhiN32 (d : BitVec 7) (w : BitVec 1) (a b : BitVec 8) (s : State) : Res :=
  execAlu .base aluMulhiN32 { d, w, a, b } [] false s

/-- MulhiN32, immediate form (R144, R205). -/
def execMulhiN32Imm (d : BitVec 7) (w : BitVec 1) (a i : BitVec 8) (s : State) : Res :=
  execAlu .base aluMulhiN32 { d, w, a, imm := some (immOf s.lead i false false) } [] true s

/-- a × b, 64 bits; interval under R188. -/
def aluMulwI32 : Alu := { fn := fnWideI (· * ·), iv := .full, wd := true, far6 := true }

/-- MulwI32, register form: x = a × b, 64 bits (R205). -/
def execMulwI32 (d : BitVec 7) (w : BitVec 1) (a b : BitVec 8) (s : State) : Res :=
  execAlu .base aluMulwI32 { d, w, a, b } [] false s

/-- MulwI32, immediate form (R144, R205). -/
def execMulwI32Imm (d : BitVec 7) (w : BitVec 1) (a i : BitVec 8) (s : State) : Res :=
  execAlu .base aluMulwI32 { d, w, a, imm := some (immOf s.lead i true false) } [] true s

/-- a × b, 64 bits; interval under R188. -/
def aluMulwN32 : Alu := { fn := fnWideN (· * ·), iv := .full, wd := true, far6 := true }

/-- MulwN32, register form: x = a × b, 64 bits (R205). -/
def execMulwN32 (d : BitVec 7) (w : BitVec 1) (a b : BitVec 8) (s : State) : Res :=
  execAlu .base aluMulwN32 { d, w, a, b } [] false s

/-- MulwN32, immediate form (R144, R205). -/
def execMulwN32Imm (d : BitVec 7) (w : BitVec 1) (a i : BitVec 8) (s : State) : Res :=
  execAlu .base aluMulwN32 { d, w, a, imm := some (immOf s.lead i false false) } [] true s

/-- a + b, 64 bits; interval under R188. -/
def aluAddI64 : Alu := { fn := pureFn (· + ·), iv := .full, wa := true, wb := true, wd := true, far6 := true }

/-- AddI64, register form: x = a + b, 64 bits (R205). -/
def execAddI64 (d : BitVec 7) (w : BitVec 1) (a b : BitVec 8) (s : State) : Res :=
  execAlu .base aluAddI64 { d, w, a, b } [] false s

/-- AddI64, immediate form (R144, R205). -/
def execAddI64Imm (d : BitVec 7) (w : BitVec 1) (a i : BitVec 8) (s : State) : Res :=
  execAlu .base aluAddI64 { d, w, a, imm := some (immOf s.lead i true true) } [] true s

/-- a − b, 64 bits; interval under R188. -/
def aluSubI64 : Alu := { fn := pureFn (· - ·), iv := .full, wa := true, wb := true, wd := true, far6 := true }

/-- SubI64, register form: x = a − b, 64 bits (R205). -/
def execSubI64 (d : BitVec 7) (w : BitVec 1) (a b : BitVec 8) (s : State) : Res :=
  execAlu .base aluSubI64 { d, w, a, b } [] false s

/-- SubI64, immediate form (R144, R205). -/
def execSubI64Imm (d : BitVec 7) (w : BitVec 1) (a i : BitVec 8) (s : State) : Res :=
  execAlu .base aluSubI64 { d, w, a, imm := some (immOf s.lead i true true) } [] true s

/-- signed quotient (R206); interval under R188. -/
def aluDivI32 : Alu := { fn := fnI divI, iv := .divI }

/-- DivI32, register form: x = signed quotient (R206) (R205). -/
def execDivI32 (d : BitVec 7) (w : BitVec 1) (a b : BitVec 8) (s : State) : Res :=
  execAlu .base aluDivI32 { d, w, a, b } [] false s

/-- DivI32, immediate form (R144, R205). -/
def execDivI32Imm (d : BitVec 7) (w : BitVec 1) (a i : BitVec 8) (s : State) : Res :=
  execAlu .base aluDivI32 { d, w, a, imm := some (immOf s.lead i true false) } [] true s

/-- unsigned quotient (R206); interval under R188. -/
def aluDivN32 : Alu := { fn := fnN divN, iv := .divN }

/-- DivN32, register form: x = unsigned quotient (R206) (R205). -/
def execDivN32 (d : BitVec 7) (w : BitVec 1) (a b : BitVec 8) (s : State) : Res :=
  execAlu .base aluDivN32 { d, w, a, b } [] false s

/-- DivN32, immediate form (R144, R205). -/
def execDivN32Imm (d : BitVec 7) (w : BitVec 1) (a i : BitVec 8) (s : State) : Res :=
  execAlu .base aluDivN32 { d, w, a, imm := some (immOf s.lead i false false) } [] true s

/-- signed remainder (R206); interval under R188. -/
def aluRemI32 : Alu := { fn := fnI remI, iv := .remI }

/-- RemI32, register form: x = signed remainder (R206) (R205). -/
def execRemI32 (d : BitVec 7) (w : BitVec 1) (a b : BitVec 8) (s : State) : Res :=
  execAlu .base aluRemI32 { d, w, a, b } [] false s

/-- RemI32, immediate form (R144, R205). -/
def execRemI32Imm (d : BitVec 7) (w : BitVec 1) (a i : BitVec 8) (s : State) : Res :=
  execAlu .base aluRemI32 { d, w, a, imm := some (immOf s.lead i true false) } [] true s

/-- unsigned remainder (R206); interval under R188. -/
def aluRemN32 : Alu := { fn := fnN remN, iv := .remN }

/-- RemN32, register form: x = unsigned remainder (R206) (R205). -/
def execRemN32 (d : BitVec 7) (w : BitVec 1) (a b : BitVec 8) (s : State) : Res :=
  execAlu .base aluRemN32 { d, w, a, b } [] false s

/-- RemN32, immediate form (R144, R205). -/
def execRemN32Imm (d : BitVec 7) (w : BitVec 1) (a i : BitVec 8) (s : State) : Res :=
  execAlu .base aluRemN32 { d, w, a, imm := some (immOf s.lead i false false) } [] true s

/-- signed minimum; interval under R188. -/
def aluMinI32 : Alu := { fn := fnI min, iv := .min }

/-- MinI32, register form: x = signed minimum (R205). -/
def execMinI32 (d : BitVec 7) (w : BitVec 1) (a b : BitVec 8) (s : State) : Res :=
  execAlu .base aluMinI32 { d, w, a, b } [] false s

/-- MinI32, immediate form (R144, R205). -/
def execMinI32Imm (d : BitVec 7) (w : BitVec 1) (a i : BitVec 8) (s : State) : Res :=
  execAlu .base aluMinI32 { d, w, a, imm := some (immOf s.lead i true false) } [] true s

/-- signed maximum; interval under R188. -/
def aluMaxI32 : Alu := { fn := fnI max, iv := .max }

/-- MaxI32, register form: x = signed maximum (R205). -/
def execMaxI32 (d : BitVec 7) (w : BitVec 1) (a b : BitVec 8) (s : State) : Res :=
  execAlu .base aluMaxI32 { d, w, a, b } [] false s

/-- MaxI32, immediate form (R144, R205). -/
def execMaxI32Imm (d : BitVec 7) (w : BitVec 1) (a i : BitVec 8) (s : State) : Res :=
  execAlu .base aluMaxI32 { d, w, a, imm := some (immOf s.lead i true false) } [] true s

/-- unsigned minimum; interval under R188. -/
def aluMinN32 : Alu := { fn := fnN min, iv := .minN }

/-- MinN32, register form: x = unsigned minimum (R205). -/
def execMinN32 (d : BitVec 7) (w : BitVec 1) (a b : BitVec 8) (s : State) : Res :=
  execAlu .base aluMinN32 { d, w, a, b } [] false s

/-- MinN32, immediate form (R144, R205). -/
def execMinN32Imm (d : BitVec 7) (w : BitVec 1) (a i : BitVec 8) (s : State) : Res :=
  execAlu .base aluMinN32 { d, w, a, imm := some (immOf s.lead i false false) } [] true s

/-- unsigned maximum; interval under R188. -/
def aluMaxN32 : Alu := { fn := fnN max, iv := .maxN }

/-- MaxN32, register form: x = unsigned maximum (R205). -/
def execMaxN32 (d : BitVec 7) (w : BitVec 1) (a b : BitVec 8) (s : State) : Res :=
  execAlu .base aluMaxN32 { d, w, a, b } [] false s

/-- MaxN32, immediate form (R144, R205). -/
def execMaxN32Imm (d : BitVec 7) (w : BitVec 1) (a i : BitVec 8) (s : State) : Res :=
  execAlu .base aluMaxN32 { d, w, a, imm := some (immOf s.lead i false false) } [] true s

/-- bitwise and; interval under R188. -/
def aluAnd : Alu := { fn := pureFn (· &&& ·), iv := .and }

/-- And, register form: x = bitwise and (R205). -/
def execAnd (d : BitVec 7) (w : BitVec 1) (a b : BitVec 8) (s : State) : Res :=
  execAlu .base aluAnd { d, w, a, b } [] false s

/-- And, immediate form (R144, R205). -/
def execAndImm (d : BitVec 7) (w : BitVec 1) (a i : BitVec 8) (s : State) : Res :=
  execAlu .base aluAnd { d, w, a, imm := some (immOf s.lead i false false) } [] true s

/-- bitwise or; interval under R188. -/
def aluOr : Alu := { fn := pureFn (· ||| ·), iv := .or }

/-- Or, register form: x = bitwise or (R205). -/
def execOr (d : BitVec 7) (w : BitVec 1) (a b : BitVec 8) (s : State) : Res :=
  execAlu .base aluOr { d, w, a, b } [] false s

/-- Or, immediate form (R144, R205). -/
def execOrImm (d : BitVec 7) (w : BitVec 1) (a i : BitVec 8) (s : State) : Res :=
  execAlu .base aluOr { d, w, a, imm := some (immOf s.lead i false false) } [] true s

/-- bitwise exclusive or; interval under R188. -/
def aluXor : Alu := { fn := pureFn (· ^^^ ·), iv := .or }

/-- Xor, register form: x = bitwise exclusive or (R205). -/
def execXor (d : BitVec 7) (w : BitVec 1) (a b : BitVec 8) (s : State) : Res :=
  execAlu .base aluXor { d, w, a, b } [] false s

/-- Xor, immediate form (R144, R205). -/
def execXorImm (d : BitVec 7) (w : BitVec 1) (a i : BitVec 8) (s : State) : Res :=
  execAlu .base aluXor { d, w, a, imm := some (immOf s.lead i false false) } [] true s

/-- SHL (R207); interval under R188. -/
def aluShl : Alu := { fn := fnN shlN, iv := .shl }

/-- Shl, register form: x = SHL (R207) (R205). -/
def execShl (d : BitVec 7) (w : BitVec 1) (a b : BitVec 8) (s : State) : Res :=
  execAlu .base aluShl { d, w, a, b } [] false s

/-- Shl, immediate form (R144, R205). -/
def execShlImm (d : BitVec 7) (w : BitVec 1) (a i : BitVec 8) (s : State) : Res :=
  execAlu .base aluShl { d, w, a, imm := some (immOf s.lead i false false) } [] true s

/-- SHR.n32 (R207); interval under R188. -/
def aluShrN32 : Alu := { fn := fnN shrN, iv := .shrN }

/-- ShrN32, register form: x = SHR.n32 (R207) (R205). -/
def execShrN32 (d : BitVec 7) (w : BitVec 1) (a b : BitVec 8) (s : State) : Res :=
  execAlu .base aluShrN32 { d, w, a, b } [] false s

/-- ShrN32, immediate form (R144, R205). -/
def execShrN32Imm (d : BitVec 7) (w : BitVec 1) (a i : BitVec 8) (s : State) : Res :=
  execAlu .base aluShrN32 { d, w, a, imm := some (immOf s.lead i false false) } [] true s

/-- SHR.i32 (R207); interval under R188. -/
def aluShrI32 : Alu := { fn := fnShrI, iv := .shrI }

/-- ShrI32, register form: x = SHR.i32 (R207) (R205). -/
def execShrI32 (d : BitVec 7) (w : BitVec 1) (a b : BitVec 8) (s : State) : Res :=
  execAlu .base aluShrI32 { d, w, a, b } [] false s

/-- ShrI32, immediate form (R144, R205). -/
def execShrI32Imm (d : BitVec 7) (w : BitVec 1) (a i : BitVec 8) (s : State) : Res :=
  execAlu .base aluShrI32 { d, w, a, imm := some (immOf s.lead i false false) } [] true s

/-! ## Unary operations of R208 -/

/-- A unary function of a 32-bit source with a 32-bit result (R208). -/
def fnU (f : Word → Word) : LaneIn → LaneOut := fun i => { x := (f (i.a.setWidth 32)).setWidth 64, gen := i.gen }

/-- A sign extension, exact in the latch (R204, R208). -/
def fnSext (n : Nat) : LaneIn → LaneOut := fun i => { x := (i.a.setWidth n).signExtend 64, gen := i.gen }

/-- A unary function with a 64-bit result (R208). -/
def fnUW (f : DWord → DWord) : LaneIn → LaneOut := fun i => { x := f i.a, gen := i.gen }

/-- Mov: x = a (R208). -/
def aluMov : Alu := { fn := fnU id, iv := .mov, useB := false }

/-- Mov (R208). -/
def execMov (d : BitVec 7) (w : BitVec 1) (a : BitVec 8) (s : State) : Res :=
  execAlu .base aluMov { d, w, a } [] false s

/-- Not: x = bitwise complement of a (R208). -/
def aluNot : Alu := { fn := fnU (~~~ ·), iv := .not, useB := false }

/-- Not (R208). -/
def execNot (d : BitVec 7) (w : BitVec 1) (a : BitVec 8) (s : State) : Res :=
  execAlu .base aluNot { d, w, a } [] false s

/-- Neg: x = −a modulo 2^32 (R208). -/
def aluNeg : Alu := { fn := fnU (- ·), iv := .neg, useB := false }

/-- Neg (R208). -/
def execNeg (d : BitVec 7) (w : BitVec 1) (a : BitVec 8) (s : State) : Res :=
  execAlu .base aluNeg { d, w, a } [] false s

/-- Abs: x = |a| modulo 2^32 (R208). -/
def aluAbs : Alu := { fn := fnU fun a => if a.msb then -a else a, iv := .abs, useB := false }

/-- Abs (R208). -/
def execAbs (d : BitVec 7) (w : BitVec 1) (a : BitVec 8) (s : State) : Res :=
  execAlu .base aluAbs { d, w, a } [] false s

/-- Popc: x = number of one bits (R208). -/
def aluPopc : Alu := { fn := fnU fun a => BitVec.ofNat 32 (popNat a.toNat 32), iv := .count, useB := false }

/-- Popc (R208). -/
def execPopc (d : BitVec 7) (w : BitVec 1) (a : BitVec 8) (s : State) : Res :=
  execAlu .base aluPopc { d, w, a } [] false s

/-- Clz: x = leading zero bits; 32 when a = 0 (R208). -/
def aluClz : Alu := { fn := fnU fun a => BitVec.ofNat 32 (32 - bitLen a.toNat 32), iv := .count, useB := false }

/-- Clz (R208). -/
def execClz (d : BitVec 7) (w : BitVec 1) (a : BitVec 8) (s : State) : Res :=
  execAlu .base aluClz { d, w, a } [] false s

/-- Brev: x = bit i of x is bit 31 − i of a (R208). -/
def aluBrev : Alu := { fn := fnU fun a => BitVec.ofNat 32 (revBits a.toNat 32), iv := .full, useB := false }

/-- Brev (R208). -/
def execBrev (d : BitVec 7) (w : BitVec 1) (a : BitVec 8) (s : State) : Res :=
  execAlu .base aluBrev { d, w, a } [] false s

/-- SxtI8: x = sext(a, 8) (R208). -/
def aluSxtI8 : Alu := { fn := fnSext 8, iv := .sext8, useB := false }

/-- SxtI8 (R208). -/
def execSxtI8 (d : BitVec 7) (w : BitVec 1) (a : BitVec 8) (s : State) : Res :=
  execAlu .base aluSxtI8 { d, w, a } [] false s

/-- SxtI16: x = sext(a, 16) (R208). -/
def aluSxtI16 : Alu := { fn := fnSext 16, iv := .sext16, useB := false }

/-- SxtI16 (R208). -/
def execSxtI16 (d : BitVec 7) (w : BitVec 1) (a : BitVec 8) (s : State) : Res :=
  execAlu .base aluSxtI16 { d, w, a } [] false s

/-- ZxtN8: x = zext(a, 8) (R208). -/
def aluZxtN8 : Alu := { fn := fnU fun a => (a.setWidth 8).setWidth 32, iv := .zext8, useB := false }

/-- ZxtN8 (R208). -/
def execZxtN8 (d : BitVec 7) (w : BitVec 1) (a : BitVec 8) (s : State) : Res :=
  execAlu .base aluZxtN8 { d, w, a } [] false s

/-- ZxtN16: x = zext(a, 16) (R208). -/
def aluZxtN16 : Alu := { fn := fnU fun a => (a.setWidth 16).setWidth 32, iv := .zext16, useB := false }

/-- ZxtN16 (R208). -/
def execZxtN16 (d : BitVec 7) (w : BitVec 1) (a : BitVec 8) (s : State) : Res :=
  execAlu .base aluZxtN16 { d, w, a } [] false s

/-- SxtI64: x = sext(a, 32), 64 bits (R208). -/
def aluSxtI64 : Alu := { fn := fnUW fun a => (a.setWidth 32).signExtend 64, iv := .full, useB := false, wd := true }

/-- SxtI64 (R208). -/
def execSxtI64 (d : BitVec 7) (w : BitVec 1) (a : BitVec 8) (s : State) : Res :=
  execAlu .base aluSxtI64 { d, w, a } [] false s

/-- ZxtN64: x = zext(a, 32), 64 bits (R208). -/
def aluZxtN64 : Alu := { fn := fnUW fun a => (a.setWidth 32).setWidth 64, iv := .full, useB := false, wd := true }

/-- ZxtN64 (R208). -/
def execZxtN64 (d : BitVec 7) (w : BitVec 1) (a : BitVec 8) (s : State) : Res :=
  execAlu .base aluZxtN64 { d, w, a } [] false s

/-- Mov64: x = a, 64 bits (R208). -/
def aluMov64 : Alu := { fn := fnUW id, iv := .full, useB := false, wa := true, wd := true }

/-- Mov64 (R208). -/
def execMov64 (d : BitVec 7) (w : BitVec 1) (a : BitVec 8) (s : State) : Res :=
  execAlu .base aluMov64 { d, w, a } [] false s

/-- SEL: a where the guard is 1, b where it is 0, a with no span open; no lane is disabled (R156, R213). -/
def aluSel : Alu :=
  { fn := fun i => { x := if i.g then i.a else i.b, gen := i.gen }, iv := .sel, sel := true }

/-- SEL (R213). -/
def execSel (d : BitVec 7) (w : BitVec 1) (a b : BitVec 8) (s : State) : Res :=
  execAlu .base aluSel { d, w, a, b } [] false s

end Sys2Proof.Machine
end

