-- ==== Sys2Proof/Machine/Nearbank.lean ====
section
/-! DEFINITION. Near-bank arithmetic (R345 to R368): where a granule lies, the checks of a bank command, the banks' queues
and units, and the owner registers. -/

namespace Sys2Proof.Machine

/-- NBOWN of a pseudo-channel as a word (R350). -/
def nbownValue (s : State) (g : Nat) : Nat :=
  let x := tabGetD s.host.nbown g (0, false)
  x.1.toNat + (if x.2 then 128 else 0)

/-- ALLBANK and TYPE of a group (R351). -/
def Group.allBank (g : Group) : Bool := g.nbm.getLsbD 0
def Group.bankBf (g : Group) : Bool := g.nbm.getLsbD 1

/-! ## Checks -/

/-- A bank command's form: granules of the run, whether bits [3:0] of A carry a scalar lane, whether it writes back, and
whether the all-bank shape is required. -/
structure BankForm where
  run : Nat := 1
  scalar : Bool := false
  writes : Bool := false
  shape : Bool := true
  deriving DecidableEq, Repr

/-- First byte of a lane's run (R354). -/
def runStart (a : DWord) : Nat := a.toNat / 32 * 32

/-- The span fault of a lane, if any (R354, R355 orders 1 and 2): its cause. -/
def spanCause (f : BankForm) (allBank : Bool) (a : DWord) : Option Nat :=
  let x := a.toNat
  if bitNat x 4 || (!f.scalar && x % 16 != 0) then some 2
  else if f.shape && allBank && (bitsNat x 13 10 != 0 || decide (32 < bitsNat x 9 5 + f.run)) then some 1
  else none

/-- A lane's run crosses a 2 MiB boundary (R355 order 2). -/
def runCrosses (f : BankForm) (a : DWord) : Bool :=
  (runStart a + 32 * f.run - 1) / 2 ^ 21 != runStart a / 2 ^ 21

/-- Last byte of a lane's run, modulo 2^64 (R356). -/
def runLast (f : BankForm) (a : DWord) : DWord := BitVec.ofNat 64 (runStart a + 32 * f.run - 1)

/-- Address space of a thread. -/
def asidOfThread (s : State) (k : Nat) : BitVec 6 := s.asidOf (s.group (grpOf k)).blk

/-- The translation of a lane (R355 order 3). -/
def bankWalk (s : State) (k : Nat) (f : BankForm) (a : DWord) : Except Nat Nat :=
  if 2 ^ 57 ≤ a.toNat then .error 0
  else translate s (asidOfThread s k) (BitVec.ofNat 64 (runStart a)) (if f.writes then .bankWrite else .bank)

/-- Granules of a lane's run from its physical start (R354). -/
def runGranules (f : BankForm) (pa : Nat) : List Nat := (List.range f.run).map fun t => pa + 32 * t

/-- The first pseudo-channel of a lane's run whose owner refuses it (R355 order 4). -/
def ownerRefuses (s : State) (k : Nat) (f : BankForm) (pa : Nat) : Option Nat :=
  ((runGranules f pa).map (pcOf s.mgmt)).find? fun g =>
    let x := tabGetD s.host.nbown g (0, false)
    !x.2 || x.1 != asidOfThread s k

/-- The checks of R355 for the enabled lanes with address operand X: the trap taken, or none. -/
def bankTrap (s : State) (f : BankForm) (addr : Nat → DWord) : Option State :=
  let all := fun k => (s.group (grpOf k)).allBank
  let word := s.issue.word.setWidth 64
  let first := fun (l : List Nat) (g : Nat) => (l.filter fun k => grpOf k == g).headD 0
  let pa := fun k => match bankWalk s k f (addr k) with | .ok p => p | .error _ => 0
  let odd := s.enabled.filter fun k => (spanCause f (all k) (addr k)).isSome
  let cross := s.enabled.filter fun k => runCrosses f (addr k)
  let bad := s.enabled.filter fun k => match bankWalk s k f (addr k) with | .ok _ => false | .error _ => true
  let owner := s.enabled.filter fun k => (ownerRefuses s k f (pa k)).isSome
  let span := fun (l : List Nat) (cause : Nat → Nat) => bundleTrap s l 0x0050 false fun g =>
    let k := first l g
    (addr k, [word, BitVec.ofNat 64 (cause k), runLast f (addr k)])
  if !odd.isEmpty then some (span odd fun k => (spanCause f (all k) (addr k)).getD 0)
  else if !cross.isEmpty then some (span cross fun _ => 0)
  else if !bad.isEmpty then
    some (bundleTrap s bad 0x0012 true fun g =>
      let mine := bad.filter fun k => grpOf k == g
      let a := leastAddr (mine.map fun k => BitVec.ofNat 64 (runStart (addr k)))
      let k := (mine.find? fun k => BitVec.ofNat 64 (runStart (addr k)) == a).getD 0
      let r := match bankWalk s k f (addr k) with | .ok _ => 0 | .error r => r
      (a, [word, BitVec.ofNat 64 r, 5]))
  else if !owner.isEmpty then
    some (bundleTrap s owner 0x0051 true fun g =>
      let k := first owner g
      let pc := (ownerRefuses s k f (pa k)).getD 0
      (addr k, [word, BitVec.ofNat 64 pc, BitVec.ofNat 64 (nbownValue s pc)]))
  else none

/-! ## Sending commands -/

/-- The banks of a pseudo-channel with the granule each executes for one at `pa` (R354). -/
def allBanks (m : Mgmt) (pa : Nat) : List (Nat × Nat) :=
  (List.range 16).map fun i => (16 * pcOf m pa + i, pa - bitsNat pa 13 10 * 1024 + 1024 * i)

/-- What a lane sends, in order: bank, granule and step t (R354). -/
def laneSteps (s : State) (f : BankForm) (allBank : Bool) (pa : Nat) : List (Nat × Nat × Nat) :=
  ((List.range f.run).map fun t =>
    let p := pa + 32 * t
    if allBank then (allBanks s.mgmt p).map fun e => (e.1, e.2, t) else [(bankOfAddr s.mgmt p, p, t)]).flatten

/-- Appends a command to a bank's queue. -/
def enqueue (s : State) (b : Nat) (c : BankCmd) : State :=
  let x := s.bank b
  { s with banks := tabSet s.banks b { x with queue := x.queue ++ [c] } }

/-- Sends a bundle's commands (R354, R357): `ops k steps` gives the operation of each step of a lane; each group counts
the bundle, and the members' regions close (R359). -/
def sendBundle (s : State) (f : BankForm) (addr : Nat → DWord)
    (ops : Nat → List (Nat × Nat × Nat) → List (Nat × BankOp)) : State :=
  let tag := s.fresh
  let sends := s.enabled.flatMap fun k =>
    let g := s.group (grpOf k)
    let pa := match bankWalk s k f (addr k) with | .ok p => p | .error _ => 0
    let hb := allBefore s (s.enabled.filter fun j => grpOf j == grpOf k)
    (ops k (laneSteps s f g.allBank pa)).map fun e =>
      (e.1, { op := e.2, bf := g.bankBf, grp := grpOf k, tag := tag, asid := (asidOfThread s k).toNat, hb := hb : BankCmd })
  let count := fun (g : Nat) (x : Group) =>
    { x with nBank := x.nBank + 1, bankOut := x.bankOut ++ [(tag, (sends.filter fun e => e.2.grp == g).length)] }
  -- a group counts the bundle once, with the commands that it sends
  let s1 := overGroups (countOps { s with fresh := s.fresh + 1 } s.enabled .bank tag id) s.enabled count
  sends.foldl (fun s e => enqueue s e.1 e.2) s1

/-- A bank command with an address in X (R353 to R359). -/
def execBank (checks : List (Nat × Bool)) (f : BankForm) (x : BitVec 8)
    (ops : State → Nat → List (Nat × Nat × Nat) → List (Nat × BankOp)) (s : State) : Res :=
  onThreads s .base .no (checks ++ srcChecks s x true ++ hintChecks s.lead false false false) fun s =>
    if counterFull s (·.nBank) || acquiring s then s else
    let addr := fun k => srcValue s k (s.thread k) true (codeOf x)
    match bankTrap s f addr with
    | some t => t
    | none => closeRegions (advanceNone (sendBundle (useFields s [(x, true)]) f addr (ops s))) s.members

/-- NBMODE (R362). -/
def execNbmode (t b : BitVec 1) (s : State) : Res :=
  onThreads s .base .yes (hintChecks s.lead false false false) fun s =>
    advanceNone (overGroups s s.enabled fun _ g => { g with nbm := t ++ b })

/-- NBBC (R363): the elements come from v(B) to v(B + 7). -/
def execNbbc (b : BitVec 7) (x : BitVec 8) (i : BitVec 3) (s : State) : Res :=
  execBank [(4, decide (88 < b.toNat)), (5, decide (b.toNat ≤ 88) && decide (s.regMax < b.toNat + 8)),
      (waitMark, (List.range 8).any fun i => srcHeld s false (b.toNat + i))] {} x
    (fun s k steps =>
      let t := s.thread k
      let elems := (List.range 16).map fun e =>
        let r := t.reg (b.toNat + e / 2)
        (if e % 2 = 0 then r.setWidth 16 else (r >>> 16).setWidth 16 : Half)
      steps.map fun e => (e.1, .bc i.toNat elems)) s

/-- NBLDW (R364). -/
def execNbldw (i : BitVec 3) (x : BitVec 8) (s : State) : Res :=
  execBank [] {} x (fun _ _ steps => steps.map fun e => (e.1, .ldw i.toNat e.2.1)) s

/-- NBMAC (R365). ZC starts from +0 the first granule of each accumulator in each executing bank. -/
def execNbmac (i k : BitVec 3) (x : BitVec 8) (a z sc : BitVec 1) (n : BitVec 5) (s : State) : Res :=
  execBank [] { run := n.toNat + 1, scalar := sc = 1 } x
    (fun s t steps =>
      let low := (srcValue s t (s.thread t) true (codeOf x)).toNat % 16
      let acc := fun st : Nat => if a = 1 then (k.toNat + st) % 8 else k.toNat
      let lane := fun st : Nat => if sc = 1 then some (if a = 1 then low else (low + st) % 16) else none
      let first := fun (b st : Nat) => !(steps.any fun e => e.1 == b && decide (e.2.2 < st) && acc e.2.2 == acc st)
      steps.map fun e => (e.1, .mac (acc e.2.2) i.toNat e.2.1 (lane e.2.2) (z = 1 && first e.1 e.2.2))) s

/-- NBRD (R366). -/
def execNbrd (k : BitVec 3) (x : BitVec 8) (c h : BitVec 1) (n : BitVec 3) (s : State) : Res :=
  execBank [] { run := (n.toNat + 1) * (if h = 1 then 1 else 2), writes := true } x
    (fun _ _ steps =>
      let acc := fun st : Nat => (k.toNat + (if h = 1 then st else st / 2)) % 8
      let part := fun st : Nat => if h = 1 then BankPart.halves else if st % 2 = 0 then .low else .high
      let later := fun (b st : Nat) => steps.any fun e => e.1 == b && decide (st < e.2.2) && acc e.2.2 == acc st
      steps.map fun e => (e.1, .rd (acc e.2.2) e.2.1 (part e.2.2) (c = 1 && !later e.1 e.2.2))) s

/-- NBCLR (R367). -/
def execNbclr (z : BitVec 8) (x : BitVec 8) (w : BitVec 8) (s : State) : Res :=
  execBank [] {} x (fun _ _ steps => steps.map fun e => (e.1, .clr z w)) s

/-! ## FENCE.BANK -/

/-- Banks that a lane's fence names (R368). -/
def fenceBanks (s : State) (k : Nat) (scope : Nat) (a : DWord) : List Nat :=
  let pa := match bankWalk s k {} a with | .ok p => p | .error _ => 0
  match scope with
  | 0 => [bankOfAddr s.mgmt pa]
  | 1 => (allBanks s.mgmt pa).map (·.1)
  | 2 => ((List.range 4).map fun c => (allBanks s.mgmt (pa / 2 ^ 21 * 2 ^ 21 + c * 2 ^ 14)).map (·.1)).flatten
  | _ => (s.banks.filter fun e => e.2.queue.any fun c => c.grp == grpOf k).map (·.1)

/-- What a fence that reaches its banks waits for (R368): the bundles with a command in their queues, and what happened-before
them. -/
def fenceReach (s : State) (banks : List Nat) : List Nat × View :=
  let l := banks.flatMap fun b => (s.bank b).queue
  ((l.map (·.tag)).eraseDups, l.foldl (fun v c => joinView v c.hb) [])

/-- Bundles of bank commands that have not completed (R357). -/
def bundlesOut (s : State) : List Nat :=
  ((s.groups.flatMap fun e => e.2.bankOut) ++ s.cores.flatMap fun e => e.2.hats.flatMap (·.bankOut)).map (·.1)

/-- A fence that a thread has reached is satisfied: every bundle that stood in its queues has completed, in whatever banks. -/
def fenceDone (s : State) (f : List Nat × View) : Bool := f.1.all fun t => !(bundlesOut s).contains t

/-- FENCE.BANK (R368): the enabled threads arrive, and the bundle passes once what stood in their queues is complete; each adopts
what it has waited for (R377). -/
def execFenceBank (x : BitVec 8) (sc : BitVec 2) (s : State) : Res :=
  let all := sc.toNat == 3
  onThreads s .base .no ((4, all && x != 0x7F) :: srcChecks s x true ++ hintChecks s.lead false false false)
    fun s =>
      let addr := fun k => srcValue s k (s.thread k) true (codeOf x)
      let fresh := s.enabled.filter fun k => (s.thread k).fence.isNone
      match (if all || fresh.isEmpty then none else bankTrap s { shape := false } addr) with
      | some t => t
      | none =>
        let reach := fun k (t : Thread) => t.fence.getD (fenceReach s (fenceBanks s k sc.toNat (addr k)))
        if s.enabled.all fun k => fenceDone s (reach k (s.thread k)) then
          let s1 := useFields s [(x, true)]
          let o := s.enabled.foldl (fun o k => o.adopt (tidOf s k) (reach k (s.thread k)).2) s1.order
          advanceNone { s1 with order := o, threads := tabOver s1.threads s.members fun _ t => { t with fence := none } }
        else { s with threads := tabOver s.threads s.enabled fun k t => { t with fence := some (reach k t) } }

/-! ## Execution -/

/-- BANK_COMMAND_EXECUTE (R357). -/
def execBankCommandExecute (b : Nat) (s : State) : Res := .next (bankNext (countBankCommand s b) b)

/-- Executes every queued command of a bank. -/
def drainBank (s : State) (b : Nat) : State := (s.bank b).queue.foldl (fun s _ => bankNext (countBankCommand s b) b) s

/-- NBOWN_WRITE (R350): when ASID or EN changes, commands that had passed their check run to completion and then every z
and w of the 16 units becomes +0. -/
def execNbownWrite (pc : Nat) (value : BitVec 32) (s : State) : Res :=
  if 768 ≤ pc then .fault .noSuchUnit
  else hostWrite s <|
    let new : BitVec 6 × Bool := (value.setWidth 6, value.getLsbD 7)
    let old := tabGetD s.host.nbown pc (0, false)
    let tab := if new = (0, false) then tabDrop s.host.nbown pc else tabSet s.host.nbown pc new
    let s1 := { s with host := { s.host with nbown := tab } }
    if new = old then .next s1
    else
      let banks := (List.range 16).map (16 * pc + ·)
      let s2 := banks.foldl drainBank s1
      .next { s2 with banks := s2.banks.filter fun e => !banks.contains e.1 }

end Sys2Proof.Machine
end

