-- ==== Sys2Proof/Machine/Placer.lean ====
section
/-! DEFINITION. The page placer (R131 to R134): the choice at the end of an epoch, and the move of a page. -/

namespace Sys2Proof.Machine

/-- Bytes of a frame. -/
def frameBytes : Nat := 2 ^ 21

/-- Dies that a stack is near, and stacks near a die (R131): a CD7 die's own two; those of a CD6 die's neighbours. -/
def nearStacks (d : Nat) : List Nat :=
  if Config.isCd6 d then ((List.range 6).filter fun e => Config.hops d e = 1).flatMap fun e => [2 * e, 2 * e + 1]
  else [2 * d, 2 * d + 1]

/-- Samples of a page by a die. -/
def samplesOf (s : State) (a va d : Nat) : Nat := (s.samples.filter fun x => x == (a, va, d)).length

/-- A leaf that the placer may move (R131). -/
def movable (m : Mgmt) (l : Leaf) : Bool :=
  l.log == 21 && physRegion m l.page == .hbm && !l.pin && !l.cc && !l.far

/-- The largest of a list by a number; the first of equals. -/
def largestBy {α : Type} (f : α → Nat) : List α → Option α
  | [] => none
  | x :: xs => some (xs.foldl (fun m y => if f m < f y then y else m) x)

/-- The move that the samples of a page ask for (R131): its weight, and where it goes. -/
def moveFor (s : State) (a va : Nat) : Option (Nat × Nat × Nat × Nat) :=
  match walkTables s (BitVec.ofNat 6 a) va with
  | .error _ => none
  | .ok l =>
    if !movable s.mgmt l then none
    else
      let stack := l.page / 2 ^ 36
      let best := (largestBy (samplesOf s a va) (List.range 8)).getD 0
      let n := samplesOf s a va best
      let here := (((List.range 8).filter fun d => (nearStacks d).contains stack).map (samplesOf s a va)).foldl (· + ·) 0
      if (nearStacks best).contains stack || decide (n < s.mgmt.placer.plMin.toNat) || decide (n < 2 * here) then none
      else (largestBy (fun k => (s.stack k).frCount.toNat) (nearStacks best)).map fun k => (n, a, va, k)

/-- Inserts into a list in decreasing order of the first number, after its equals. -/
def insertMove (x : Nat × Nat × Nat × Nat) : List (Nat × Nat × Nat × Nat) → List (Nat × Nat × Nat × Nat)
  | [] => [x]
  | y :: ys => if y.1 < x.1 then x :: y :: ys else y :: insertMove x ys

/-- The placer runs: in full service, while it is enabled (R134, R471). -/
def placerRuns (s : State) : Bool := s.mgmt.placer.en && s.mgmt.devState == .full

/-- PLACER_EPOCH (R131): at most PLMAX pages, in decreasing order of their samples. -/
def execPlacerEpoch (s : State) : Res :=
  if placerRuns s then
    let pages := (s.samples.map fun x => (x.1, x.2.1)).eraseDups
    let s := pages.foldl (fun s p => meetWalk s (BitVec.ofNat 6 p.1) p.2) s
    let chosen := (pages.filterMap fun p => moveFor s p.1 p.2).foldl (fun l x => insertMove x l) []
    let moves := (chosen.take s.mgmt.placer.plMax.toNat).map fun x => (x.2.1, x.2.2.1, x.2.2.2)
    .next { s with samples := [], mgmt := { s.mgmt with placer := { s.mgmt.placer with moves := moves } } }
  else .next s

/-- Copies bytes within physical memory; the ranges do not overlap. -/
def bytesCopy (m : Bytes) (src dst n : Nat) : Bytes :=
  let cells := m.filter fun c => decide (src ≤ c.1) && decide (c.1 < src + n)
  cells.foldl (fun m c => byteSet m (c.1 - src + dst) c.2) (bytesClear m dst (dst + n))

/-- Numbers of a range moved to another place. -/
def shifted (src dst n x : Nat) : Nat := if src ≤ x ∧ x < src + n then x - src + dst else x

/-- Read-only caches, whose words follow a frame that is copied (R132, R272). -/
def moveReadOnly (cores : Tab Core) (src dst : Nat) : Tab Core :=
  let inside := fun a w : Nat => decide (a / 4 ≤ w) && decide (w < (a + frameBytes) / 4)
  let move := fun ro : Tab Word =>
    (ro.filter fun e => inside src e.1).foldl (fun t e => tabSet t (e.1 - src / 4 + dst / 4) e.2)
      (tabKeep ro fun w _ => !inside src w && !inside dst w)
  cores.map fun e => (e.1, { e.2 with ro := move e.2.ro })

/-- Copies a frame with its poison marks (R455); what the order of accesses keeps by address goes with it, and so do the
words of the read-only caches (R132). -/
def copyFrame (s : State) (src dst : Nat) : State :=
  let s1 := detect (demand s src frameBytes) src frameBytes
  let mine := fun w : Nat => decide (src ≤ w) && decide (w < src + frameBytes)
  let there := fun w : Nat => decide (dst ≤ w) && decide (w < dst + frameBytes)
  let marks := (s1.poison.filter mine).map fun w => w - src + dst
  let o := s1.order
  -- what stood at the destination frame is gone with its bytes (R132, R379)
  let words := ({ o with words := o.words.filter fun w => !w.meets src frameBytes }).without dst frameBytes ++
    ((o.words.filter fun w => w.meets src frameBytes).map fun w => { w with loc := shifted src dst frameBytes w.loc })
  let checked := (o.checked.filter fun c => mine (32 * c.gran) || !there (32 * c.gran)).map fun c =>
    { c with gran := shifted (src / 32) (dst / 32) (frameBytes / 32) c.gran }
  { s1 with mem := bytesCopy s1.mem src dst frameBytes
            poison := (s1.poison.filter fun w => !there w) ++ marks
            found := (s1.found.filter fun w => !there w) ++ (s1.found.filter mine).map fun w => w - src + dst
            carried := s1.carried.filter fun w => !there w
            weak := s1.weak.filter fun w => !there w
            cores := moveReadOnly s1.cores src dst
            order := { o with words := words, checked := checked } }

/-- Sets the placer's registers. -/
def State.setPlacer (s : State) (p : Placer) : State := { s with mgmt := { s.mgmt with placer := p } }

/-- A move begins (R132 step 1): the frame of the destination's list and the entry that maps the page. -/
def beginMove (s0 : State) (a va stack : Nat) : State :=
  let s := meetWalk s0 (BitVec.ofNat 6 a) va
  match walkTables s (BitVec.ofNat 6 a) va with
  | .error _ => s
  | .ok l =>
    let dst := s.stack stack
    let from_ := l.page / 2 ^ 36
    let src := s.stack from_
    if !movable s.mgmt l || from_ == stack || dst.frCount == 0 || decide (src.frCap ≤ src.frCount) then s
    else
      let at_ := dst.frBase.toNat + 8 * (dst.frCount.toNat - 1)
      let frame := bytesAt s.mem at_ 8
      let m : PageMove := { asid := a, va := va, entry := l.entry, slot := l.slot, stack := stack, frame := frame }
      ((demand s at_ 8).setStack stack { dst with frCount := dst.frCount - 1 }).setPlacer { s.mgmt.placer with moving := some m }

/-- The page of a leaf that is being moved. -/
def PageMove.page (m : PageMove) : Nat := Leaf.page { entry := m.entry, log := 21, slot := m.slot }

/-- A frame goes onto a stack's list (R132, R134). -/
def pushFrame (s : State) (n frame : Nat) : State :=
  let x := s.stack n
  (storeClean s (x.frBase.toNat + 8 * x.frCount.toNat) 8 frame).setStack n { x with frCount := x.frCount + 1 }

/-- A move ends (R132 steps 2 to 7): the copy; then the compare-and-swap, which fails where software has changed the entry: the
new frame returns to its list. The frame is locked within this one step. DEDUCED (log 73), safe. -/
def endMove (s : State) (m : PageMove) : State :=
  let s0 := demand (s.setPlacer { s.mgmt.placer with moving := none }) m.slot 8
  if bytesAt s.mem m.slot 8 = m.entry then
    let s1 := copyFrame s0 m.page m.frame
    let s2 := dropTranslations (storeClean s1 m.slot 8 (m.entry - m.page + m.frame)) m.asid m.va frameBytes
    let s3 := pushFrame s2 (m.page / 2 ^ 36) m.page
    countDie (sendEvent s3 0x0007 0xFF 0xFF (BitVec.ofNat 64 (m.asid * 2 ^ 57 + m.va)) (BitVec.ofNat 64 m.page)
      (BitVec.ofNat 64 m.frame)) (dieBeside m.page) 0x4D 1
  else pushFrame s0 m.stack m.frame

/-- PAGE_MOVE (R132): a move under way ends; otherwise the next page that the last epoch chose begins its move. -/
def execPageMove (s : State) : Res :=
  match s.mgmt.placer.moving, s.mgmt.placer.moves with
  | some m, _ => .next (endMove s m)
  | none, [] => .next s
  | none, (a, va, k) :: rest =>
    let s1 := s.setPlacer { s.mgmt.placer with moves := rest }
    .next (if placerRuns s then beginMove s1 a va k else s1)

end Sys2Proof.Machine
end

