-- ==== Sys2Proof/Machine/Lifetime.lean ====
section
/-! DEFINITION. The device over its lifetime: the governor (R32 to R35), watchdogs and die resets (R457, R458), layer
map-out (R459 to R461), scrub and row retirement (R462 to R465), background work (R466), event counters (R467 to R469),
bring-up (R470 to R472) and attestation (R474). -/

namespace Sys2Proof.Machine

/-! ## The governor -/

/-- A die is hot: at or above 105 degrees, and from then until it is below 100 (R33). The governor's junction temperature is the
last sample of TJ. DESIGN CHOICE (log 72), unsafe. -/
def hotNow (x : Die) : Bool := decide (105 ≤ x.tj.toNat) || (x.hot && decide (100 ≤ x.tj.toNat))

/-- A die's clock after an interval with an estimate in watts (R33, R35), at the last sample of TJ. DESIGN CHOICE (log 72), unsafe.
DEDUCED (log 33), unsafe. -/
def governedClock (watts : Nat) (x : Die) : Nat :=
  let c := x.clkNow
  let c1 := if 3000 < watts then 1100 + (c * 3000 / watts - 1100) / 50 * 50
    else if watts ≤ 2850 ∧ c < x.clkCeil ∧ !(x.hot && decide (100 ≤ x.tj.toNat)) then c + 50
    else c
  let c2 := if 105 ≤ x.tj.toNat then max 1100 (c1 - 50) else c1
  min c2 x.clkCeil

/-- GOVERNOR_INTERVAL (R33): the estimate is the device's own; GOVEST saturates. In bring-up the clocks stand still (R471).
DESIGN CHOICE (log 72), unsafe. -/
def execGovernorInterval (watts : Nat) (s : State) : Res :=
  let steps := (List.range 8).map fun d => (d, ((s.die d).clkNow - governedClock watts (s.die d)) / 50)
  if s.mgmt.devState = .full then
    let next := fun x : Die => { x with clkNow := governedClock watts x, hot := hotNow x }
    let m := { s.mgmt with dies := s.mgmt.dies.map next, govEst := BitVec.ofNat 16 (min watts 65535) }
    .next (steps.foldl (fun s e => countDie s e.1 0x4C e.2) { s with mgmt := m })
  else .next { s with mgmt := { s.mgmt with govEst := BitVec.ofNat 16 (min watts 65535) } }

/-- SUPPLY_OVERPOWER (R34). -/
def execSupplyOverpower (watts : Nat) (s : State) : Res :=
  if 3300 < watts then
    let slow := fun x : Die => { x with clkNow := 1100 }
    .next (sendEvent { s with mgmt := { s.mgmt with dies := s.mgmt.dies.map slow } } 0x0006 0xFF 0xFF
      (BitVec.ofNat 64 watts) 0 0)
  else .next s

/-! ## Watchdogs, resets and self-tests of dies -/

/-- Grids with a block on a die. -/
def gridsOnDie (s : State) (d : Nat) : List Nat :=
  ((s.blocks.filter fun e => Config.dieOfCore (coreOfB e.1) == d).map (·.2.gid)).eraseDups

/-- Global cores of a die. -/
def dieCores (d : Nat) : List Nat := (List.range (Config.coresOf d)).map (Config.globalCore d)

/-- WATCHDOG_FIRE (R457): the die stops. `core` is the core's number in the die, or 255. -/
def execWatchdogFire (d unit core : Nat) (s : State) : Res :=
  if 8 ≤ d ∨ 6 < unit then .fault .noSuchUnit
  else if (s.die d).off then .next s
  else
    let s1 := (gridsOnDie s d).foldl (fun s g => killGrid s g 0 0) s
    let s2 := s1.setDie d { s1.die d with off := true, st := 2 }
    let s3 := (dieCores d).foldl rejectCards s2
    .next (sendEvent s3 0x0014 d core (BitVec.ofNat 64 unit) (BitVec.ofNat 64 core) 0)

/-- DIE_RESET (R458): a write of RESET. -/
def execDieReset (d : Nat) (s : State) : Res :=
  if d < 8 then
    hostWrite s <| if (s.die d).off || (gridsOnDie s d).isEmpty then .next (s.setDie d { s.die d with off := true, st := 0 })
    else .next s
  else .fault .noSuchUnit

/-- The vaults of a die read as zero (R458, R470). -/
def clearVaults (s : State) (d : Nat) : State :=
  let lo := vaultAddr (Config.globalCore d 0) 0
  let hi := vaultAddr (Config.globalCore d 0 + Config.coresOf d) 0
  let out := fun w : Nat => !(decide (lo ≤ w) && decide (w < hi))
  { s with mem := bytesClear s.mem lo hi, poison := s.poison.filter out, found := s.found.filter out, carried := s.carried.filter out
           weak := s.weak.filter out }

/-- The result of a die's self-test (R458): the cores that failed, and a shared unit that failed. -/
def selfTested (s : State) (d : Nat) (failed : BitVec 40) (badUnit : Option Nat) : State :=
  let bad := (List.range (Config.coresOf d)).filter fun c => failed.getLsbD c
  let off : BitVec 40 := bad.foldl (fun b c => b ||| 1#40 <<< c) 0
  let x := s.die d
  let y : Die := match badUnit with
    | none => { x with coreOff := off, off := false, st := 1 }
    | some _ => { x with coreOff := off, off := true, st := 2 }
  let s1 := bad.foldl (fun s c => sendEvent s 0x0013 d c (BitVec.ofNat 64 (Config.globalCore d c)) 0 0) (s.setDie d y)
  match badUnit with
  | none => clearVaults s1 d
  | some u => sendEvent s1 0x0014 d 0xFF (BitVec.ofNat 64 u) 0xFF 0

/-- SELF_TEST_END (R458): of a die that a write of RESET put into its self-test. -/
def execSelfTestEnd (d : Nat) (failed : BitVec 40) (badUnit : Option Nat) (s : State) : Res :=
  if d < 8 then
    if (s.die d).off && (s.die d).st == 0 then .next (selfTested s d failed badUnit) else .next s
  else .fault .noSuchUnit

/-! ## Layer map-out -/

/-- The slot that holds a layer (R459). -/
def slotOfLayer (x : Stack) (l : Nat) : Nat := x.laymap.findIdx (· == l)

/-- An owner is enabled on a pseudo-channel of a layer (R460). -/
def layerOwned (s : State) (stack l : Nat) : Bool :=
  (List.range 4).any fun i => (tabGetD s.host.nbown (64 * stack + 4 * l + i) (0, false)).2

/-- The four updates that end a map-out (R461). -/
def mapoutEnd (s : State) (n : Nat) : State :=
  let x := s.stack n
  let l := x.moOut.toNat
  let top := x.cap - 1
  let j := slotOfLayer x l
  let map := (x.laymap.set j (x.laymap.getD top 0)).set top l
  let y : Stack := { x with laymap := map, cap := x.cap - 1, layOff := x.layOff ||| 1#16 <<< l
                            moGo := false, moStat := if x.moPoison then 4 else 0 }
  sendEvent (s.setStack n y) 0x0015 0xFF 0xFF (BitVec.ofNat 64 n) (BitVec.ofNat 64 l) (BitVec.ofNat 64 (top * 2 ^ 32))

/-- MOGO (R460): a map-out of layer MOLAYER starts, or is refused. A layer in the top slot needs no copy; a stack without capacity
has no top slot. -/
def execMogo (n : Nat) (s : State) : Res :=
  if n < 12 then
    let x := s.stack n
    let l := x.moLayer.toNat
    let refuse := fun c : BitVec 3 => s.setStack n { x with moStat := c }
    hostWrite s <| if x.moGo then .next s
    else if x.layOff.getLsbD l then .next (refuse 1)
    else if x.cap ≠ 0 && (layerOwned s n l || layerOwned s n (x.laymap.getD (x.cap - 1) 0)) then .next (refuse 2)
    else if x.cap ≤ 8 then .next (refuse 3)
    else
      let s1 := s.setStack n { x with moGo := true, moOut := x.moLayer, moFrame := 0, moPoison := false }
      .next (if slotOfLayer x l = x.cap - 1 then mapoutEnd s1 n else s1)
  else .fault .noSuchUnit

/-- MAPOUT_FRAME_COPY (R461): the next frame of the slot is copied, its poison marks with it; physical addresses and
contents stay. -/
def execMapoutFrameCopy (n : Nat) (s : State) : Res :=
  if n < 12 then
    let x := s.stack n
    if x.moGo then
      let lo := n * 2 ^ 36 + slotOfLayer x x.moOut.toNat * 2 ^ 32 + x.moFrame * frameBytes
      let s1 := detect (demand s lo frameBytes) lo frameBytes
      let y := s1.stack n
      let s2 := s1.setStack n { y with moFrame := y.moFrame + 1, moPoison := y.moPoison || (poisonAt s lo frameBytes).isSome }
      .next (if y.moFrame + 1 < 2048 then s2 else mapoutEnd s2 n)
    else .next s
  else .fault .noSuchUnit

/-! ## Scrub and row retirement -/

/-- SCRUBCTL_WRITE (R465). -/
def execScrubctlWrite (value : BitVec 32) (s : State) : Res :=
  let p := (value.toNat / 256) % 256
  let x := s.mgmt.scrub
  hostWrite s <| .next { s with mgmt := { s.mgmt with scrub :=
    { en := value.getLsbD 0, period := if 1 ≤ p ∧ p ≤ 48 then p else x.period, rthr := BitVec.ofNat 8 (value.toNat / 65536) } } }

/-- The scrubs run (R462, R465). -/
def scrubRuns (s : State) : Bool := s.mgmt.scrub.en && s.mgmt.devState == .full

/-- PATROL_SCRUB (R462): one pass over every granule of every slot in service; errors beyond correction are reported too
(R454). DEDUCED (log 36), unsafe. -/
def execPatrolScrub (s : State) : Res :=
  .next (if scrubRuns s then
      let s1 := (s.weak.filter fun g => physRegion s.mgmt g == .hbm).foldl corrected s
      ((s1.poison.filter fun w => physRegion s.mgmt w == .hbm).map markUnit).foldl reportPoison s1
    else s)

/-- A row of the hot list holds an address. -/
def inHotRow (s : State) (pa : Nat) : Bool := decide (pa < 12 * 2 ^ 36) && (s.stack (pa / 2 ^ 36)).hot.any fun e => e.1 == pa / 1024

/-- HOT_ROW_SCRUB (R463). -/
def execHotRowScrub (s : State) : Res :=
  .next (if scrubRuns s then
      let s1 := (s.weak.filter (inHotRow s)).foldl corrected s
      ((s1.poison.filter (inHotRow s)).map markUnit).foldl reportPoison s1
    else s)

/-- SCORE_HALVING (R464). -/
def execScoreHalving (s : State) : Res :=
  let half := fun x : Stack => { x with hot := x.hot.map fun e => (e.1, e.2 / 2) }
  .next { s with mgmt := { s.mgmt with hbm := s.mgmt.hbm.map half } }

/-- Poisoned granules of a stack that no retirement of their row has carried yet (R464). -/
def newPoison (s : State) (n : Nat) : List Nat :=
  ((s.poison.filter fun w => w / 2 ^ 36 == n).map markUnit).eraseDups.filter fun g => !s.carried.contains g

/-- The bank of a row. -/
def bankOfRow (s : State) (row : Nat) : Nat := bankOfAddr s.mgmt (row * 1024)

/-- Rows of a stack to be retired (R464): those at the threshold or with a granule newly poisoned, in banks with a spare. -/
def rowsDue (s : State) (n : Nat) : List Nat :=
  let x := s.stack n
  let rthr := s.mgmt.scrub.rthr.toNat
  let hot := (x.hot.filter fun e => decide (rthr ≤ e.2)).map (·.1)
  let bad := (newPoison s n).map (· / 1024)
  if rthr = 0 then []
  else ((hot ++ bad).eraseDups).filter fun r => decide (tabGetD x.spares (bankOfRow s r) 0 < 64)

/-- Retires a row (R464): its data and poison marks go to a spare row of its bank. -/
def retireRow (s : State) (n row : Nat) : State :=
  let sd := detect (demand s (row * 1024) 1024) (row * 1024) 1024
  let s0 := { sd with carried := sd.carried ++ (newPoison sd n).filter fun g => g / 1024 == row }
  let x := s0.stack n
  let bank := bankOfRow s0 row
  let used := tabGetD x.spares bank 0 + 1
  let y : Stack := { x with hot := x.hot.filter fun e => e.1 != row
                            spares := tabSet x.spares bank used }
  let layer := BitVec.ofNat 64 (bank / 16 % 64 / 4)
  let s1 := sendEvent (s0.setStack n y) 0x0016 0xFF 0xFF (BitVec.ofNat 64 (row * 1024)) 0 0
  let s2 := if used = 48 then sendEvent s1 0x0017 0xFF 0xFF (BitVec.ofNat 64 n) layer 0 else s1
  if used = 64 then sendEvent s2 0x0018 0xFF 0xFF (BitVec.ofNat 64 n) layer 0 else s2

/-- ROW_RETIRE (R464): the first row that is due. -/
def execRowRetire (s : State) : Res :=
  if s.mgmt.devState = .full then
    match (List.range 12).flatMap fun n => (rowsDue s n).map fun r => (n, r) with
    | (n, r) :: _ => .next (retireRow s n r)
    | [] => .next s
  else .next s

/-! ## Background work -/

/-- REFRESH_MANAGEMENT (R466): it changes no value and no order. -/
def execRefreshManagement (s : State) : Res := .next s

/-- PHY_CALIBRATION (R466): it changes no value and no order. -/
def execPhyCalibration (s : State) : Res := .next s

/-- TELEMETRY_SAMPLE (R26, R466): the hottest junction of a die. -/
def execTelemetrySample (d : Nat) (tj : BitVec 8) (s : State) : Res :=
  if d < 8 then .next (s.setDie d { s.die d with tj := tj }) else .fault .noSuchUnit

/-! ## Event counters -/

/-- Sources whose counts depend on timing, caches or links (R467, R468): the model leaves their counts free.
DEDUCED (log 37), safe. -/
def timedSource (src : Nat) : Bool :=
  [1, 8, 9, 10, 11].contains src || (decide (0x40 ≤ src) && decide (src ≤ 0x48))

/-- A counter of the kind of its key accepts a source (R467, R468). -/
def kindAccepts (key src : Nat) : Bool := decide (4864 ≤ key) || decide (src < 0x40)

/-- What a counter holds now: its count, or a free value while it counts a timed source. -/
def counterNow (s : State) (key : Nat) : DWord :=
  let c := tabGetD s.counters key {}
  if c.en && timedSource c.src.toNat && kindAccepts key c.src.toNat then Config.timingEvents key c.src.toNat s.fresh
  else c.count

/-- Key of the counter that EVRD names on a core (R467, R469). -/
def evrdKey (core : Nat) (die : Bool) (n : Nat) : Nat :=
  if die then 4864 + 64 * Config.dieOfCore core + n else 16 * core + n

/-- EVRD (R469). DEDUCED (log 37), unsafe. -/
def execEvrd (d : BitVec 7) (w : BitVec 1) (h : BitVec 1) (e : BitVec 1) (n : BitVec 6) (s : State) : Res :=
  onThreads s .base .yes ([(3, decide (e = 0) && decide (16 ≤ n.toNat))] ++ dstChecks s d w false ++
      hintChecks s.lead false false true) fun s =>
    let key := evrdKey (coreOfG s.leadGroup) (decide (e = 1)) n.toNat
    let v := counterNow s key
    let half := if h = 1 then v >>> 32 else v &&& 0xFFFFFFFF
    let x : DWord := if (tabGetD s.counters key {}).usr then half else 0
    giveResult { s with fresh := s.fresh + 1 } d w false (fun _ _ => x) .full

/-! ## Bring-up -/

/-- The bytes of a number, lowest first (R3). -/
def bytesOf (n v : Nat) : List Byte := (List.range n).map fun i => BitVec.ofNat 8 (v / 2 ^ (8 * i))

/-- MEAS extended by one item's digest (R474). -/
def extendMeas (m digest : BitVec 256) : BitVec 256 := Config.sha3 (bytesOf 32 m.toNat ++ bytesOf 32 digest.toNat)

/-- MEAS after the firmware stages of a reset and the dies' descriptors (R474). DEDUCED (log 38), unsafe. -/
def measured (boot : Nat) : BitVec 256 :=
  let stages := (List.range Config.firmwareStages).map (Config.firmwareDigest boot)
  let dies := (List.range 8).map fun d => Config.sha3 (bytesOf 16 (dgdescOf d))
  (stages ++ dies).foldl extendMeas 0

/-- DEVICE_RESET (R470, R473): every register is at its reset value; the ROM verifies the firmware. -/
def execDeviceReset (s : State) : Res :=
  let r := State.reset
  .next { r with
    mgmt := { r.mgmt with devState := if Config.firmwareAccepted s.mgmt.boots then .reset else .failed
                          boots := s.mgmt.boots + 1
                          attest := { r.mgmt.attest with meas := measured s.mgmt.boots } }
    weak := s.weak, upsets := s.upsets, cells := s.cells, turns := s.turns, fresh := s.fresh, tick := s.tick }

/-- The result of a die's self-test among those listed: a die that is not listed passes with every core. -/
def testOf (l : List (Nat × BitVec 40 × Option Nat)) (d : Nat) : BitVec 40 × Option Nat :=
  match l.find? fun e => e.1 == d with
  | some e => e.2
  | none => (0, none)

/-- BRING_UP_START (R470): the CD6 dies' self-tests have ended and their vaults are cleared. -/
def execBringUpStart (dies : List (Nat × BitVec 40 × Option Nat)) (s : State) : Res :=
  if s.mgmt.devState = .reset ∧ s.mgmt.boots ≠ 0 then
    let s1 := [6, 7].foldl (fun s d => clearVaults (selfTested s d (testOf dies d).1 (testOf dies d).2) d) s
    .next { s1 with mgmt := { s1.mgmt with devState := .bringUp } }
  else .next s

/-- Stacks that pass training come into service (R472). -/
def trainStack (trained : BitVec 12) (n : Nat) (x : Stack) : Stack :=
  if trained.getLsbD n then { x with cap := 16, layOff := 0 } else x

/-- FULL_SERVICE (R472): HBM training and the CD7 dies' self-tests have ended. -/
def execFullService (trained : BitVec 12) (dies : List (Nat × BitVec 40 × Option Nat)) (s : State) : Res :=
  if s.mgmt.devState = .bringUp then
    let waiting := (List.range 6).filter fun d => (s.die d).st == 0
    let s1 := waiting.foldl (fun s d => selfTested s d (testOf dies d).1 (testOf dies d).2) s
    let hbm := s1.mgmt.hbm.zipIdx.map fun e => trainStack trained e.2 e.1
    .next (sendEvent { s1 with mgmt := { s1.mgmt with hbm := hbm, devState := .full } } 0x0019 0xFF 0xFF 0 0 0)
  else .next s

/-! ## Attestation -/

/-- DEVSTATE as a number (R470). -/
def DevState.code : DevState → Nat
  | .reset => 0 | .bringUp => 1 | .full => 2 | .failed => 3

/-- ATTEST_SIGN (R474): a write of AGO. -/
def execAttestSign (s : State) : Res :=
  let x := s.mgmt.attest
  if x.go then .next s
  else if x.nonce = 0 then .next { s with mgmt := { s.mgmt with attest := { x with err := true } } }
  else
    let digest := Config.sha3 (bytesOf 32 x.nonce.toNat ++ bytesOf 32 x.meas.toNat ++ bytesOf 16 Config.serialNumber.toNat ++
      bytesOf 4 s.mgmt.devState.code)
    .next { s with mgmt := { s.mgmt with attest := { x with go := true, err := false, digest := digest } } }

/-- ATTEST_SIGN_DONE (R474). -/
def execAttestSignDone (s : State) : Res :=
  let x := s.mgmt.attest
  if x.go then .next { s with mgmt := { s.mgmt with attest := { x with go := false, nonce := 0, sig := some x.digest } } }
  else .next s

end Sys2Proof.Machine
end

