-- ==== Sys2Proof/Machine/Image.lean ====
section
/-! DEFINITION. Block images (R429 to R433): their layout, the parts that a save writes, and what a restore reads back. An
image is a byte store of IMGSZ bytes. -/

namespace Sys2Proof.Machine

/-! ## Layout -/

/-- GSZ of R430. -/
def Launch.gsz (r : Launch) : Nat := 2560 + 128 * r.regMax
/-- NB of R430. -/
def Launch.nb (r : Launch) : Nat := roundUp (0x2000 + 16 * r.nBar) 256
/-- Offset of group g's part. -/
def Launch.grpAt (r : Launch) (g : Nat) : Nat := r.nb + g * r.gsz
/-- SH of R430. -/
def Launch.sh (r : Launch) : Nat := r.grpAt r.groups
/-- The Sideboard part is present in every rank of a cluster grid whose CD7 body has the attention bit (R430). -/
def Grid.sideBytes (g : Grid) : Nat := if g.launch.kind = 1 ∧ g.attention = true then 131584 else 0
/-- Offset of the Sideboard part. -/
def Launch.sideAt (r : Launch) : Nat := r.sh + r.sharedBytes
/-- IMGSZ (R430). -/
def Grid.imgSize (g : Grid) : Nat := roundUp (g.launch.sideAt + g.sideBytes) 4096
/-- NSLOT (R429); a grid without a save area has none. -/
def Grid.nSlot (g : Grid) : Nat :=
  if g.launch.save = 0 ∨ g.launch.saveLen < 4096 then 0 else min ((g.launch.saveLen - 4096) / g.imgSize) 510
/-- Address of slot i (R429). -/
def Grid.slotAddr (g : Grid) (i : Nat) : DWord := g.launch.save + BitVec.ofNat 64 (4096 + g.imgSize * i)

/-! ## Bytes of an image -/

/-- A part of an image: offset, length and value (R3). -/
structure Part where
  off : Nat
  len : Nat
  val : Nat
  deriving DecidableEq, Repr

/-- Lays parts into an image. -/
def layParts (m : Bytes) (l : List Part) : Bytes := l.foldl (fun m p => bytesSet m p.off p.len p.val) m

/-- A field of an image. -/
def imgAt (m : Bytes) (off n : Nat) : Nat := bytesAt m off n

/-- Copies listed bytes to other addresses. -/
def shiftBytes (l : Bytes) (lo n up : Nat) (m : Bytes) : Bytes :=
  (l.filter fun c => decide (lo ≤ c.1) && decide (c.1 < lo + n)).foldl (fun m c => byteSet m (c.1 - lo + up) c.2) m

/-- Writes `n` bytes of an image at a physical address. -/
def storeImage (s : State) (img : Bytes) (o pa n : Nat) : State :=
  clearPoison { s.written pa n with mem := shiftBytes img o n pa (bytesClear s.mem pa (pa + n)) } pa n

/-- Writes an image at a virtual address; a page fault stops it with its address (R434). -/
def writeImage (asid : BitVec 6) (img : Bytes) (va : Nat) : List (Nat × Nat) → State → State × Option DWord
  | [], s => (s, none)
  | p :: ps, s =>
    match translate s asid (BitVec.ofNat 64 p.1) .store with
    | .error _ => (s, some (BitVec.ofNat 64 p.1))
    | .ok pa => writeImage asid img va ps (storeImage s img (p.1 - va) pa p.2)

/-- Reads the pieces of an image; a page fault stops it (R435). -/
def readImagePieces (s : State) (asid : BitVec 6) (va : Nat) : List (Nat × Nat) → Bytes → Option Bytes
  | [], m => some m
  | p :: ps, m =>
    match translate s asid (BitVec.ofNat 64 p.1) .load with
    | .error _ => none
    | .ok pa => readImagePieces s asid va ps (shiftBytes s.mem pa p.2 (p.1 - va) m)

/-- Reads an image of `n` bytes at a virtual address. -/
def readImage (s : State) (asid : BitVec 6) (va : DWord) (n : Nat) : Option Bytes :=
  readImagePieces s asid va.toNat (pagePieces va.toNat n) []

/-! ## LIVE descriptors -/

/-- The word at an address of a block's code, where it can be fetched. -/
def codeWord (s : State) (asid : BitVec 6) (pc : DWord) : Option Nat :=
  match readVirt s asid pc .fetch 4 with
  | .ok w => some w
  | .error _ => none

/-- Opcode of a word. -/
def opcodeOf (w : Nat) : Nat := w / 2 ^ 24 % 256

/-- Opcodes of hint words (R151 to R161). -/
def hintOpcode (op : Nat) : Bool := decide (0xE0 ≤ op) && decide (op ≤ 0xE7)

/-- The hint words that stand from an address, and the address of the instruction behind them. -/
def hintsAhead (s : State) (asid : BitVec 6) : Nat → DWord → List (DWord × Nat) × DWord
  | 0, pc => ([], pc)
  | n + 1, pc =>
    match codeWord s asid pc with
    | none => ([], pc)
    | some w =>
      if hintOpcode (opcodeOf w) then
        let r := hintsAhead s asid n (pc + 4)
        ((pc, w) :: r.1, r.2)
      else ([], pc)

/-- The instruction that ends the hint group at an address. -/
def targetAt (s : State) (asid : BitVec 6) (pc : DWord) : DWord := (hintsAhead s asid 8 pc).2

/-- A LIVE descriptor (R157): VMASK and PMASK. -/
structure LiveDesc where
  vmask : BitVec 96
  pmask : BitVec 64
  deriving DecidableEq, Repr

/-- The valid descriptor at an address, if it is one (R157), in the code of a grid's body on a die. -/
def descAt (s : State) (g : Grid) (d : Nat) (a : DWord) : Option LiveDesc :=
  let code := g.launch.codeFor d
  let len := if Config.isCd6 d then g.codeLen6 else g.codeLen7
  if a.toNat % 16 ≠ 0 ∨ a.toNat < code.toNat ∨ code.toNat + len < a.toNat + 48 then none
  else match readBig s g.asid a .load 48 with
  | .error _ => none
  | .ok x =>
    let vmask := bitsNat x 95 0
    if vmask / 2 ^ g.launch.regMax ≠ 0 ∨ 4 < bitsNat x 98 96 ∨ bitsNat x 127 99 ≠ 0 then none
    else some { vmask := BitVec.ofNat 96 vmask, pmask := BitVec.ofNat 64 (bitsNat x 191 128) }

/-- The valid descriptor at an address for a block. -/
def liveDesc (s : State) (b : Nat) (a : DWord) : Option LiveDesc := descAt s (s.gridOf b) (Config.dieOfCore (coreOfB b)) a

/-- The descriptor that the hint group at an address names. -/
def liveAt (s : State) (g : Grid) (d : Nat) (pc : DWord) : Option LiveDesc :=
  match (hintsAhead s g.asid 8 pc).1.find? fun e => opcodeOf e.2 == 0xE3 with
  | some (a, w) => descAt s g d (a + 4 * (BitVec.ofNat 24 w).signExtend 64)
  | none => none

/-! ## What a save writes -/

/-- The safe-point map's entries that a save consults for SAFE, as code addresses. -/
abbrev SafePoints := List DWord

/-- Where a thread stands: the first word of its hint group, or its program counter (R153). -/
def Thread.stands (t : Thread) : DWord := match t.hints with | some h => h.start | none => t.pc

/-- Span and its count as the fields SPN and SPG (R432). -/
def spanBits (sp : Option Span) : Nat := match sp with | some x => x.left % 16 + (if x.g then 16 else 0) | none => 0

/-- STATE, WVAL and WBAR of a thread (R432). -/
def waitFields (t : Thread) : Nat × Nat × Nat :=
  match t.wait with
  | .bar cl b ph => (1, ph, b + (if cl then 2 ^ 15 else 0))
  | .join _ m => (2, m.toNat, 0)
  | _ => match t.halt with
    | .cut _ => (4, 0, 0)
    | _ => (0, 0, 0)

/-- The thread record of R432. -/
def threadParts (base off : Nat) (t : Thread) : List Part :=
  let u := backToGroup t
  let w := waitFields t
  let restart := t.restart || t.halt == .restart
  let live := match t.halt with | .live _ => true | _ => false
  let bits := t.cd % 64 + spanBits u.span * 2 ^ 6 + spanBits t.rspan * 2 ^ 11 + w.1 * 2 ^ 16 +
    (if restart then 2 ^ 19 else 0) + (if live then 2 ^ 20 else 0)
  [⟨off, 8, t.stands.toNat⟩, ⟨off + 8, 8, t.rentry.toNat⟩, ⟨off + 0x10, 4, t.rcount.toNat⟩, ⟨off + 0x14, 4, t.gen.toNat⟩,
   ⟨off + 0x18, 4, t.rgen.toNat⟩, ⟨off + 0x1C, 4, t.upos - base⟩, ⟨off + 0x20, 4, bits⟩, ⟨off + 0x24, 4, t.steps.toNat⟩,
   ⟨off + 0x28, 4, w.2.1⟩, ⟨off + 0x2C, 4, w.2.2⟩]

/-- Registers of D and of the A range of a continuation, which are saved in full (R315). -/
def contRegs (c : Cont) : List Nat :=
  let o := mmaOfCont c
  (List.range 64).map (o.dreg + ·) ++ (List.range (16 * o.nkb)).map (o.areg + ·)

/-- Registers of a group that some live lane needs (R433). -/
def neededRows (s : State) (b g : Nat) : List Nat :=
  let x := s.group g
  let full := (s.liveOf g).any fun k => match (s.thread k).halt with | .live _ => false | _ => true
  let named := (s.liveOf g).filterMap fun k => match (s.thread k).halt with
    | .live d => liveDesc s b d
    | _ => none
  let cont := match x.cont with | some c => contRegs c | none => []
  (x.rows.map (·.1)).filter fun n => full || cont.contains n || named.any fun d => d.vmask.getLsbD n

/-- Group g's part (R432). DEDUCED (log 47), unsafe. -/
def groupParts (s : State) (b g off base : Nat) : List Part :=
  let x := s.group g
  let live := s.liveOf g
  let rows := neededRows s b g
  let head := [⟨off, 1, slotOfG g⟩, ⟨off + 4, 4, (laneMask (live.map laneOf)).toNat⟩,
    ⟨off + 8, 12, (rows.map fun n => 2 ^ n).foldl (· + ·) 0⟩, ⟨off + 0x14, 4, x.fstat.toNat⟩, ⟨off + 0x18, 1, x.nbm.toNat⟩,
    ⟨off + 0x20, 32, match x.cont with | some c => c.bytes | none => 0⟩,
    (⟨off + 0x40, 1, if x.cont.isSome then 1 else 0⟩ : Part)]
  let shadows := (rows.filter (· < 32)).flatMap fun n =>
    [⟨off + 0x100 + 8 * n, 4, wrapNat 32 (x.shadow n).lo⟩, (⟨off + 0x104 + 8 * n, 4, wrapNat 32 (x.shadow n).hi⟩ : Part)]
  let preds := live.map fun k => (⟨off + 0x200 + 8 * laneOf k, 8, (s.thread k).p.toNat⟩ : Part)
  let gone := (List.range 32).filter fun l => !(live.map laneOf).contains l
  let threads := live.flatMap (fun k => threadParts base (off + 0x300 + 48 * laneOf k) (s.thread k)) ++
    gone.map fun l => (⟨off + 0x300 + 48 * l + 0x20, 4, 3 * 2 ^ 16⟩ : Part)
  let regs := rows.flatMap fun n => live.map fun k =>
    (⟨off + 0xA00 + 128 * n + 4 * laneOf k, 4, ((s.thread k).reg n).toNat⟩ : Part)
  head ++ shadows ++ preds ++ threads ++ regs

/-- A barrier in its 16 bytes (R430). -/
def barParts (off : Nat) (x : Barrier) : List Part :=
  let c := match x.count with | some (some n) => n | _ => 0
  let f := match x.count with | none => 0 | some (some _) => 1 | some none => 3
  [⟨off, 4, x.phase⟩, ⟨off + 4, 4, x.arrivals⟩, ⟨off + 8, 4, c⟩, ⟨off + 12, 4, f⟩]

/-- An array register in the entry format of R48. -/
def arrayParts (off : Nat) (a : ArrayReg) : List Part :=
  [⟨off, 8, a.base.toNat⟩, ⟨off + 8, 4, a.extent.toNat⟩,
   ⟨off + 12, 4, a.esize.toNat + (if a.mode then 8 else 0) + a.pclass.toNat * 16⟩]

/-- A Cupboard entry in the format of R268. -/
def Tile.bits (t : Tile) : Nat :=
  (match t.state with | .empty => 0 | .filling => 1 | .ready => 2 | .draining => 3) + (if t.vault then 4 else 0) +
    t.offset.toNat * 2 ^ 8 + t.len.toNat * 2 ^ 24 + t.tid.toNat * 2 ^ 40

/-- What an entry of the queue has to give to a q register: its value, or what the contributions so far combine to (R234). -/
def DqEntry.value (e : DqEntry) : DWord :=
  match e.wq, e.kind with
  | some (_, some v), _ => v
  | some (_, none), .uget op w => combine op w e.contrib
  | _, _ => 0

/-- The register that an entry writes, in bits [11:4], with bit 12 where it is a q register (R430). -/
def DqEntry.target (e : DqEntry) : Nat :=
  match e.wq, e.wa, e.wk with
  | some (n, _), _, _ => n * 16 + 2 ^ 12
  | _, some (n, _), _ => n * 16
  | _, _, some (n, _) => n * 16
  | _, _, _ => 0

/-- An entry of the decision queue in its 32 bytes (R430); `more` counts the contributors still to come. -/
def queueParts (off more : Nat) (e : DqEntry) : List Part :=
  let w := e.target
  let v := e.value.toNat
  [⟨off, 8, e.addr.toNat⟩, ⟨off + 8, 4, (if e.taken then 1 else 0) + w⟩, ⟨off + 0x10, 8, v⟩, ⟨off + 0x18, 4, more⟩]

/-- Live threads of a block that have not yet passed the i-th entry of the queue. -/
def stillToPass (s : State) (b i : Nat) : Nat :=
  ((s.liveOfBlock b).filter fun k => decide ((s.thread k).upos ≤ (s.block b).dqBase + i)).length

/-- The entry that the Lectern waits for. -/
def Block.waitsAt (x : Block) : Option DqEntry :=
  match x.lect.wait with
  | .entry pos => x.dq[pos - x.dqBase]?
  | .none => none

/-- Where the Lectern stands (R430, R439): at the entry it waits for, or at the first word of its hint group. -/
def Block.lectStands (x : Block) : DWord :=
  match x.waitsAt with
  | some e => e.addr
  | none => match x.lect.hints with | some h => h.start | none => x.lect.pc

/-- Offset in an image of the round number, next rank, shape and mismatch of the Sideboard channel: its part holds the running partial
alone, which may fill it (R334, R335, R430). DESIGN CHOICE (log 52), unsafe. -/
def roundAt : Nat := 0x1420

/-- The Sideboard channel's numbers in an image. -/
def channelParts (c : Channel) : List Part :=
  [⟨roundAt, 4, c.round⟩, ⟨roundAt + 4, 4, c.nextRank⟩, ⟨roundAt + 8, 4, c.nr⟩, ⟨roundAt + 12, 4, c.dv⟩,
   ⟨roundAt + 16, 4, match c.mismatch with | some n => n + 1 | none => 0⟩]

/-- A body header of the launch record, read. -/
def bodyHeader (s : State) (g : Grid) (cd6 : Bool) : Nat :=
  let a := if cd6 then g.launch.body6 else g.launch.body7
  if a = 0 then 0 else (readHeader s g.asid a).getD 0

/-- The block header (R431). -/
def headerParts (s : State) (b kind : Nat) (safe : Bool) : List Part :=
  let x := s.block b
  let g := s.grid x.gid
  let d := Config.dieOfCore (coreOfB b)
  let h := bodyHeader s g (Config.isCd6 d)
  [⟨0, 4, x.num.toNat⟩, ⟨4, 1, fieldAt h 0 1⟩, ⟨5, 1, fieldAt h 1 1⟩, ⟨6, 1, kind + (if safe then 8 else 0)⟩, ⟨7, 1, x.rank⟩,
   ⟨8, 16, dgdescOf d⟩, ⟨0x18, 4, fieldAt h 0x10 4⟩, ⟨0x1C, 2, g.launch.groups⟩, ⟨0x20, 32, fieldAt h 0x40 32⟩]

/-- The committed value of a uniform register in an image: the committed q0 to q15, the Lectern's others (R175). -/
def imageQ (x : Block) (n : Nat) : Nat := (tabGetD (if n < 16 then x.q else x.lect.q) n 0).toNat

/-- The continuation block of the MMAT that a save has split, or 0 (R315, R316). -/
def Block.splitBytes (x : Block) : Nat :=
  match x.cmds.find? (·.split) with
  | some c => (mmatContOf c x.rank c.from_).bytes
  | none => 0

/-- The image of a block (R430 to R433). -/
def blockImage (s : State) (b kind : Nat) (safe : Bool) : Bytes :=
  let x := s.block b
  let g := s.grid x.gid
  let r := g.launch
  let cl : Cluster := match x.cluster with | some c => tabGetD s.clusters (clKey x.gid c) {} | none => {}
  let lect := [⟨0x700, 8, x.lectStands.toNat⟩, ⟨0x708, 4, x.dq.length⟩,
    (⟨0x70C, 4, (if x.lect.ended then 1 else 0) + (if x.waitsAt.isSome then 2 else 0)⟩ : Part)]
  let parts := headerParts s b kind safe ++
    (List.range 64).map (fun n => (⟨0x100 + 8 * n, 8, imageQ x n⟩ : Part)) ++
    (List.range 16).flatMap (fun n => arrayParts (0x300 + 16 * n) (tabGetD x.a n {})) ++
    (List.range 16).map (fun n => (⟨0x400 + 8 * n, 8, ((tabGet x.k n).getD 0).toNat⟩ : Part)) ++
    (List.range 64).map (fun n => (⟨0x500 + 8 * n, 8, (tabGetD x.tiles n {}).bits⟩ : Part)) ++ lect ++
    (x.dq.mapIdx fun i e => queueParts (0x800 + 32 * i) (stillToPass s b i) e).flatten ++
    (if x.rank = 0 then cl.bars.flatMap fun e => barParts (0x1000 + 16 * e.1) e.2 else []) ++
    [⟨0x1400, 32, x.splitBytes⟩] ++
    (x.bars.flatMap fun e => barParts (0x2000 + 16 * e.1) e.2) ++
    ((s.groupsOf b).flatMap fun k => groupParts s b k (r.grpAt (s.group k).num) x.dqBase) ++
    ((List.range r.groups).filter (fun n => !((s.groupsOf b).any fun k => (s.group k).num == n))).flatMap fun n =>
      (List.range 32).map fun l => (⟨r.grpAt n + 0x300 + 48 * l + 0x20, 4, 3 * 2 ^ 16⟩ : Part)
  let img := shiftBytes x.shared 0 r.sharedBytes r.sh (layParts [] parts)
  match cl.channel with
  | some c => if x.rank = 0 ∧ g.sideBytes ≠ 0
      then shiftBytes c.partialSum 0 131584 r.sideAt (layParts img (channelParts c)) else img
  | none => img

/-- The scratch slices of a block's live threads (R115). DEDUCED (log 45), unsafe. -/
def blockSlices (s : State) (b : Nat) : Bytes :=
  (s.liveOfBlock b).foldl (fun m k =>
    shiftBytes s.mem (sliceAddr (coreOfG (grpOf k)) (slotOfG (grpOf k)) (laneOf k)) 1024 (1024 * (s.thread k).lin) m) []

/-- Where a vault tile's region begins in the vault, and its end (R268). -/
def Tile.vaultRange (t : Tile) : Nat × Nat := (256 * t.offset.toNat, 256 * (t.offset.toNat + t.len.toNat))

/-- The ready vault tiles of a block. -/
def Block.vaultTiles (x : Block) : List Tile := (x.tiles.map (·.2)).filter fun t => t.vault && t.state == .ready

/-- The bytes of a block's ready vault tiles, by their offset in the vault (R157, R271). DEDUCED (log 45), unsafe. -/
def blockVault (s : State) (b : Nat) : Bytes :=
  (s.block b).vaultTiles.foldl (fun m t => bytesSet m t.start t.bytes (readTile s b t 0 t.bytes)) []

/-- The bytes of a restored block's vault tiles, back in the vault of its core. -/
def restoreVault (s : State) (core : Nat) (x : Block) (kept : Bytes) : State :=
  x.vaultTiles.foldl (fun s t =>
    let lo := vaultAddr core t.vaultRange.1
    let n := t.vaultRange.2 - t.vaultRange.1
    clearPoison { s.written lo n with mem := shiftBytes kept t.vaultRange.1 n lo (bytesClear s.mem lo (lo + n)) } lo n) s

/-! ## What a restore reads -/

/-- A span from SPN and SPG. -/
def spanOf (x : Nat) : Option Span := if x % 16 = 0 then none else some { left := x % 16, g := bitNat x 4 }

/-- The thread of a lane from its record (R432), without its registers; `stays`: a trap holds it where it stands. -/
def threadOf (img : Bytes) (off lin now : Nat) (stays : Bool) : Option Thread :=
  let bits := imgAt img (off + 0x20) 4
  let st := bitsNat bits 18 16
  let pc : DWord := BitVec.ofNat 64 (imgAt img off 8)
  let wval := imgAt img (off + 0x28) 4
  let wbar := imgAt img (off + 0x2C) 4
  let t : Thread :=
    { lin := lin, pc := pc, cd := bitsNat bits 5 0, gen := BitVec.ofNat 32 (imgAt img (off + 0x14) 4)
      rentry := BitVec.ofNat 64 (imgAt img (off + 8) 8), rcount := BitVec.ofNat 32 (imgAt img (off + 0x10) 4)
      rgen := BitVec.ofNat 32 (imgAt img (off + 0x18) 4), rspan := spanOf (bitsNat bits 15 11)
      span := spanOf (bitsNat bits 10 6), upos := imgAt img (off + 0x1C) 4, steps := BitVec.ofNat 32 (imgAt img (off + 0x24) 4)
      wait := if st = 1 then .bar (bitNat wbar 15) (bitsNat wbar 9 0) wval
              else if st = 2 then .join pc (BitVec.ofNat 32 wval) else .none
      since := now }
  if st = 3 then none
  else if bitNat bits 19 then some (if stays then { t with restart := true } else toRegion t)
  else some t

/-- LIVEPT of a thread record. -/
def livePoint (img : Bytes) (off : Nat) : Bool := bitNat (imgAt img (off + 0x20) 4) 20

/-- Saved registers of the group part at an offset. -/
def savedRows (img : Bytes) (off : Nat) : List Nat :=
  let m := imgAt img (off + 8) 12
  (List.range 96).filter fun n => bitNat m n

/-- The MMA continuation of a group part. -/
def groupCont (img : Bytes) (off : Nat) : Option Cont :=
  if bitNat (imgAt img (off + 0x40) 1) 0 then some (contOf (imgAt img (off + 0x20) 32)).1 else none

/-- A lane's registers and predicates (R433): what it needed; a thread saved at a LIVE point keeps what its descriptor
names, and the ranges of a continuation. -/
def laneValues (img : Bytes) (off lane : Nat) (d : Option LiveDesc) (t : Thread) : Thread :=
  let cont := match groupCont img off with | some c => contRegs c | none => []
  let keeps := fun n : Nat => match d with
    | some x => x.vmask.getLsbD n || cont.contains n
    | none => true
  let put := fun (v : Tab Word) (n : Nat) => if keeps n
    then putReg v n false (BitVec.ofNat 64 (imgAt img (off + 0xA00 + 128 * n + 4 * lane) 4)) else v
  let p : BitVec 64 := BitVec.ofNat 64 (imgAt img (off + 0x200 + 8 * lane) 8)
  { t with v := (savedRows img off).foldl put [], p := (match d with | some x => p &&& x.pmask | none => p) ||| 1 }

/-- A group from its part (R432, R433): mapped rows are the saved ones; a restored shadow passes the check of R197, and
those of the others are full where a descriptor leaves them out. -/
def groupOf (img : Bytes) (off : Nat) (descs : List LiveDesc) (threads : List Thread) (x : Group) : Group :=
  let rows := savedRows img off
  let word := fun o => sextNat (imgAt img o 4) 32
  let sh := fun n : Nat =>
    if rows.contains n then
      fillIv (word (off + 0x100 + 8 * n)) (word (off + 0x104 + 8 * n)) (threads.map fun t => (t.reg n).toInt)
    else if descs.any fun d => !d.vmask.getLsbD n then Interval.full else {}
  { x with
    rows := rows.map fun n => (n, 0)
    shadows := (List.range 32).filterMap fun n => if sh n = {} then none else some (n, sh n)
    fstat := BitVec.ofNat 32 (imgAt img (off + 0x14) 4 % 64)
    nbm := BitVec.ofNat 2 (imgAt img (off + 0x18) 1)
    cont := groupCont img off }

/-- A barrier from its 16 bytes, with what the image leaves out. -/
def barOf (img : Bytes) (off : Nat) (x : Barrier) : Barrier :=
  let f := imgAt img (off + 12) 4
  { x with
    phase := imgAt img off 4, arrivals := imgAt img (off + 4) 4
    count := if !bitNat f 0 then none else if bitNat f 1 then some none else some (some (imgAt img (off + 8) 4)) }

/-- Barriers from an image. -/
def barsOf (img : Bytes) (off n : Nat) (kept : Tab Barrier) : Tab Barrier :=
  (List.range n).filterMap fun i =>
    let x := barOf img (off + 16 * i) (tabGetD kept i {})
    if x = {} then none else some (i, x)

/-- A Cupboard entry from its bits (R268). -/
def tileOf (x : Nat) : Tile :=
  { state := if x % 4 = 2 then .ready else .empty, vault := bitNat x 2, offset := BitVec.ofNat 16 (bitsNat x 23 8)
    len := BitVec.ofNat 16 (bitsNat x 39 24), tid := BitVec.ofNat 8 (bitsNat x 47 40) }

/-- Rows that the groups of an image need beyond their reservations (R113). -/
def imageGrown (r : Launch) (img : Bytes) : Nat :=
  ((List.range r.groups).map fun n => (savedRows img (r.grpAt n)).length - r.regBase).foldl (· + ·) 0

/-- Entries of the decision queue from an image; what it leaves out comes from the entries kept beside it, and where their
contributions do not combine to the image's value that value stands for them. -/
def queueOf (img : Bytes) (kept : List DqEntry) (target : DWord → DWord) : List DqEntry :=
  (List.range (min 64 (imgAt img 0x708 4))).map fun i =>
    let off := 0x800 + 32 * i
    let addr : DWord := BitVec.ofNat 64 (imgAt img off 8)
    let f := imgAt img (off + 8) 4
    let taken := bitNat f 0
    let old : DqEntry := kept.getD i { addr := addr, next := addr + 4 }
    let open_ := match old.wq with | some (_, none) => true | _ => false
    let v : DWord := BitVec.ofNat 64 (imgAt img (off + 0x10) 8)
    { old with
      contrib := if open_ && old.value != v then [(0, v)] else old.contrib
      addr := addr, taken := taken, next := if taken then target addr else addr + 4
      wq := if bitNat f 12 then some (bitsNat f 11 4, if open_ then none else some v)
            else none }

/-- The Sideboard channel from an image; `off` is its part's offset. -/
def channelOf (img : Bytes) (off : Nat) : Channel :=
  let mm := imgAt img (roundAt + 16) 4
  { round := imgAt img roundAt 4, nextRank := imgAt img (roundAt + 4) 4, nr := imgAt img (roundAt + 8) 4
    dv := imgAt img (roundAt + 12) 4, mismatch := if mm = 0 then none else some (mm - 1)
    partialSum := shiftBytes img off 131584 0 [] }

/-- Array registers from an image. -/
def arraysOf (img : Bytes) : Tab ArrayReg :=
  (List.range 16).filterMap fun n => (arrayOf (imgAt img (0x300 + 16 * n) 16)).map fun a => (n, a)

/-- Uniform registers from an image: zeros are not listed. -/
def uniformsOf (img : Bytes) : Tab DWord :=
  (List.range 64).filterMap fun n =>
    let x := imgAt img (0x100 + 8 * n) 8
    if x = 0 then none else some (n, BitVec.ofNat 64 x)

/-- Slab registers from an image: 0 stands for unbound. -/
def slabsOf (img : Bytes) : Tab DWord :=
  (List.range 16).filterMap fun n =>
    let x := imgAt img (0x400 + 8 * n) 8
    if x = 0 then none else some (n, BitVec.ofNat 64 x)

end Sys2Proof.Machine
end

