-- ==== Sys2Proof/Machine/Maps.lean ====
section
/-! DEFINITION. Kernel images, safe-point maps, and the translation of a block image from one body to another (R78, R79,
R80, R83, R84, R88, R92, R441). -/

namespace Sys2Proof.Machine

/-! ## Reading a kernel image -/

/-- A varint (R84): at most ten bytes, the fewest that hold the value; the value, which may pass 64 bits, and the next offset.
DESIGN CHOICE (log 70), unsafe. -/
def varint (raw len : Nat) : Nat → Nat → Nat → Nat → Option (Nat × Nat)
  | 0, _, _, _ => none
  | n + 1, pos, sh, acc =>
    if len ≤ pos then none
    else
      let b := raw / 256 ^ pos % 256
      let v := acc + b % 128 * 2 ^ sh
      if 128 ≤ b then varint raw len n (pos + 1) (sh + 7) v
      else if b = 0 ∧ sh ≠ 0 then none
      else some (v, pos + 1)

/-- A varint at an offset. -/
def varintAt (raw len pos : Nat) : Option (Nat × Nat) := varint raw len 10 pos 0 0

/-- Where a virtual register lies at a safe point (R92). -/
inductive Loc where
  | reg (b s : Nat)
  | pair (b s : Nat)
  | uni (n : Nat)
  | slot (o s : Nat)
  | const (z : Nat)
  | pred (b s : Nat)
  deriving DecidableEq, Repr

/-- A location record: the virtual register and its location. -/
structure LocRec where
  vreg : Nat
  loc : Loc
  deriving DecidableEq, Repr

/-- An entry of a safe-point map (R92). -/
structure MapEntry where
  off : Nat
  spid : Nat
  locs : List LocRec
  deriving DecidableEq, Repr

/-- The location of a kind with its operands, where R92 allows it for c copies; a uniform register beyond q63 is refused too.
DESIGN CHOICE (log 70), unsafe. -/
def locOfKind (c kind x y : Nat) : Option Loc :=
  let top := x + y * (c - 1)
  match kind with
  | 1 => if top ≤ 95 then some (.reg x y) else none
  | 2 => if x % 2 = 0 ∧ y % 2 = 0 ∧ top + 1 ≤ 95 then some (.pair x y) else none
  | 3 => if x < 64 then some (.uni x) else none
  | 4 => if top + 8 ≤ 768 then some (.slot x y) else none
  | 5 => some (.const x)
  | 6 => if 1 ≤ x ∧ top ≤ 63 then some (.pred x y) else none
  | _ => none

/-- One location record (R92): it and the next offset. -/
def locAt (raw len c nregs pos : Nat) : Option (LocRec × Nat) :=
  match varintAt raw len pos with
  | none => none
  | some (v, p1) =>
    if nregs ≤ v ∨ len ≤ p1 then none
    else
      let kind := raw / 256 ^ p1 % 256
      match varintAt raw len (p1 + 1) with
      | none => none
      | some (x, p2) =>
        if kind = 3 ∨ kind = 5 then (locOfKind c kind x 0).map fun l => (⟨v, l⟩, p2)
        else match varintAt raw len p2 with
        | none => none
        | some (y, p3) => (locOfKind c kind x y).map fun l => (⟨v, l⟩, p3)

/-- `n` location records. -/
def locsAt (raw len c nregs : Nat) : Nat → Nat → Option (List LocRec × Nat)
  | 0, pos => some ([], pos)
  | n + 1, pos =>
    match locAt raw len c nregs pos with
    | none => none
    | some (l, p) => (locsAt raw len c nregs n p).map fun r => (l :: r.1, r.2)

/-- `n` entries of a map, above the CODEOFF `low` (R92). -/
def entriesAt (raw len c nregs : Nat) : Nat → Nat → Option Nat → Option (List MapEntry)
  | 0, _, _ => some []
  | n + 1, pos, low =>
    if len < pos + 10 then none
    else
      let off := fieldAt raw pos 4
      match locsAt raw len c nregs (fieldAt raw (pos + 8) 2) (pos + 10) with
      | none => none
      | some (ls, p) =>
        let next := roundUp p 4
        if decide (len < next) || (match low with | some l => decide (off ≤ l) | none => false) then none
        else (entriesAt raw len c nregs n next (some off)).map fun r => ⟨off, fieldAt raw (pos + 4) 4, ls⟩ :: r

/-- A safe-point map of `len` bytes; a malformed one has no entries (R92). -/
def parseMap (raw len c nregs : Nat) : Option (List MapEntry) :=
  if len < 4 then none
  else match entriesAt raw len c nregs (min (fieldAt raw 0 4) len) 4 none with
  | none => none
  | some l => if fieldAt raw 0 4 ≤ len ∧ (l.map (·.spid)).eraseDups.length = l.length then some l else none

/-- Smallest power of two, from 2^i on, by which T falls to 1,024 or less (R88); the limit of R83 on T is not tested, and a T beyond
it takes the last one tried. DESIGN CHOICE (log 70), unsafe. -/
def coarsest (t : Nat) : Nat → Nat → Nat
  | 0, i => 2 ^ i
  | n + 1, i => if ceilDiv t (2 ^ i) ≤ 1024 then 2 ^ i else coarsest t n (i + 1)

/-- What translation needs of a kernel: its copies c, NVREG, and the map of each body (R78, R79, R83, R88). -/
structure KernelMaps where
  copies : Nat
  nvreg : Nat
  map7 : List MapEntry
  map6 : List MapEntry
  deriving DecidableEq, Repr

/-- Section entry i of the kernel image (R79): kind, kernel, offset, length. -/
def sectionAt (s : State) (g : Grid) (i : Nat) : Option (Nat × Nat × Nat × Nat) :=
  match readBig s g.asid (g.launch.image + BitVec.ofNat 64 (0x40 + 32 * i)) .load 32 with
  | .error _ => none
  | .ok x => some (fieldAt x 0 1, fieldAt x 2 2, fieldAt x 8 8, fieldAt x 16 8)

/-- Bytes of a section. -/
def sectionBytes (s : State) (g : Grid) (off len : Nat) : Option Nat :=
  match readBig s g.asid (g.launch.image + BitVec.ofNat 64 off) .load len with
  | .error _ => none
  | .ok x => some x

/-- The map section of a body: its number of MAPSECT, where the kernel image has it (R80). -/
def mapSection (s : State) (g : Grid) (header nsect : Nat) : Option (Nat × Nat × Nat) :=
  let i := fieldAt header 0x18 2
  if header = 0 ∨ i = 0xFFFF ∨ nsect ≤ i then none
  else match sectionAt s g i with
    | some (3, k, o, l) => some (k, o, l)
    | _ => none

/-- The maps of a grid's two bodies (R92, R441): a body without a map, or with a malformed one, has no entries. What cannot be
read of the kernel image counts as absent, and the limits of its header's fields and of the Cahel header's are not tested (R78, R79,
R83); the first Cahel section counts of the kernel that the CD7 body's map names, or else the CD6 body's.
DESIGN CHOICE (log 70), unsafe. -/
def kernelMaps (s : State) (g : Grid) : KernelMaps :=
  let nsect := match readBig s g.asid g.launch.image .load 64 with | .ok x => fieldAt x 6 2 | .error _ => 0
  if g.launch.image = 0 then ⟨1, 0, [], []⟩
  else
    let m7 := mapSection s g (bodyHeader s g false) nsect
    let m6 := mapSection s g (bodyHeader s g true) nsect
    let kernel := match m7, m6 with | some (k, _), _ => k | none, some (k, _) => k | _, _ => 0
    let cahel := (List.range nsect).findSome? fun i => match sectionAt s g i with
      | some (2, k, o, _) => if k = kernel then sectionBytes s g o 32 else none
      | _ => none
    -- without a Cahel section one copy, and no bound on register numbers
    let (c, nvreg, top) := match cahel with
      | none => (1, 2 ^ 70, 2 ^ 70)
      | some h =>
        (max (2 ^ (fieldAt h 2 1 % 4)) (coarsest (fieldAt h 4 2 * fieldAt h 6 2 * fieldAt h 8 2) 4 0),
          fieldAt h 0xC 4, fieldAt h 0xC 4 + fieldAt h 0x10 4)
    let parse := fun (m : Option (Nat × Nat × Nat)) => match m with
      | some (_, o, l) => ((sectionBytes s g o l).bind fun raw => parseMap raw l c top).getD []
      | none => []
    ⟨c, nvreg, parse m7, parse m6⟩

/-- The virtual register of some records is known by them to have 32 bits, or 64: one of its records names a register group, or a
pair group (R92). -/
def widthIn (l : List MapEntry) (vreg : Nat) : Option Bool :=
  (l.flatMap (·.locs)).findSome? fun x => if x.vreg != vreg then none else match x.loc with
    | .pair _ _ => some true
    | .reg _ _ => some false
    | _ => none

/-- A virtual register holds 32 bits at two entries of one SPID (R92): as their records say, or else those of the rest of the maps;
where none says it, 64. DESIGN CHOICE (log 70), unsafe. -/
def KernelMaps.narrow (m : KernelMaps) (e f : MapEntry) (vreg : Nat) : Bool :=
  ((widthIn [e, f] vreg).or (widthIn (m.map7 ++ m.map6) vreg)).getD true == false

/-- The map of the body for a kind of die. -/
def KernelMaps.of (m : KernelMaps) (cd6 : Bool) : List MapEntry := if cd6 then m.map6 else m.map7

/-- The body of a grid for a kind of die: its first code word. -/
def Grid.codeOf (g : Grid) (cd6 : Bool) : DWord := (if cd6 then g.launch.body6 else g.launch.body7) + 128

/-- The entry that stands at a code address. -/
def entryHere (l : List MapEntry) (code pc : DWord) : Option MapEntry := l.find? fun e => code + BitVec.ofNat 64 e.off == pc

/-- The entry whose hint group the instruction at an address ends (R441). -/
def entryEnding (s : State) (asid : BitVec 6) (l : List MapEntry) (code pc : DWord) : Option MapEntry :=
  l.find? fun e => targetAt s asid (code + BitVec.ofNat 64 e.off) == pc

/-! ## Translation -/

/-- The value of copy j of a location, from an image whose thread's part and lane are given (R92); a slot holds a predicate in its
low byte. -/
def readLoc (img slices : Bytes) (pred : Bool) (off lane lin j : Nat) : Loc → Nat
  | .reg b s => imgAt img (off + 0xA00 + 128 * (b + s * j) + 4 * lane) 4
  | .pair b s => imgAt img (off + 0xA00 + 128 * (b + s * j) + 4 * lane) 4 +
      2 ^ 32 * imgAt img (off + 0xA00 + 128 * (b + s * j + 1) + 4 * lane) 4
  | .uni n => imgAt img (0x100 + 8 * n) 8
  | .slot o s => bytesAt slices (1024 * lin + o + s * j) (if pred then 1 else 8)
  | .const z => wrapNat 64 (if z % 2 = 0 then (z / 2 : Int) else -(z / 2 : Int) - 1)
  | .pred b s => if bitNat (imgAt img (off + 0x200 + 8 * lane) 8) (b + s * j) then 1 else 0

/-- What a destination image gains: registers and predicates of one thread, uniform registers and slices of all. -/
structure Dest where
  img : Bytes
  slices : Bytes
  rows : Nat
  deriving DecidableEq, Repr

/-- Writes copy j of a location into a destination image (R92): a slot's bytes above the value become zero. -/
def writeLoc (d : Dest) (off lane lin j v : Nat) : Loc → Dest
  | .reg b s =>
    let n := b + s * j
    { d with img := bytesSet d.img (off + 0xA00 + 128 * n + 4 * lane) 4 v, rows := d.rows ||| 2 ^ n }
  | .pair b s =>
    let n := b + s * j
    { d with
      img := bytesSet (bytesSet d.img (off + 0xA00 + 128 * n + 4 * lane) 4 v) (off + 0xA00 + 128 * (n + 1) + 4 * lane) 4 (v / 2 ^ 32)
      rows := d.rows ||| 2 ^ n ||| 2 ^ (n + 1) }
  | .uni n => { d with img := bytesSet d.img (0x100 + 8 * n) 8 v }
  | .slot o s => { d with slices := bytesSet d.slices (1024 * lin + o + s * j) 8 v }
  | .const _ => d
  | .pred b s =>
    let p := imgAt d.img (off + 0x200 + 8 * lane) 8
    let bit := 2 ^ (b + s * j)
    let p1 := p - (if bitNat p (b + s * j) then bit else 0) + (if v % 2 = 1 then bit else 0)
    { d with img := bytesSet d.img (off + 0x200 + 8 * lane) 8 p1 }

/-- Translates one thread (R441): its values move from the records of e to those of f; its positions become those of f.
`wait`: the thread waits at a barrier, which ends the hint group. Of several records of one register in e the first is read, and
every one in f is written. DESIGN CHOICE (log 70), unsafe. -/
def translateThread (src slices : Bytes) (m : KernelMaps) (e f : MapEntry) (pc : DWord) (wait : Bool) (off lane lin : Nat) (d : Dest) :
    Dest :=
  let moved := f.locs.foldl (fun d l =>
    (List.range m.copies).foldl (fun d j =>
      let pred := decide (m.nvreg ≤ l.vreg)
      let v := match e.locs.find? fun x => x.vreg == l.vreg with
        | some x => readLoc src slices pred off lane lin j x.loc
        | none => 0
      writeLoc d off lane lin j (if pred then v % 2 else if m.narrow e f l.vreg then v % 2 ^ 32 else v) l.loc) d) d
  let t := off + 0x300 + 48 * lane
  let bits := imgAt src (t + 0x20) 4
  let keep := bitsNat bits 18 16 * 2 ^ 16
  let rentry : DWord := if wait then pc + 4 else pc
  { moved with
    img := layParts moved.img [⟨t, 8, pc.toNat⟩, ⟨t + 8, 8, rentry.toNat⟩, ⟨t + 0x18, 4, imgAt src (t + 0x14) 4⟩, ⟨t + 0x20, 4, keep⟩] }

/-- Clears a group's registers, predicates (but p0) and shadows before its records are written (R441). -/
def clearGroup (img : Bytes) (off gsz : Nat) : Bytes :=
  let m := bytesClear (bytesClear img (off + 0xA00) (off + gsz)) (off + 0x100) (off + 0x300)
  let full := (List.range 32).flatMap fun n =>
    [⟨off + 0x100 + 8 * n, 4, wrapNat 32 minI32⟩, (⟨off + 0x104 + 8 * n, 4, wrapNat 32 maxI32⟩ : Part)]
  let ones := (List.range 32).map fun l => (⟨off + 0x200 + 8 * l, 8, 1⟩ : Part)
  layParts m (full ++ ones)

/-- What translation works with: the state, the grid, its maps, and the kinds of the source and destination dies. -/
structure Move where
  s : State
  g : Grid
  m : KernelMaps
  src6 : Bool
  dst6 : Bool

/-- The destination entry of the same SPID. -/
def Move.same (x : Move) (e : MapEntry) : Option MapEntry := (x.m.of x.dst6).find? fun f => f.spid == e.spid

/-- The destination of a position that is a safe point. -/
def Move.point (x : Move) (pc : DWord) : Option (MapEntry × MapEntry × DWord) :=
  (entryHere (x.m.of x.src6) (x.g.codeOf x.src6) pc).bind fun e => (x.same e).map fun f =>
    (e, f, x.g.codeOf x.dst6 + BitVec.ofNat 64 f.off)

/-- The destination of an instruction that ends the hint group of a safe point. -/
def Move.ending (x : Move) (pc : DWord) : Option (MapEntry × MapEntry × DWord) :=
  (entryEnding x.s x.g.asid (x.m.of x.src6) (x.g.codeOf x.src6) pc).bind fun e => (x.same e).map fun f =>
    (e, f, targetAt x.s x.g.asid (x.g.codeOf x.dst6 + BitVec.ofNat 64 f.off))

/-- Translates the threads of one group's lanes. -/
def translateLanes (x : Move) (src slices : Bytes) (off grp : Nat) : List Nat → Dest → Option Dest
  | [], d => some d
  | l :: ls, d =>
    let t := off + 0x300 + 48 * l
    let st := bitsNat (imgAt src (t + 0x20) 4) 18 16
    if st = 3 then translateLanes x src slices off grp ls d
    else
      let pc : DWord := BitVec.ofNat 64 (imgAt src t 8)
      match (if st = 1 then x.ending pc else x.point pc) with
      | none => none
      | some (e, f, dest) =>
        translateLanes x src slices off grp ls
          (translateThread src slices x.m e f dest (st = 1) off l (32 * grp + l) d)

/-- Translates the groups named. -/
def translateGroups (x : Move) (src slices : Bytes) : List Nat → Dest → Option Dest
  | [], d => some d
  | n :: ns, d =>
    let off := x.g.launch.grpAt n
    match translateLanes x src slices off n (List.range 32)
        { d with img := clearGroup d.img off x.g.launch.gsz, rows := 0 } with
    | none => none
    | some d1 => translateGroups x src slices ns { d1 with img := bytesSet d1.img (off + 8) 12 d1.rows }

/-- Translates the addresses of the decision queue (R441). -/
def translateQueue (x : Move) (src : Bytes) : List Nat → Bytes → Option Bytes
  | [], m => some m
  | i :: is, m =>
    match x.ending (BitVec.ofNat 64 (imgAt src (0x800 + 32 * i) 8)) with
    | none => none
    | some (_, _, dest) => translateQueue x src is (bytesSet m (0x800 + 32 * i) 8 dest.toNat)

/-- Translates an image and its slices (R441), or none where an address has no entry. The Lectern of a stream that has
ended, or that waits at an entry, is placed with its instruction. -/
def translateImage (x : Move) (src slices : Bytes) : Option (Bytes × Bytes) :=
  match translateGroups x src slices (List.range x.g.launch.groups) ⟨src, slices, 0⟩ with
  | none => none
  | some d =>
    let pc : DWord := BitVec.ofNat 64 (imgAt src 0x700 8)
    let flags := imgAt src 0x70C 4
    let lect := if bitNat flags 0 then some 0
      else if bitNat flags 1 then (x.ending pc).map fun r => r.2.2.toNat
      else (x.point pc).map fun r => r.2.2.toNat
    match lect, translateQueue x src (List.range (min 64 (imgAt src 0x708 4))) d.img with
    | some l, some m => some (bytesSet m 0x700 8 l, d.slices)
    | _, _ => none

end Sys2Proof.Machine
end

