-- ==== Sys2Proof/Machine/Save.lean ====
section
/-! DEFINITION. Stopping a block for a save, and the save itself (R172, R179, R180, R315, R425 to R430, R434, R439, R442). -/

namespace Sys2Proof.Machine

/-! ## Where a thread stops -/

/-- A thread is not ready (R168): its next instruction was tried and could not issue, or its group's continuation comes first
(R318). -/
def notReadyNow (s : State) (k : Nat) (t : Thread) : Bool :=
  t.notReady || (s.group (grpOf k)).cont.isSome

/-- A thread stands where its next region begins (R410, R426). DEDUCED (log 22), unsafe. -/
def atRegionEntry (s : State) (b : Nat) (t : Thread) : Bool :=
  t.hints.isNone && t.wait == .none &&
    (t.pc == t.rentry || (hintsAhead s (s.asidOf b) 8 t.pc).1.any fun e => opcodeOf e.2 == 0xE5)

/-- The thread stopped at the position that it holds (R153). -/
def Thread.stopHere (t : Thread) : Thread := { backToGroup t with halt := .full }

/-- Whether a thread stops now for a pre-emption or the full save of a stopped block (R425, R426). -/
def preStop (s : State) (b k late : Nat) (t : Thread) : Option Thread :=
  if s.stopped (grpOf k) then some t.stopHere
  else if 2 ≤ late then some { t with halt := .restart, run := none }
  else if t.run.isSome then none
  else match (t.hints.bind (·.live)).filter fun d => (liveDesc s b d).isSome with
  | some d => some { t with halt := .live d }
  | none =>
    if t.wait != .none || notReadyNow s k t || (decide (1 ≤ late) && atRegionEntry s b t) then some t.stopHere else none

/-- The map of the body that a block runs, and its first code word. -/
def blockMap (s : State) (b : Nat) : List MapEntry × DWord :=
  let g := s.gridOf b
  let cd6 := Config.isCd6 (Config.dieOfCore (coreOfB b))
  ((kernelMaps s g).of cd6, g.codeOf cd6)

/-- A thread of a migrating unit stands at a safe point (R439). -/
def atSafePoint (s : State) (b : Nat) (map : List MapEntry × DWord) (t : Thread) : Bool :=
  match t.wait with
  | .bar _ _ _ => (entryEnding s (s.asidOf b) map.1 map.2 t.pc).isSome
  | .none => t.hints.isNone && t.run.isNone && (entryHere map.1 map.2 t.pc).isSome
  | _ => false

/-- Whether a thread stops now, by the kind of the save (R172, R179, R425, R436, R439). -/
def stopNow (s : State) (b k : Nat) (v : Saving) (map : List MapEntry × DWord) (t : Thread) : Option Thread :=
  if t.halt != .none then none
  else if v.kind = 1 then
    -- a broken run restarts at its region's entry
    some (if s.stopped (grpOf k) then t.stopHere
      else if t.run.isSome then { toRegion t with halt := .full } else t.stopHere)
  else if v.kind = 2 then (if s.stopped (grpOf k) then some t.stopHere else none)
  else if v.kind = 3 then
    (if !s.stopped (grpOf k) && atSafePoint s b map t then some { t with halt := .full } else none)
  else preStop s b k v.late t

/-- Stops the threads of a block that have reached the position where its save takes them. -/
def settleBlock (s : State) (b : Nat) : State :=
  match (s.block b).saving with
  | none => s
  | some v =>
    let map := if v.kind = 3 then blockMap s b else ([], 0)
    let ks := s.liveOfBlock b
    let go := fun (k : Nat) (t : Thread) => (stopNow s b k v map t).getD t
    let s1 := { s with threads := tabOver s.threads ks go }
    let c := s1.core (coreOfB b)
    let held := fun k : Nat => (s1.thread k).run.isSome && (s1.thread k).halt == .none
    s1.setCore (coreOfB b) { c with runs := c.runs.filter fun r => !(r.any fun k => ks.contains k && !held k) }

/-- Every block with a save in progress is settled. -/
def settleHolds (s : State) : State :=
  ((s.blocks.filter fun e => e.2.saving.isSome).map (·.1)).foldl settleBlock s

/-! ## When a unit is ready to be saved -/

/-- The blocks that are saved together: a cluster's, or one block (R427). -/
def unitBlocks (s : State) (b : Nat) : List Nat :=
  let x := s.block b
  match x.cluster with
  | some cl => sortBy (fun a c => decide ((s.block a).rank ≤ (s.block c).rank)) (s.blocksOfCluster x.gid cl)
  | none => [b]

/-- A command may stand in a saved block: it waits with SYNC, or is a withdrawn SBSEND (R335). DEDUCED (log 46), unsafe. -/
def Cmd.still (c : Cmd) : Bool := c.state == .sync || c.state == .withdrawn

/-- A save takes back the SBSENDs of a block whose partials have not been folded (R335, R427): they count no more (R376), and what
they held back completes (R295). -/
def withdrawSends (s : State) (b : Nat) : State :=
  let open_ := (s.block b).cmds.filter Cmd.sending
  let back := fun c : Cmd => if c.sending then { c with state := .withdrawn, counted := [], passed := c.counted ++ c.passed } else c
  let s1 := open_.foldl (fun s c => uncount s b c) s
  completeMoved (s1.modBlock b fun x => { x with cmds := x.cmds.map back }) b

/-- An MMAT in flight, which a save may split (R315). -/
def Cmd.splits (c : Cmd) : Bool := c.kind == .mmat && c.state == .moved

/-- Records that name a block of the list. -/
def unitRecords (s : State) (blks : List Nat) : List Rec := s.records.filter fun r => blks.any fun b => r.ofBlock (s.block b)

/-- The Lectern stands before its next uniform-stream instruction, at the first word of its hint group (R439, R441).
DEDUCED (log 54), unsafe. -/
def lectAtUniform (s : State) (b : Nat) : Bool :=
  match codeWord s (s.asidOf b) (targetAt s (s.asidOf b) (s.block b).lectStands) with
  | some w => uniformOpcode (opcodeOf w)
  | none => false

/-- The Lectern of a migrating block goes no further: its stream has ended, it waits or is stopped, or it stands before
its next uniform-stream instruction (R427, R439). -/
def lectSettled (s : State) (b : Nat) : Bool :=
  let l := (s.block b).lect
  l.ended || l.stuck || l.wait != .none || s.lectStopped b || lectAtUniform s b

/-- The threads and the Lectern of a block have stopped for its save (R427). -/
def blockStopped (s : State) (b kind : Nat) : Bool :=
  (s.liveOfBlock b).all (fun k => (s.thread k).halt != .none) && (kind != 3 || lectSettled s b)

/-- A block has settled for its save (R271, R295, R315, R359, R416, R427). -/
def blockQuiet (s : State) (b kind : Nat) : Bool :=
  let x := s.block b
  let gs := (s.groupsOf b).map s.group
  blockStopped s b kind &&
    gs.all (fun g => g.loads.isEmpty && g.atomics.isEmpty && g.nGather == 0 && g.nBank == 0 &&
      (kind != 3 || (g.mma.isNone && g.cont.isNone))) &&
    x.tiles.all (fun e => e.2.state != .filling && e.2.state != .draining) &&
    x.cmds.all (fun c => c.still || (kind != 3 && (c.splits || c.split))) &&
    !((s.core (coreOfB b)).hats.any fun h => h.ctx == b % 16)

/-- A unit is ready for its image to be written (R427, R443). -/
def unitReady (s : State) (blks : List Nat) : Bool :=
  !blks.isEmpty && blks.all (fun b => match (s.block b).saving with
    | some v => blockQuiet s b v.kind
    | none => false) &&
  (unitRecords s blks).all fun r => !r.inHandler && (blks.all fun b => ((s.block b).saving.map (·.kind)) != some 3)

/-- Every block of a unit has stopped for its save: the unfolded SBSENDs are withdrawn (R427). -/
def settleSends (s : State) (blks : List Nat) : State :=
  if blks.all fun b => match (s.block b).saving with
    | some v => blockStopped s b v.kind
    | none => false then blks.foldl withdrawSends s else s

/-! ## Splitting matrix commands -/

/-- The MMA of a group in flight stops after the k-block in progress, or completes (R315). DEDUCED (log 49), safe. -/
def splitMma (s : State) (g : Nat) : State :=
  match (s.group g).mma with
  | none => s
  | some r =>
    let n := r.stages.length
    let done := 1 + Config.splitPoint s.fresh % max n 1
    let s0 := { s with fresh := s.fresh + 1 }
    if n ≤ done then (landMma s0 g r).modGroup g fun x => { x with mma := none }
    else
      let part : MmaRun := { r with stages := r.stages.take done, lastA := false }
      let c : Cont := { r.cont with nextkb := r.cont.nextkb + BitVec.ofNat 8 done }
      (landMma s0 g part).modGroup g fun x => { x with mma := none, cont := some c }

/-- The MMAT of a block in flight stops after the k-block in progress, or completes (R315): the rest of it stays in the stream. -/
def splitMmat (s : State) (b : Nat) : State :=
  match mmatRunning s b with
  | none => s
  | some c =>
    let n := (mmatBlocks s b c.mmatOp).getD 0
    let stop := c.from_ + 1 + Config.splitPoint s.fresh % max (n - c.from_) 1
    let r := runMmat { s with fresh := s.fresh + 1 } b c.mmatOp (min stop n)
    let s1 := flagCounted r.1 b c (if r.2 then fInv else 0)
    if n ≤ stop then completeCmd s1 b c
    else modCmd s1 b c.pos fun c => { c with state := .ready, split := true, from_ := stop }

/-- Splits every matrix command of a unit. -/
def splitAll (s : State) (blks : List Nat) : State :=
  blks.foldl (fun s b => splitMmat ((s.groupsOf b).foldl splitMma s) b) s

/-! ## Slots -/

/-- Free slots of a save area, lowest first (R429), or the address whose read faulted. -/
def freeSlots (s : State) (g : Grid) : Except DWord (List Nat) :=
  (List.range g.nSlot).foldl (fun r i => match r with
    | .error a => .error a
    | .ok l => match readVirt s g.asid (g.launch.save + BitVec.ofNat 64 (0x10 + 8 * i)) .load 8 with
      | .error (a, _) => .error a
      | .ok x => .ok (if bitNat x 32 then l else l ++ [i])) (.ok [])

/-- Writes the numbers of a list of parts at addresses relative to SAVE, or, where one of them faults, none (R434). -/
def writeParts (g : Grid) (l : List Part) (s : State) : State × Option DWord :=
  let va := fun p : Part => g.launch.save + BitVec.ofNat 64 p.off
  let bad := l.findSome? fun p => match translateRange s g.asid (va p) .store p.len with
    | .error (a, _) => some a
    | .ok _ => none
  let put := fun (s : State) (p : Part) => match writeVirt s g.asid (va p) .store p.len p.val with
    | .error _ => s
    | .ok s1 => clearVirt s1 g.asid (va p) .store p.len
  match bad with
  | some a => (s, some a)
  | none => (l.foldl put s, none)

/-- The header's own fields (R429). -/
def saveHeader (g : Grid) : List Part := [⟨0, 4, 0x53564C47⟩, ⟨4, 2, 1⟩, ⟨6, 2, g.nSlot⟩, ⟨8, 4, g.imgSize⟩]

/-- Writes the images of blocks into their slots (R429, R434); a fault stops it with the block and the address. -/
def writeImages (g : Grid) : List (Nat × Nat × Bytes) → State → State × Option (Nat × DWord)
  | [], s => (s, none)
  | e :: es, s =>
    let va := (g.slotAddr e.2.1).toNat
    match writeImage g.asid e.2.2 va (pagePieces va g.imgSize) s with
    | (s1, some a) => (s1, some (e.1, a))
    | (s1, none) => writeImages g es s1

/-! ## Saving a unit -/

/-- Every thread and the Lectern of a block stand at safe points of its body's map (R431, R440). -/
def blockSafe (s : State) (b : Nat) : Bool :=
  let map := blockMap s b
  let x := s.block b
  let asid := s.asidOf b
  !map.1.isEmpty && ((s.liveOfBlock b).all fun k =>
    let t := s.thread k
    (match t.wait with
      | .bar _ _ _ => (entryEnding s asid map.1 map.2 t.pc).isSome
      | _ => (entryHere map.1 map.2 t.stands).isSome) && !t.restart && t.halt != .restart) &&
    (x.lect.ended || (if x.waitsAt.isSome then (entryEnding s asid map.1 map.2 x.lectStands).isSome
      else (entryHere map.1 map.2 x.lectStands).isSome))

/-- PSTAT and PCNT of the command in progress on a grid (R423). -/
def noteStat (s : State) (gid : Nat) (stat : BitVec 4) (n : Nat) : State :=
  let p := s.host.prectl
  if p.go && p.gid == gid then { s with host := { s.host with prectl := { p with stat := if stat = 0 then p.stat else stat, cnt := p.cnt + BitVec.ofNat 32 n } } }
  else s

/-- The save-fault event (R29, R434, R435). -/
def saveFault (s : State) (gid : Nat) (num : Word) (a : DWord) (restore : Bool) : State :=
  let job := (s.grid gid).launch.jobId
  sendEvent s 0x000A 0xFF 0xFF (BitVec.ofNat 64 (job.toNat + num.toNat * 2 ^ 32)) a (if restore then 1 else 0)

/-- The migration of a unit fails (R442): the groups that took the migrate trap raise the illegal-instruction trap with
reason 2, and every other stopped thread continues. -/
def failMigration (s : State) (m : Migration) : State :=
  let took := fun (s : State) (g : Nat) => (s.liveOf g).filter fun k => match (s.thread k).halt with
    | .migrate _ _ => true
    | _ => false
  let gs := m.trapped.filter fun g => !(took s g).isEmpty
  let lead := gs.map fun g => (g, took s g, match (s.thread ((took s g).headD 0)).halt with
    | .migrate pc w => (pc, w)
    | _ => (0, 0))
  let s1 := releaseBlocks { s with migrations := s.migrations.filter (· != m) } m.blks
  let s2 := lead.foldl (fun s (e : Nat × List Nat × DWord × Word) =>
    groupTrap s e.1 e.2.1 0x0008 false e.2.2.1 0 [e.2.2.2.setWidth 64, 2]) s1
  preDone (afterMigration s2 m.gid m.blks)

/-- A save is given up (R428, R434): the threads go on, a migration fails, and PSTAT says why for a pre-emption. -/
def abandonSave (s : State) (blks : List Nat) (kind : Nat) (stat : BitVec 4) : State :=
  if kind = 3 then
    match s.migrations.find? fun m => m.blks.any blks.contains with
    | some m => failMigration s m
    | none => releaseBlocks s blks
  else
    let s1 := releaseBlocks s blks
    let gid := (s.block (blks.headD 0)).gid
    preDone (if kind = 1 then s1 else noteStat s1 gid stat 0)

/-- What is kept of a saved block beside its image; the groups, by their numbers, that have passed a command still to be executed take
its flags, and count it no more (R376). -/
def savedOf (s : State) (b slot : Nat) (v : Saving) (img slices : Bytes) : Saved :=
  let x := s.block b
  let cl : Cluster := match x.cluster with | some c => tabGetD s.clusters (clKey x.gid c) {} | none => {}
  let num := fun slot : Nat => (s.group (gKey (coreOfB b) slot)).num
  { gid := x.gid, num := x.num, cluster := x.cluster, rank := x.rank, slot := slot
    die := Config.dieOfCore (coreOfB b), kind := v.kind, held := v.held, bars := x.bars, clBars := cl.bars, dq := x.dq
    base := x.dqBase, slices := slices
    cmds := x.cmds.map fun c => { c with counted := [], passed := (c.counted ++ c.passed).map num }
    vault := blockVault s b, grown := imageGrown (s.grid x.gid).launch img, started := x.started
    steps := (s.liveOfBlock b).map fun k => (s.thread k).steps.toNat
    ops := (s.groupsOf b).map fun g => ((s.group g).num, (s.group g).ops)
    taken := (x.tiles.filter fun e => e.2.taken != 0).map fun e => (e.1, e.2.taken)
    sent := x.sbSent, drawn := x.sbTaken, engineHb := x.engineHb
    view := (s.order.releaseAll .package ((s.liveOfBlock b).map (tidOf s))).2 }

/-- A saved block leaves its core: context, slots, rows and threads are freed (R117, R427). DEDUCED (log 51), unsafe. -/
def vacate (s : State) (b : Nat) : State :=
  let gs := s.groupsOf b
  let c := s.core (coreOfB b)
  let o := (s.order.releaseAll .package ((s.liveOfBlock b).map (tidOf s))).1
  let runs := c.runs.filter fun r => !(r.any fun k => gs.contains (grpOf k))
  { s with
    threads := tabKeep s.threads fun k _ => !gs.contains (grpOf k)
    groups := tabKeep s.groups fun g _ => !gs.contains g
    blocks := tabDrop s.blocks b
    cores := tabSet s.cores (coreOfB b) { c with runs := runs }
    order := o }

/-- The unit's blocks are saved: what is kept of them joins the saved blocks, and they leave their cores. -/
def finishSave (s : State) (l : List (Nat × Saved)) (kind : Nat) : State :=
  let blks := l.map (·.1)
  let s1 := { s with
    saved := s.saved ++ l.map (·.2)
    migrations := s.migrations.map fun m => if m.blks.any blks.contains then { m with saved := true, blks := [] } else m }
  let s2 := blks.foldl (fun s b => countCore (vacate s b) (coreOfB b) 15 1) s1
  let s3 := match l with
    | (_, x) :: _ => (match x.cluster with
      | some cl => { s2 with clusters := tabDrop s2.clusters (clKey x.gid cl) }
      | none => s2)
    | [] => s2
  preDone (if kind = 0 ∨ kind = 2 ∨ kind = 4 then noteStat s3 ((l.head?.map (·.2.gid)).getD 0) 0 l.length else s3)

/-- The images of a unit with what is kept beside them: for a migration already translated (R440, R441); none where the
migration fails (R442). -/
def unitImages (s : State) (blks : List Nat) (kind : Nat) : Option (List (Bytes × Bytes)) :=
  allSome (blks.map fun b =>
    let img := blockImage s b kind (kind = 3 || blockSafe s b)
    let slices := blockSlices s b
    if kind != 3 then some (img, slices)
    else if (s.block b).tiles.any fun e => e.2.vault && e.2.state != .empty then none
    else
      let cd6 := Config.isCd6 (Config.dieOfCore (coreOfB b))
      let g := s.gridOf b
      translateImage ⟨s, g, kernelMaps s g, cd6, !cd6⟩ img slices)

/-- Writes the images of a unit, then the header and the slots' entries (R427 to R434). The event of a fault names the block whose
image met it, or for the header the unit's first block. DESIGN CHOICE (log 71), unsafe. -/
def writeUnit (s : State) (blks slots : List Nat) (v : Saving) (imgs : List (Bytes × Bytes)) : State :=
  let gid := (s.block (blks.headD 0)).gid
  let g := s.grid gid
  let fault := fun (s : State) (b : Nat) (a : DWord) => saveFault (abandonSave s blks v.kind 1) gid (s.block b).num a false
  match writeImages g (List.zipWith (fun (b : Nat) (e : Nat × Bytes × Bytes) => (b, e.1, e.2.1)) blks (slots.zip imgs)) s with
  | (s1, some (b, a)) => fault s1 b a
  | (s1, none) =>
    let entry := fun (b i : Nat) =>
      (⟨0x10 + 8 * i, 8, (s.block b).num.toNat + 2 ^ 32 + v.kind * 2 ^ 33⟩ : Part)
    match writeParts g (saveHeader g ++ List.zipWith entry blks slots) s1 with
    | (s2, some a) => fault s2 (blks.headD 0) a
    | (s2, none) =>
      let kept := List.zipWith (fun (b : Nat) (e : Nat × Bytes × Bytes) => (b, savedOf s2 b e.1 v e.2.1 e.2.2)) blks (slots.zip imgs)
      finishSave s2 kept v.kind

/-- The save engine takes a unit that is ready, once it has found free slots (R427 to R434): its matrix commands are split first.
DESIGN CHOICE (log 71), unsafe. -/
def saveUnit (s : State) (blks : List Nat) (v : Saving) : State :=
  let b0 := blks.headD 0
  let gid := (s.block b0).gid
  match freeSlots s (s.grid gid) with
  | .error a => saveFault (abandonSave s blks v.kind 1) gid (s.block b0).num a false
  | .ok slots =>
    if slots.length < blks.length then abandonSave s blks v.kind 2
    else
      let s1 := splitAll s blks
      match unitImages s1 blks v.kind with
      | none => abandonSave s1 blks v.kind 0
      | some imgs => writeUnit s1 blks (slots.take blks.length) v imgs

/-- SAVE_IMAGE_WRITE (R427): the unit of a block, once it has settled. -/
def execSaveImageWrite (b : Nat) (s : State) : Res :=
  let s0 := settleHolds s
  let blks := unitBlocks s0 b
  let s1 := settleSends s0 blks
  match (s1.block b).saving with
  | some v => if (tabGet s1.blocks b).isSome && unitReady s1 blks then .next (saveUnit s1 blks v) else .next s1
  | none => .next s1

/-- MIGRATION_DEADLINE (R442, R443): a live thread has not reached a safe point, and no record names the unit. -/
def execMigrationDeadline (b : Nat) (s : State) : Res :=
  let s1 := settleHolds s
  match s1.migrations.find? fun m => m.blks.contains b with
  | none => .next s1
  | some m =>
    let late := (m.blks.flatMap s1.liveOfBlock).any fun k => (s1.thread k).halt == .none
    .next (if late && (unitRecords s1 m.blks).isEmpty then failMigration s1 m else s1)

/-! ## Allocation deadlock -/

/-- A thread is stalled on allocation (R178, R179): the pool lacks its rows, or another group that has waited longer takes the
next one. -/
def stalledNow (s : State) (k : Nat) : Bool :=
  let c := coreOfG (grpOf k)
  let longer := fun (since : Nat) => s.threads.any fun e => coreOfG (grpOf e.1) == c && grpOf e.1 != grpOf k &&
    (match e.2.stalled with | some (t, _) => decide (t < since) | none => false)
  match (s.thread k).notReady, (s.thread k).stalled with
  | true, some (since, n) => decide (poolFree s c < n) || longer since
  | _, _ => false

/-- A thread waits at a barrier or at a JOIN, or as at one (R179, R448): a group that has gathered at its TAIL or MMA waits for
something else (R450). -/
def waitsJoined (s : State) (k : Nat) : Bool :=
  match (s.thread k).wait with
  | .none => false
  | .whole _ => !gathered s (grpOf k)
  | _ => true

/-- An allocation deadlock holds on a core (R179); while a group is stopped no cycle counts toward it (R422). -/
def allocationStuck (s : State) (core : Nat) : Bool :=
  let ks := (blocksOnCore s core).flatMap s.liveOfBlock
  ks.any (stalledNow s) && ks.all fun k => !s.stopped (grpOf k) && (stalledNow s k || waitsJoined s k)

/-- The youngest block of a core (R179). -/
def youngest (s : State) (core : Nat) : Option Nat :=
  firstBy (fun b => [s.tick + 1 - (s.block b).placedAt, 16 - b % 16]) (blocksOnCore s core)

/-- Evicts a unit (R179): a save of kind 1 of its blocks; every thread stops at once. -/
def evict (s : State) (b : Nat) : State :=
  let blks := unitBlocks s b
  if blks.any fun x => (s.block x).saving.isSome then s
  else settleHolds (blks.foldl (fun s x => s.modBlock x fun y => { y with saving := some { kind := 1 } }) s)

/-- The allocation-deadlock traps of a lone block (R180). -/
def allocationTraps (s : State) (b : Nat) : State :=
  (s.groupsOf b).foldl (fun s' g =>
    match (s.liveOf g).filter (stalledNow s) with
    | [] => s'
    | k :: ks =>
      let pc := (s.thread k).pc
      let x := s.group g
      groupTrap s' g (k :: ks) 0x000C false pc 0
        [wordAtPc s b pc, BitVec.ofNat 64 x.rows.length, BitVec.ofNat 64 (s.regMaxOf g)]) s

/-- ALLOCATION_DEADLOCK (R179, R180). -/
def execAllocationDeadlock (core : Nat) (s : State) : Res :=
  if !allocationStuck s core then .next s
  else match youngest s core with
  | none => .next s
  | some b => .next (if (blocksOnCore s core).length = 1 then allocationTraps s b else evict s b)

end Sys2Proof.Machine
end

