-- ==== Sys2Proof/Machine/Traps.lean ====
section
/-! DEFINITION. Traps (R405 to R422): TRAP and BRK, undecodable words and fetch faults, the handler context with TRRD,
TRWR and TRET, the host's answers, and the poll of a full trap area. -/

namespace Sys2Proof.Machine

/-! ## TRAP and BRK -/

/-- A thread's region closed at the word after a trap, which ends its span (R156, R410, R411). -/
def Thread.closeNext (t : Thread) : Thread :=
  { t with rentry := t.pc + 4, rcount := t.rcount + 1, rgen := t.gen, rspan := none }

/-- TRAP (R421): the enabled lanes close their regions and trap; a disabled lane passes. -/
def execTrap (c : BitVec 16) (s : State) : Res :=
  onThreads s .base .no (hintChecks s.lead false false false) fun s =>
    if s.enabled.isEmpty then advanceNone s
    else
      let move := fun (_ : Nat) (t : Thread) => if t.enabled then t.closeNext else t.advance s.now false none
      bundleTrap { s with threads := tabOver s.threads s.members move } s.enabled 0x0001 true fun _ =>
        (0, [s.issue.word.setWidth 64, c.setWidth 64])

/-- BRK (R405, R422): the enabled lanes stop at the next word, and the debug stop is raised for the block. -/
def execBrk (s : State) : Res :=
  onThreads s .base .no (hintChecks s.lead false false false) fun s =>
    if s.enabled.isEmpty then advanceNone s
    else
      let ks := s.enabled
      let b := (s.group s.leadGroup).blk
      let slots := (ks.map fun k => slotOfG (grpOf k)).eraseDups
      let least := slots.foldl min 64
      let g := gKey (coreOfB b) least
      let mark := fun (_ : Nat) (t : Thread) => { t with brk := true }
      let pc := ((ks.find? fun k => grpOf k == g).map fun k => (s.thread k).pc).getD s.issue.pc
      let s1 := advanceNone s
      let s2 := { s1 with threads := tabOver s1.threads ks mark }
      let r := { recOf s b 0x0003 true with
        slot := least, grpNum := (s.group g).num, lanes := lanesIn ks g, pc := pc, block := true
        info := [s.issue.word.setWidth 64, BitVec.ofNat 64 (slots.foldl (fun n i => n + 2 ^ i) 0)] }
      writeRecord (blockStop s2 b) r

/-! ## Words that are no instruction, and fetch faults -/

/-- Opcodes that are illegal with reason 1 in the handler context, and those that are outside it (R417). -/
def barredInHandler (op : Nat) : Bool :=
  uniformOpcode op || (decide (0xA0 ≤ op) && decide (op ≤ 0xA3)) ||
    (decide (0xB5 ≤ op) && decide (op ≤ 0xBA)) || (decide (0x4A ≤ op) && decide (op ≤ 0x4F)) || op == 0x51 ||
    (decide (0xBC ≤ op) && decide (op ≤ 0xBF)) || op == 0x94 || op == 0x95 || op == 0xD0 || op == 0xD1
def handlerOpcode (op : Nat) : Bool := op == 0xD2 || op == 0xD3 || op == 0xD4

/-- The trap of a word that no entry of the manual allows (R149, R150), with the reason of the word's own fields. -/
def illegalWord (reason : Nat) (s : State) : Res :=
  let op := s.issue.word.toNat / 2 ^ 24
  if s.issue.agent = .lectern then
    if uniformOpcode op then .next (s.modBlock s.issueBlock fun b => { b with started := true, lect := { b.lect with stuck := true } })
    else .next (lectPass s)
  else match s.members with
  | [] => .next s
  | _ :: _ =>
    if reason < 2 then .next (illegal s s.members reason)
    else if (s.inHandler && barredInHandler op) || (!s.inHandler && handlerOpcode op) then .next (illegal s s.members 1)
    else
      let c := classOf op
      if !c.onDie (Config.dieOfCore (coreOfG s.leadGroup)) then
        if !s.inHandler && canMigrate (s.gridOf (s.group s.leadGroup).blk).launch c then .next (migrateTrap s c)
        else .next (illegal s s.members 2)
      else .next (illegal s s.members reason)

/-- The lowest reason of R150 that the fields of an undecodable word give. -/
def wordReason (w : Word) : Nat :=
  let op := w.toNat / 2 ^ 24
  if op = 0 ∨ op = 255 then 0
  else if !assignedOpcode op then 1
  else if badOperandField w then 4 else 3

/-- ILLEGAL_INSTRUCTION_WORD (R149). -/
def execIllegalInstructionWord (w : Word) (s : State) : Res :=
  illegalWord (wordReason w) { s with issue := { s.issue with word := w } }

/-- FETCH_FAULT (R135, R149 row 1, R173): a page fault of the bundle, or of the block at its Lectern. -/
def execFetchFault (s : State) : Res :=
  let r := BitVec.ofNat 64 (s.issue.fetchReason.getD 0)
  if s.issue.agent = .lectern then
    .next (blockTrap s s.issueBlock 0x0012 true s.issue.pc s.issue.pc [0, r, 3])
  else match s.members with
  | [] => .next s
  | ks => .next (bundleTrap s ks 0x0012 true fun _ => (s.issue.pc, [0, r, 3]))

/-! ## The handler context -/

/-- The record that a core's handler context works on (R416). -/
def currentRec (s : State) (core : Nat) : Option Rec :=
  s.records.find? fun r => r.inHandler && Config.globalCore r.die r.core == core

/-- The block that a record names, while it is resident. -/
def blockOfRec (s : State) (r : Rec) : Option Nat := (s.blocks.find? fun e => r.ofBlock e.2).map (·.1)

/-- Records that a core's handler context may take (R408, R416): written, not delivered to the host, its block resident. -/
def handlerQueue (s : State) (core : Nat) : List Rec :=
  sortBy (fun a b => decide (a.seq.getD 0 ≤ b.seq.getD 0)) (s.records.filter fun r =>
    r.seq.isSome && !r.host && !r.toHost && !r.inHandler && r.answer.isNone &&
      Config.globalCore r.die r.core == core && (blockOfRec s r).isSome)

/-- HANDLER_START (R416): the context starts at TRAPH, as it stands, with every register, shadow and predicate zero.
DESIGN CHOICE (log 75), unsafe. -/
def execHandlerStart (core : Nat) (s : State) : Res :=
  if Config.cores ≤ core then .fault .noSuchUnit
  else
    let c := s.core core
    match handlerQueue s core with
    | [] => .next s
    | r :: _ =>
      if c.handling then .next s
      else
        let b := (blockOfRec s r).getD 0
        let g := gKey core 64
        let h := (s.grid r.gid).launch.trapH
        let s1 := { s with
          records := s.records.map fun x => if x == r then { r with inHandler := true } else x
          groups := tabSet s.groups g { blk := b }
          threads := tabSet s.threads (tKey g 0) { pc := h, rentry := h, since := c.cycle } }
        .next (s1.setCore core { c with handling := true })

/-- The group that a record's SLOT names. -/
def slotGroup (r : Rec) : Nat := gKey (Config.globalCore r.die r.core) r.slot

/-- What TRRD reads (R418). -/
def trrdValue (s : State) (r : Rec) (kind : Nat) (hi : Bool) (sel : Nat) : Nat :=
  let g := slotGroup r
  let lane := bitsNat sel 12 8
  let k := tKey g lane
  let there := (tabGet s.threads k).isSome && !r.block
  let t := s.thread k
  let half := fun x : DWord => if hi then x.toNat / 2 ^ 32 else x.toNat % 2 ^ 32
  let n := sel % 128
  let m := sel % 32
  let sh := (s.group g).shadow m
  match kind with
  | 0 => if 128 ≤ sel then 0 else r.raw / 2 ^ (8 * (sel / 4 * 4)) % 2 ^ 32
  | 1 => if there && decide (n < s.regMaxOf g) then (t.reg n).toNat else 0
  | 2 => if m < s.regMaxOf g then wrapNat 32 (if bitNat sel 8 then sh.hi else sh.lo) else 0
  | 3 => if there then (if bitNat sel 0 then t.p.toNat / 2 ^ 32 else t.p.toNat % 2 ^ 32) else 0
  | 4 => if there then half t.pc else 0
  | 5 => if there then half t.rentry else 0
  | 6 => if there then t.rcount.toNat else 0
  | _ => (s.group g).fstat.toNat

/-- TRRD (R418). -/
def execTrrd (d : BitVec 7) (w : BitVec 1) (a : BitVec 8) (h : BitVec 1) (kind : BitVec 4) (s : State) : Res :=
  onThreads s .base .only ([(3, decide (8 ≤ kind.toNat) || (h = 1 && kind != 4 && kind != 5))] ++
      dstChecks s d w false ++ srcChecks s a false ++ hintChecks s.lead false false false) fun s =>
    let core := coreOfG s.leadGroup
    let value := fun k : Nat => match currentRec s core with
      | some r => trrdValue s r kind.toNat (h = 1) (srcValue s k (s.thread k) false (codeOf a)).toNat
      | none => 0
    let iv := hullOf (s.members.map fun k => sextNat (value k) 32)
    giveResult (useFields s [(a, false)]) d w false (fun k _ => BitVec.ofNat 64 (value k)) iv

/-- What TRWR writes (R419); a write to a lane without a live thread, or to n at or above REGMAX, is discarded. -/
def trwrState (s : State) (r : Rec) (kind sel : Nat) (v : Word) : State :=
  let g := slotGroup r
  let lane := bitsNat sel 12 8
  let k := tKey g lane
  let n := sel % 128
  match kind with
  | 1 =>
    if (tabGet s.threads k).isSome && decide (n < s.regMaxOf g) then
      let row := fun (x : Group) =>
        let mask := (tabGetD x.rows n 0) &&& ~~~laneMask [lane]
        { ((x.setShadow n ((x.shadow n).hull (.exact v.toInt))).clearTags n) with rows := tabSet x.rows n mask }
      (s.modThread k fun t => { t with v := putReg t.v n false (v.setWidth 64) }).modGroup g row
    else s
  | 3 =>
    if (tabGet s.threads k).isSome then
      let hi := bitNat sel 0
      let old : Nat → BitVec 64 → BitVec 64 := fun v p => BitVec.ofNat 64
        (if hi then p.toNat % 2 ^ 32 + v * 2 ^ 32 else p.toNat / 2 ^ 32 * 2 ^ 32 + v / 2 * 2 + 1)
      let clear := fun (x : Group) => { x with tags := x.tags.filter fun e => (decide (32 ≤ e.1)) != hi }
      (s.modThread k fun t => { t with p := old v.toNat t.p }).modGroup g clear
    else s
  | _ => s.modGroup g fun x => { x with fstat := (x.fstat &&& ~~~63) ||| (v &&& 63) }

/-- TRWR (R419). -/
def execTrwr (v : BitVec 7) (a : BitVec 8) (kind : BitVec 4) (s : State) : Res :=
  let data : BitVec 8 := (0 : BitVec 1) ++ v
  onThreads s .base .only ([(3, kind != 1 && kind != 3 && kind != 7)] ++ srcChecks s data false ++
      srcChecks s a false ++ hintChecks s.lead false false false) fun s =>
    match currentRec s (coreOfG s.leadGroup) with
    | none => advanceNone (useFields s [(a, false)])
    | some r =>
      let s1 := s.enabled.foldl (fun s' k =>
        trwrState s' r kind.toNat (srcValue s k (s.thread k) false (codeOf a)).toNat
          ((srcValue s k (s.thread k) false v.toNat).setWidth 32)) s
      advanceNone (useFields s1 [(a, false)])

/-! ## Answers -/

/-- Gives a record its answer (R414, R415): at once, or for a saved group or block at its restore; what waits for room in the area
is tried again (R52). -/
def giveAnswer (s : State) (r : Rec) (action : Nat) : State :=
  if (blockOfRec s r).isNone && (s.saved.any fun x => x.gid == r.gid && x.num == r.blkNum) then
    flushPending { s with records := s.records.map fun x => if x == r then { r with answer := some action } else x } (areaOf s r.gid)
  else answer s r action

/-- Passes a record to the host (R408, R414 action 3), with what the TRET releases (R420); what waits for room in the area is tried
again (R52). -/
def passToHost (s : State) (r : Rec) (v : View) : State :=
  let r' := { r with inHandler := false, toHost := true, hb := v }
  flushPending (trapEvent { s with records := s.records.map fun x => if x == r then r' else x } r' (r.seq.getD 0)) (areaOf s r.gid)

/-- The threads of the groups that a record names acquire a view (R415, R420). -/
def resumedAcquire (s : State) (r : Rec) (i : Inst) (v : View) : State :=
  { s with order := s.order.acquireAll i (((r.groups s).flatMap s.liveOf).map (tidOf s)) v }

/-- The threads that a host's answer resumes acquire what the host has acquired, and what the TRET released that passed the record to
it (R415, R420). -/
def hostResumes (s : State) (r : Rec) : State :=
  resumedAcquire (resumedAcquire s r .package s.host.view) r (.block r.gid r.blkNum.toNat) r.hb

/-- TRET (R420): it waits until the context's writes have completed, then answers the record, and the context ends; it is a release
at the block's instance, which the resumed threads acquire. A disabled TRET falls through. -/
def execTret (action : Nat) (s : State) : Res :=
  onThreads s .base .only (hintChecks s.lead false false false) fun s =>
    if s.enabled.isEmpty then advanceNone s
    else if !drained s s.leadGroup then s
    else
      let core := coreOfG s.leadGroup
      let k := s.members.headD 0
      let block := instOf s k 1
      let v := s.order.own block (tidOf s k)
      match currentRec s core with
      | none => endHandler s core
      | some r =>
        let s1 := endHandler { s with order := s.order.tick (tidOf s k) } core
        if action = 3 then passToHost s1 r v
        else
          let r1 := { r with inHandler := false }
          let s2 := { s1 with records := s1.records.map fun x => if x == r then r1 else x }
          answer (if action = 0 then resumedAcquire s2 r1 block v else s2) r1 action

def execTretResume (s : State) : Res := execTret 0 s
def execTretKill (s : State) : Res := execTret 1 s
def execTretKillgrid (s : State) : Res := execTret 2 s
def execTretHost (s : State) : Res := execTret 3 s

/-- A write of ACTION in TRACT of a die (R415): the record named by TAREA and TSEQ on that die is answered, or ERR is set.
DEDUCED (log 23), safe. -/
def tractAction (d action : Nat) (s : State) : Res :=
  if Config.dies ≤ d then .fault .noSuchUnit
  else hostWrite s <|
    let t := tabGetD s.host.tract d {}
    let hit := s.records.find? fun r => r.die == d && r.answer.isNone && (s.grid r.gid).launch.trapArea == t.area &&
      (match r.seq with | some n => BitVec.ofNat 64 (n + 1) == t.seq | none => false)
    let mark := fun (s : State) (e : Bool) =>
      { s with host := { s.host with tract := tabSet s.host.tract d { t with err := e } } }
    match hit with
    | none => .next (mark s true)
    | some r =>
      let s1 := if r.inHandler then endHandler s (Config.globalCore r.die r.core) else s
      let s2 := mark s1 false
      .next (giveAnswer (if action = 0 then hostResumes s2 r else s2) r action)

/-- TRACT_RESUME (R415). -/
def execTractResume (d : Nat) (s : State) : Res := tractAction d 0 s
/-- TRACT_KILL_GROUP (R415). -/
def execTractKillGroup (d : Nat) (s : State) : Res := tractAction d 1 s
/-- TRACT_KILL_GRID (R415). -/
def execTractKillGrid (d : Nat) (s : State) : Res := tractAction d 2 s

/-- TRAP_ACK_POLL (R52): ACK is read again for the area of record `n`, and pending records are written while there is
room. -/
def execTrapAckPoll (n : Nat) (s : State) : Res :=
  match s.records[n]? with
  | none => .next s
  | some r => .next (flushPending s (areaOf s r.gid))

end Sys2Proof.Machine
end

