-- ==== Sys2Proof/Machine/Restore.lean ====
section
/-! DEFINITION. Placing saved units: restores, translated images, refusals, continuations, and the placement of migrating
units (R318, R435, R440, R443, R444). -/

namespace Sys2Proof.Machine

/-! ## Refusals -/

/-- Opcodes that close a region (R309, R336, R359, R403, R411). -/
def closesRegion (op : Nat) : Bool :=
  uniformOpcode op || (decide (0xA0 ≤ op) && decide (op ≤ 0xA3)) || op == 0xAC || (decide (0xB5 ≤ op) && decide (op ≤ 0xB8)) ||
    op == 0xBA || (decide (0xBC ≤ op) && decide (op ≤ 0xC5)) || op == 0xC8 || op == 0xCA || op == 0xD0

/-- The target of a branch or a call by an offset (R221, R222); `lit` is the value of its LIT. -/
def branchTargets (pc : DWord) (lit : Option (BitVec 24)) (w : Nat) : List DWord :=
  let op := opcodeOf w
  if op = 0x48 ∨ op = 0x4A then [branchTarget pc none (BitVec.ofNat 16 w)]
  else if op = 0x50 ∨ op = 0x51 then [branchTarget pc (lit.or (some 0)) (BitVec.ofNat 16 w)]
  else []

/-- An instruction behind which no enabled thread goes on in code order: RET, TAIL, EXIT, and a branch on p0 (R145, R221, R224, R447,
R448). -/
def endsPath (w : Nat) : Bool :=
  let op := opcodeOf w
  op == 0x4C || op == 0x4E || op == 0x4F || ((op == 0x48 || op == 0x50) && bitsNat w 23 17 == 0)

/-- A place in a region: an address, the LIT ahead of it, the instructions that an open guard still covers, and whether it stands in
the hint group that begins the region. -/
structure PathPoint where
  pc : DWord
  lit : Option (BitVec 24) := none
  guarded : Nat := 0
  first : Bool := false
  deriving DecidableEq, Repr

/-- An operation whose class a die lacks stands in the region that begins at a code address (R444): in the words that its threads may
reach, up to the next REGION, a closing instruction, the end of their path or of the code. `todo` holds the places still to look
at. -/
def regionLacks (s : State) (asid : BitVec 6) (d : Nat) (code : DWord × Nat) : Nat → List PathPoint → List PathPoint → Bool
  | 0, _, _ => false
  | _ + 1, [], _ => false
  | n + 1, p :: rest, seen =>
    let inside := decide (code.1.toNat ≤ p.pc.toNat) && decide (p.pc.toNat < code.1.toNat + 4 * code.2)
    let more := fun (l : List PathPoint) => regionLacks s asid d code n (l ++ rest) (p :: seen)
    if !inside || seen.contains p then regionLacks s asid d code n rest seen
    else match codeWord s asid p.pc with
    | none => more []
    | some w =>
      let op := opcodeOf w
      if op = 0xE5 ∧ p.first = false then more []
      else if hintOpcode op then
        more [{ p with pc := p.pc + 4, lit := if op = 0xE0 then some (BitVec.ofNat 24 w) else p.lit
                       guarded := if op = 0xE2 then bitsNat w 16 14 + 1 else p.guarded }]
      else if !(classOf op).onDie d then true
      else if closesRegion op then more []
      else
        more ((branchTargets p.pc p.lit w).map (fun a => { pc := a }) ++
          (if endsPath w && p.guarded == 0 then [] else [{ pc := p.pc + 4, guarded := p.guarded - 1 }]))

/-- Code words of a body. -/
def codeWords (g : Grid) (cd6 : Bool) : Nat := (if cd6 then g.codeLen6 else g.codeLen7) / 4

/-- Live threads' positions in an image: STATE and PC. -/
def imagePositions (g : Grid) (img : Bytes) : List (Nat × DWord) :=
  (List.range g.launch.groups).flatMap fun n => (List.range 32).filterMap fun l =>
    let t := g.launch.grpAt n + 0x300 + 48 * l
    let st := bitsNat (imgAt img (t + 0x20) 4) 18 16
    if st = 3 then none else some (st, BitVec.ofNat 64 (imgAt img t 8))

/-- The body that an image was running, by its header (R444): whether it is a CD6 body. DEDUCED (log 53), unsafe. -/
def sourceBody (s : State) (g : Grid) (img : Bytes) : Option Bool :=
  let fits := fun cd6 : Bool =>
    let h := bodyHeader s g cd6
    h != 0 && fieldAt h 0x40 32 == imgAt img 0x20 32 && fieldAt h 0x10 4 == imgAt img 0x18 4 &&
      fieldAt h 0 1 == imgAt img 4 1
  if fits false then some false else if fits true then some true else none

/-- An image as the chosen die takes it (R435, R444): itself, its translation, or none where the restore is refused. -/
def imageFor (s : State) (g : Grid) (d kind : Nat) (img slices : Bytes) : Option (Bytes × Bytes) :=
  if imgAt img 8 16 = dgdescOf d ∨ kind = 3 then some (img, slices)
  else if !bitNat (imgAt img 6 1) 3 then none
  else match sourceBody s g img with
  | none => none
  | some src6 =>
    let dst6 := Config.isCd6 d
    let m := kernelMaps s g
    let x : Move := ⟨s, g, m, src6, dst6⟩
    if (m.of src6).isEmpty || (m.of dst6).isEmpty then none
    else if !Class.attention.onDie d &&
        (!(slabsOf img).isEmpty || (g.sideBytes != 0 && channelOf img g.launch.sideAt != {})) then none
    else if (imagePositions g img).any fun e => match (if e.1 = 1 then x.ending e.2 else x.point e.2) with
        | some (_, _, dest) =>
          regionLacks s g.asid d (g.codeOf dst6, codeWords g dst6) (64 * codeWords g dst6 + 64) [{ pc := dest, first := true }] []
        | none => false then none
    else translateImage x img slices

/-! ## Putting a block back -/

/-- The Lectern's registers: the committed ones under what the queue's entries write (R175). -/
def overlayQ (q : Tab DWord) (dq : List DqEntry) : Tab DWord :=
  dq.foldl (fun q e => match e.wq with | some (n, some v) => tabSet q n v | _ => q) q
def overlayA (a : Tab ArrayReg) (dq : List DqEntry) : Tab ArrayReg :=
  dq.foldl (fun a e => match e.wa with | some (n, v) => tabSet a n v | none => a) a
def overlayK (k : Tab DWord) (dq : List DqEntry) : Tab DWord :=
  dq.foldl (fun k e => match e.wk with | some (n, some v) => tabSet k n v | some (n, none) => tabDrop k n | none => k) k

/-- Where a taken BRU at an address leads. -/
def bruTarget (s : State) (asid : BitVec 6) (pc : DWord) : DWord :=
  match codeWord s asid pc with
  | some w => pc + 4 + 4 * (BitVec.ofNat 16 w).signExtend 64
  | none => pc + 4

/-- The commands of a restored block: those kept of it, with the new slots of the groups that have passed them, and its MMAT
continuation as the image has it (R315, R318); a continuation that only the image knows stands in no entry of the queue. -/
def commandsFrom (x : Saved) (img : Bytes) (slots : List Nat) : List Cmd :=
  let kept := x.cmds.map fun c => { c with passed := c.passed.filterMap fun n => slots[n]? }
  let raw := imgAt img 0x1400 32
  let cont := (contOf raw).1
  let again := fun c : Cmd =>
    { mmatCmdOf cont with word := cont.word, pc := cont.pc, state := .ready, split := true, matrix := true,
                          pos := c.pos, passed := c.passed, hb := c.hb }
  if raw = 0 then kept.filter fun c => !c.split
  else if kept.any (·.split) then kept.map fun c => if c.split then again c else c
  else again { (newCmd .mmat) with pos := 2 ^ 64 } :: kept

/-- A block from its image (R430, R435), in the slots given. -/
def blockFrom (s : State) (g : Grid) (x : Saved) (img : Bytes) (slots : List Nat) : Block :=
  let dq := queueOf img x.dq (bruTarget s g.asid)
  let q := uniformsOf img
  let a := arraysOf img
  let k := slabsOf img
  let pc : DWord := BitVec.ofNat 64 (imgAt img 0x700 8)
  let flags := imgAt img 0x70C 4
  let waiting := bitNat flags 1 && !dq.isEmpty
  let lect : Lectern :=
    { pc := if waiting then (dq.getLast?.map (·.next)).getD pc else pc, ended := bitNat flags 0
      wait := if waiting then .entry (x.base + dq.length - 1) else .none
      q := overlayQ q dq, a := overlayA a dq, k := overlayK k dq }
  { gid := x.gid, num := x.num, cluster := x.cluster, rank := x.rank, slots := slots, started := x.started, placedAt := s.tick
    q := q.filter fun e => e.1 < 16, a := a, k := k, shared := shiftBytes img g.launch.sh g.launch.sharedBytes 0 []
    tiles := (List.range 64).filterMap fun n =>
      let t := tileOf (imgAt img (0x500 + 8 * n) 8)
      if t = {} then none else some (n, { t with taken := tabGetD x.taken n 0 })
    bars := barsOf img 0x2000 g.launch.nBar x.bars, lect := lect, dq := dq, dqBase := x.base, cmds := commandsFrom x img slots
    sbSent := x.sent, sbTaken := x.drawn, engineHb := x.engineHb }

/-- Records that name the group of a number in a saved block. -/
def Saved.names (x : Saved) (grp : Nat) (r : Rec) : Bool :=
  r.gid == x.gid && r.blkNum == x.num && (if r.block then r.threads else r.grpNum == grp)

/-- The thread of a linear index from an image (R432, R433). -/
def threadFrom (s : State) (g : Grid) (x : Saved) (core : Nat) (img : Bytes) (lin : Nat) : Option Thread :=
  let off := g.launch.grpAt (lin / 32)
  let rec_ := off + 0x300 + 48 * (lin % 32)
  let stays := s.records.any (x.names (lin / 32))
  let d := if livePoint img rec_ then liveAt s g (Config.dieOfCore core) (BitVec.ofNat 64 (imgAt img rec_ 8)) else none
  (threadOf img rec_ lin (s.core core).cycle stays).map fun t =>
    laneValues img off (lin % 32) (if livePoint img rec_ then some (d.getD ⟨0, 0⟩) else none)
      { t with upos := t.upos + x.base }

/-- A group from an image (R432, R433), its counters at zero (R376, R435). `moved`: the image was translated, and every index
register takes the shadow full (R92, R197, R441). -/
def groupFrom (s : State) (g : Grid) (x : Saved) (core : Nat) (img : Bytes) (moved : Bool) (n : Nat) (y : Group) : Group :=
  let off := g.launch.grpAt n
  let lanes := (List.range 32).filterMap fun l => threadFrom s g x core img (32 * n + l)
  let recAt := fun l => off + 0x300 + 48 * l
  let descs := ((List.range 32).filter fun l => livePoint img (recAt l)).map fun l =>
    (liveAt s g (Config.dieOfCore core) (BitVec.ofNat 64 (imgAt img (recAt l) 8))).getD ⟨0, 0⟩
  let y1 := { groupOf img off descs lanes y with ops := tabGetD x.ops n [] }
  if moved then { y1 with shadows := (List.range 32).map fun i => (i, Interval.full) } else y1

/-- Records of a restored block name the place where it stands now (R415, R416). -/
def moveRecords (s : State) (b : Nat) : State :=
  let x := s.block b
  let core := coreOfB b
  let place := fun r : Rec => if r.ofBlock x
    then { r with die := Config.dieOfCore core, core := Config.coreInDie core, slot := x.slots.getD r.grpNum 0 } else r
  { s with records := s.records.map place }

/-- Answers given while a block was saved take effect (R415). -/
def applyAnswers (s : State) (b : Nat) : State :=
  let x := s.block b
  let go := fun (s : State) (r : Rec) => if r.answer = some 0 then hostResumes s r else s
  (s.records.filter fun r => r.ofBlock x && r.answer.isSome).foldl (fun s r =>
    if s.records.contains r then answer (go s r) r (r.answer.getD 0) else s) s

/-- Puts one block of a unit back on a core. -/
def restoreBlock (s : State) (x : Saved) (core : Nat) (img slices : Bytes) (moved : Bool) : State :=
  let g := s.grid x.gid
  let ctx := (lowestFree ((blocksOnCore s core).map (· % 16)) 16).headD 0
  let b := bKey core ctx
  let s1 := occupy s g.launch core (blockFrom s g x img) (threadFrom s g x core img) (groupFrom s g x core img moved)
  -- groups whose threads have all left hold no slot
  let s2 := { s1 with groups := tabKeep s1.groups fun k y => y.blk != b || !(s1.liveOf k).isEmpty }
  let put := fun (m : Bytes) (k : Nat) => shiftBytes slices (1024 * (s2.thread k).lin) 1024
    (sliceAddr (coreOfG (grpOf k)) (slotOfG (grpOf k)) (laneOf k)) m
  let s3 := { s2 with
    mem := (s2.liveOfBlock b).foldl put s2.mem
    order := s2.order.acquireAll .package ((s2.liveOfBlock b).map (tidOf s2)) x.view
    saved := s2.saved.filter (· != x) }
  let used := g.launch.save + BitVec.ofNat 64 (0x14 + 8 * x.slot)
  let clear := match readVirt s3 g.asid used .load 4 with
    | .ok v => (match writeClean (meets s3 g.asid .load [(used, 4)]) g.asid used .store 4 (v / 2 * 2) with | .ok s4 => s4 | .error _ => s3)
    | .error _ => s3
  let s5 := applyAnswers (moveRecords (restoreVault clear core (clear.block b) x.vault) b) b
  cutThreads s5 x.gid (s5.liveOfBlock b)

/-- A unit's next restore waits for POP 4. -/
def refuseUnit (s : State) (l : List Saved) : State :=
  { s with saved := s.saved.map fun x => if l.contains x then { x with refused := true } else x }

/-- A refused restore (R444): PSTAT is that of the host's last command, unless one on another grid is in progress; the event names the
first block whose image is refused. DESIGN CHOICE (log 71), unsafe. -/
def refusal (s : State) (gid : Nat) (num : Word) (l : List Saved) : State :=
  let p := s.host.prectl
  let s1 := if p.go && p.gid != gid then s else { s with host := { s.host with prectl := { p with stat := 4 } } }
  sendEvent (refuseUnit s1 l) 0x000E 0xFF 0xFF ((s.grid gid).launch.jobId.setWidth 64) (num.setWidth 64) 0

/-- The images of a unit, or the first block whose image cannot be read. -/
def unitRead (s : State) (g : Grid) (l : List Saved) : Except Saved (List (Saved × Bytes)) :=
  let read := fun (x : Saved) => readImage s g.asid (g.slotAddr x.slot) g.imgSize
  match l.find? fun x => (read x).isNone with
  | some x => .error x
  | none => .ok (l.map fun x => (x, (read x).getD []))

/-- The cluster of a restored unit: its barriers and its channel (R118, R435). -/
def restoreCluster (s : State) (g : Grid) (d : Nat) (l : List (Saved × Bytes × Bytes)) : State :=
  match l with
  | (x, img, _) :: _ =>
    match x.cluster with
    | none => s
    | some cl =>
      let c : Cluster :=
        { die := d
          bars := if x.rank = 0 then barsOf img 0x1000 64 x.clBars else x.clBars
          channel := if g.attention && !Config.isCd6 d then
              some (if x.rank = 0 then channelOf img g.launch.sideAt else {})
            else none }
      { s with clusters := tabSet s.clusters (clKey x.gid cl) c }
  | [] => s

/-- The restore of one image (R435, R444): as the chosen die takes it, and whether it is translated. -/
structure Ready where
  saved : Saved
  img : Bytes
  slices : Bytes
  moved : Bool
  deriving DecidableEq, Repr

/-- An image made ready for a die, or none where it is refused. -/
def readyFor (s : State) (g : Grid) (d : Nat) (e : Saved × Bytes) : Option Ready :=
  (imageFor s g d e.1.kind e.2 e.1.slices).map fun r =>
    { saved := e.1, img := r.1, slices := r.2, moved := e.1.kind = 3 || imgAt e.2 8 16 != dgdescOf d }

/-- A unit whose image needs more rows than its place was chosen for waits for a place with as many (R113). -/
def growUnit (s : State) (g : Grid) (l : List Ready) : Option State :=
  let more := fun e : Ready => decide (e.saved.grown < imageGrown g.launch e.img)
  if l.any more then
    let grow := fun x : Saved => match l.find? fun e => e.saved == x && more e with
      | some e => { x with grown := imageGrown g.launch e.img }
      | none => x
    some { s with saved := s.saved.map grow }
  else none

/-- Places a saved unit on the cores of a die (R435, R444). The event of a read fault names the block whose image met it.
DESIGN CHOICE (log 71), unsafe. -/
def restoreUnit (s : State) (l : List Saved) (d : Nat) (cores : List Nat) : State :=
  let gid := (l.head?.map (·.gid)).getD 0
  let g := s.grid gid
  match unitRead s g l with
  | .error x => saveFault (refuseUnit s l) x.gid x.num (g.slotAddr x.slot) true
  | .ok imgs =>
    match l.findSome? fun x => poisonVirt s g.asid (g.slotAddr x.slot) .load g.imgSize with
    | some pa => poisonKill s gid pa
    | none =>
      match imgs.find? fun e => (readyFor s g d e).isNone with
      | some e => refusal s gid e.1.num l
      | none =>
        let ready := imgs.filterMap (readyFor s g d)
        match growUnit s g ready with
        | some s1 => s1
        | none =>
          let s1 := restoreCluster s g d (ready.map fun e => (e.saved, e.img, e.slices))
          let put := fun (s : State) (e : Ready × Nat) => restoreBlock s e.1.saved e.2 e.1.img e.1.slices e.1.moved
          (ready.zip cores).foldl put (meets s1 g.asid .load (l.map fun x => (g.slotAddr x.slot, g.imgSize)))

/-! ## Continuations -/

/-- A group's continuation runs (R318): its command is in flight; or it faults, and the threads stay where they stand.
DEDUCED (log 50), unsafe. -/
def runCont (s0 : State) (g : Nat) : State :=
  match (s0.group g).cont with
  | none => s0
  | some c =>
    if s0.stopped g then s0 else
    let b := (s0.group g).blk
    let o := mmaOfCont c
    let s := { s0 with issue := { agent := .threads, core := coreOfG g, ctx := b % 16, pc := c.pc
                                  word := c.word, members := s0.liveOf g } }
    match mmaCheck s b (s0.liveOf g) o with
    | .wait => s0
    | .pass =>
      match mmaTilePoison s b o with
      | some pa => poisonKill s (s.block b).gid pa
      | none => reading s b (mmaReads s b o) .load (residueChecked (coreOfG g) fun s =>
          (beginMma s g b o).modGroup g fun x => { x with cont := none })
    | bad => { mmaTrap s (s.liveOf g) o bad with threads := s0.threads }

/-- Groups with a continuation that may run: a save of their block keeps it, but a migration stop waits for it (R315). -/
def contsDue (s : State) : List Nat :=
  (s.groups.filter fun e => e.2.cont.isSome && !s.stopped e.1 &&
    ((s.block e.2.blk).saving.all fun v => v.kind == 3)).map (·.1)

/-! ## The operations -/

/-- The saved unit that stands first at index n of the saved blocks. -/
def unitAt (s : State) (n : Nat) : Option (Cand × List Saved) :=
  (s.saved[n]?).map fun x => (.saved x.gid x.cluster x.num.toNat,
    sortBy (fun a b => decide (a.rank ≤ b.rank)) (savedUnit s x.gid x.cluster x.num.toNat))

/-- The dispatchers' next decision places this unit. -/
def placeOf (s : State) (n : Nat) : Option (List Saved × Nat × List Nat) :=
  match unitAt s n, nextPlacement s with
  | some (.saved g c _, l), some (.saved g' c' k', d, cores) =>
    if g = g' ∧ c = c' ∧ (l.any fun x => x.num.toNat == k') then some (l, d, cores) else none
  | _, _ => none

/-- RESTORE (R318, R435): continuations that are due run first; otherwise the saved unit of index n is placed. -/
def execRestore (n : Nat) (s : State) : Res :=
  match contsDue s with
  | g :: gs => .next ((g :: gs).foldl runCont s)
  | [] =>
    match placeOf s n with
    | none => .next s
    | some (l, d, cores) =>
      if (l.any fun x => x.kind == 3) then .next s
      else
        let s1 := restoreUnit s l d cores
        .next ((contsDue s1).foldl runCont s1)

/-- MIGRATION_PLACE (R440): the saved unit of the n-th migration starts on its new die. -/
def execMigrationPlace (n : Nat) (s : State) : Res :=
  match s.migrations[n]? with
  | none => .next s
  | some m =>
    let i := s.saved.findIdx fun x => x.gid == m.gid && x.kind == 3 && x.cluster == m.unit.1 &&
      (m.unit.1.isSome || x.num.toNat == m.unit.2)
    match placeOf s i with
    | none => .next s
    | some (l, d, cores) =>
      if !m.saved then .next s
      else
        let s1 := restoreUnit s l d cores
        if l.any s1.saved.contains || (s1.saved.any fun x => l.any fun y => y.gid == x.gid && y.num == x.num) ||
            (s1.grid m.gid).stage == .killed then .next s1
        else
          let s2 := { s1 with migrations := s1.migrations.filter (· != m) }
          let job := (s.grid m.gid).launch.jobId
          let unit := match m.unit.1 with | some c => c | none => m.unit.2
          let s3 := sendEvent s2 0x000D d (Config.coreInDie (cores.headD 0)) (job.setWidth 64) (BitVec.ofNat 64 unit)
            (BitVec.ofNat 64 (m.srcDie + 256 * d))
          let blks := (s3.blocksOf m.gid).filter fun b => l.any fun x => x.num == (s3.block b).num
          .next (preDone (applyLate s3 m.gid blks))

end Sys2Proof.Machine
end

