-- ==== Sys2Proof/Machine/Preempt.lean ====
section
/-! DEFINITION. The host's commands through PRECTL: pre-emption, cuts, release and resumption (R423 to R426, R436 to R438,
R443). -/

namespace Sys2Proof.Machine

/-! ## PRECTL -/

/-- The running or held grid that PJOB names (R423): the oldest one. DEDUCED (log 55), unsafe. -/
def jobGrid (s : State) (job : Word) : Option Nat :=
  (s.grids.find? fun e => e.2.launch.jobId == job && e.2.stage == .eligible &&
    (decide (0 < e.2.nextBlock) || e.2.hold != .none)).map (·.1)

/-- The command ends: PGO reads 0 and the event goes to the host (R423). -/
def endCommand (s : State) : State :=
  let p := s.host.prectl
  sendEvent { s with host := { s.host with prectl := { p with go := false } } } 0x000B 0xFF 0xFF
    (p.job.setWidth 64) (p.stat.setWidth 64) (p.cnt.setWidth 64)

/-- A command starts (R423): PGO is set, and `act` runs on the grid named; where there is none the command ends at once
with PERR. A command in progress is not disturbed. -/
def command (pop : Nat) (act : Nat → State → State) (s : State) : State :=
  let p := s.host.prectl
  if p.go then s
  else
    let found := jobGrid s p.job
    let q : Prectl := { p with pop := BitVec.ofNat 3 pop, go := true, err := found.isNone, stat := 0, cnt := 0, gid := found.getD 0 }
    let s1 := { s with host := { s.host with prectl := q } }
    match found with
    | none => endCommand s1
    | some gid => act gid s1

/-- The last attempts of a block's threads are forgotten: each tries again before it counts as not ready (R425). -/
def freshTries (s : State) (b : Nat) : State :=
  (s.liveOfBlock b).foldl (fun s k => s.modThread k fun t => { t with notReady := false }) s

/-- A block has an unanswered debug stop (R429 SKIND 4). -/
def debugStopped (s : State) (b : Nat) : Bool := s.records.any fun r => r.code == 3 && r.ofBlock (s.block b)

/-- The resident blocks of a grid's units that migrate (R443). -/
def movingBlocks (s : State) (gid : Nat) : List Nat := (s.migrations.filter fun m => m.gid == gid).flatMap (·.blks)

/-- Asks for a save of the resident blocks of a grid (R424), also of one whose eviction is under way; units that migrate are left
until they have moved (R443). -/
def askSave (gid : Nat) (held cut : Bool) (s : State) : State :=
  let ask := fun (s : State) (b : Nat) =>
    let kind := if cut then 2 else if debugStopped s b then 4 else 0
    let evicted := fun v : Saving => v.kind == 1
    (freshTries s b).modBlock b fun x =>
      if x.saving.all evicted then { x with saving := some { kind := kind, held := held } } else x
  ((s.blocksOf gid).filter fun b => !(movingBlocks s gid).contains b).foldl ask s

/-- POP 1 (R424). -/
def preemptRequeue (gid : Nat) (s : State) : State := preDone (askSave gid false false s)

/-- POP 2 (R424, R443): no further block is placed, and saved ones are held. -/
def preemptHold (gid : Nat) (s : State) : State :=
  let cut := (s.grid gid).hold == .cutDone
  let s1 := s.modGrid gid fun g => { g with hold := .hold }
  let s2 := askSave gid true cut s1
  preDone { s2 with saved := s2.saved.map fun x => if x.gid == gid then { x with held := true } else x }

/-- POP 3 (R436), of a grid that POP 2 holds too; on a grid that is cut already nothing is done. Units that migrate are left until
they have moved (R443). -/
def startCut (gid : Nat) (s : State) : State :=
  match (s.grid gid).hold with
  | .cut _ | .cutDone => endCommand s
  | h =>
    let s1 := s.modGrid gid fun g => { g with hold := .cut none, held := h == .hold }
    cutThreads s1 gid (((s1.blocksOf gid).filter fun b => !(movingBlocks s gid).contains b).flatMap s1.liveOfBlock)

/-- POP 4 (R424, R435): held blocks are requeued, refused restores are tried again, and placement goes on. -/
def releaseHold (gid : Nat) (s : State) : State :=
  let held := s.saved.filter fun x => x.gid == gid && (x.held || x.refused)
  let free := fun (x : Saved) => if x.gid == gid then { x with held := false, refused := false } else x
  let s1 := (noteStat s gid 0 held.length).modGrid gid fun g => { g with hold := if g.hold == .hold then .none else g.hold, held := false }
  endCommand { s1 with saved := s1.saved.map free }

/-- Threads that a cut stopped go on (R424, R438); what a POP 2 held before stays held. -/
def resumeCut (s : State) (gid : Nat) : State :=
  let free := fun (k : Nat) (t : Thread) => match t.halt with
    | .cut _ => { t with halt := .none, since := s.cycleOf k }
    | _ => t
  let s1 := s.modGrid gid fun g => { g with hold := if g.held then .hold else .none, held := false }
  (s1.blocksOf gid).foldl (fun s b => { s with threads := tabOver s.threads (s.liveOfBlock b) free }) s1

/-- POP 5 (R424): only a grid whose cut is complete. -/
def resumeFrom (gid : Nat) (s : State) : State :=
  if (s.grid gid).hold == .cutDone then endCommand (resumeCut (noteStat s gid 0 (s.blocksOf gid).length) gid)
  else endCommand s

/-- PREEMPT_REQUEUE (R424). -/
def execPreemptRequeue (s : State) : Res := hostWrite s (.next (command 1 preemptRequeue s))
/-- PREEMPT_HOLD (R424). -/
def execPreemptHold (s : State) : Res := hostWrite s (.next (command 2 preemptHold s))
/-- CUT (R436). -/
def execCut (s : State) : Res := hostWrite s (.next (command 3 startCut s))
/-- RELEASE_HELD (R424). -/
def execReleaseHeld (s : State) : Res := hostWrite s (.next (command 4 releaseHold s))
/-- RESUME_FROM_CUT (R424). -/
def execResumeFromCut (s : State) : Res := hostWrite s (.next (command 5 resumeFrom s))

/-- A write of POP with PGO set (R423): an invalid POP ends at once with PERR. -/
def popCommand (pop : Nat) (s : State) : State :=
  match pop with
  | 1 => command 1 preemptRequeue s
  | 2 => command 2 preemptHold s
  | 3 => command 3 startCut s
  | 4 => command 4 releaseHold s
  | 5 => command 5 resumeFrom s
  | n =>
    let p := s.host.prectl
    if p.go then s
    else endCommand { s with host := { s.host with prectl := { p with pop := BitVec.ofNat 3 n, err := true, stat := 0, cnt := 0 } } }

/-! ## Deadlines of a pre-emption -/

/-- DEADLINE passes for the blocks of a grid whose save has met `n` deadlines (R426). DEDUCED (log 48), unsafe. -/
def passDeadline (gid n : Nat) (s : State) : State :=
  let late := fun (s : State) (b : Nat) => s.modBlock b fun x => match x.saving with
    | some v => if (v.kind = 0 ∨ v.kind = 4) ∧ v.late = n then { x with saving := some { v with late := n + 1 } } else x
    | none => x
  settleHolds ((s.blocksOf gid).foldl late s)

/-- PREEMPT_DEADLINE (R426). -/
def execPreemptDeadline (gid : Nat) (s : State) : Res := .next (passDeadline gid 0 s)
/-- PREEMPT_RESTART_DEADLINE (R426). -/
def execPreemptRestartDeadline (gid : Nat) (s : State) : Res := .next (passDeadline gid 1 s)

/-! ## Cuts -/

/-- Live threads of a grid's resident blocks. -/
def gridThreads (s : State) (gid : Nat) : List Nat := (s.blocksOf gid).flatMap s.liveOfBlock

/-- A thread has stopped for a cut (R436, R438): at a boundary, or by a trap. -/
def cutStopped (s : State) (k : Nat) : Bool :=
  (match (s.thread k).halt with | .cut _ => true | _ => false) || s.stopped (grpOf k)

/-- STEPS of the live threads of a grid's saved units (R437). -/
def savedSteps (s : State) (gid : Nat) : List Nat := (s.saved.filter (·.gid == gid)).flatMap (·.steps)

/-- CUT_REDUCTION (R437): a unit of the grid that migrates is waited for (R443). -/
def execCutReduction (gid : Nat) (s : State) : Res :=
  let ks := gridThreads s gid
  if (s.grid gid).hold = .cut none ∧ ks.all (cutStopped s) = true ∧ !s.migrations.any (fun m => m.gid == gid) then
    let m := ((ks.map fun k => (s.thread k).steps.toNat) ++ savedSteps s gid).foldl max 0
    let go := fun (k : Nat) (t : Thread) => match t.halt with
      | .cut _ => if t.steps.toNat < m then { t with halt := .none, since := s.cycleOf k } else t
      | _ => t
    .next { s.modGrid gid fun g => { g with hold := .cut (some m) } with threads := tabOver s.threads ks go }
  else .next s

/-- A cut at M is complete (R437): with it stand the threads of saved units, which cannot advance before its end (R436). -/
def cutSettled (s : State) (gid m : Nat) : Bool :=
  let blks := s.blocksOf gid
  !s.migrations.any (fun m => m.gid == gid) && (gridThreads s gid).all (fun k => (match (s.thread k).halt with | .cut _ => true | _ => false) &&
    (s.thread k).steps.toNat == m) && (savedSteps s gid).all (· == m) &&
  (blks.flatMap s.groupsOf).all (fun g =>
    let x := s.group g
    x.nCopy + x.nMatrix + x.nGather + x.nBank + x.nColl == 0 && x.mma.isNone) &&
  blks.all (fun b => !((s.core (coreOfB b)).hats.any fun h => h.ctx == b % 16) && (mmatRunning s b).isNone &&
    !(s.records.any fun r => r.inHandler && r.ofBlock (s.block b)))

/-- CUT_COMPLETE (R437). -/
def execCutComplete (gid : Nat) (s : State) : Res :=
  match (s.grid gid).hold with
  | .cut (some m) =>
    if cutSettled s gid m then
      let g := s.grid gid
      let s1 := (noteStat s gid 0 (s.blocksOf gid).length).modGrid gid fun g => { g with hold := .cutDone }
      .next (endCommand (sendEvent s1 0x000C 0xFF 0xFF (g.launch.jobId.setWidth 64) (BitVec.ofNat 64 m) 0))
    else .next s
  | _ => .next s

/-- CUT_DEADLINE (R438): the cut fails and every stopped thread continues. -/
def execCutDeadline (gid : Nat) (s : State) : Res :=
  match (s.grid gid).hold with
  | .cut _ => .next (endCommand (resumeCut (noteStat s gid 3 0) gid))
  | _ =>
    -- the grid ended during its cut
    let p := s.host.prectl
    .next (if p.go && p.pop == 3 && p.gid == gid then endCommand (noteStat s gid 3 0) else s)

end Sys2Proof.Machine
end

