-- ==== Sys2Proof/Machine/Registers.lean ====
section
/-! DEFINITION. The control BAR (R25): what a write and a read of each of its words do. -/

namespace Sys2Proof.Machine

/-! ## Words of wider registers -/

/-- A double word with one of its words replaced. -/
def putWord (x : DWord) (hi : Bool) (v : Word) : DWord :=
  if hi then (x &&& 0xFFFFFFFF) ||| (v.setWidth 64 <<< 32) else (x &&& 0xFFFFFFFF00000000) ||| v.setWidth 64

/-- One word of a double word. -/
def halfOf (x : DWord) (hi : Bool) : Word := if hi then (x >>> 32).setWidth 32 else x.setWidth 32

/-- A physical address in bits [51:12] (R2: reserved bits read as zero). -/
def pageBits (x : DWord) : DWord := x &&& 0x000FFFFFFFFFF000

/-- A physical address in bits [51:0]. -/
def physBits (x : DWord) : DWord := x &&& 0x000FFFFFFFFFFFFF

/-! ## Writes by group of registers -/

/-- A word of queue q of die d (R95). -/
def writeQueue (d q o : Nat) (v : Word) (s : State) : Res :=
  let x := s.queue d q
  match o with
  | 0x00 => .next (s.setQueue d q { x with base := pageBits (putWord x.base false v) })
  | 0x04 => .next (s.setQueue d q { x with base := pageBits (putWord x.base true v) })
  | 0x08 => .next (s.setQueue d q { x with size := v.setWidth 5 })
  | 0x0C => execQueueEnable d q v s
  | 0x10 => execQtailDoorbell d q v s
  | _ => .next s

/-- A word of TRACT of die d (R415). -/
def writeTract (d o : Nat) (v : Word) (s : State) : Res :=
  let t := tabGetD s.host.tract d {}
  let put := fun t : Tract => .next { s with host := { s.host with tract := tabSet s.host.tract d t } }
  if t.busy then .next s
  else match o with
  | 0x00 => put { t with area := putWord t.area false v }
  | 0x04 => put { t with area := putWord t.area true v }
  | 0x08 => put { t with seq := putWord t.seq false v }
  | 0x0C => put { t with seq := putWord t.seq true v }
  | 0x10 => if v.toNat % 4 = 3 then .next s else tractAction d (v.toNat % 4) s
  | _ => .next s

/-- A word at offset o of die d's part (R26, R95, R123, R415). -/
def writeDiePart (d o : Nat) (v : Word) (s : State) : Res :=
  if s.mgmt.devState = .failed ∧ ¬(0x3000 ≤ o ∧ o < 0x3020) then .next s
  else if o < 0x1000 then writeQueue d (o / 0x40) (o % 0x40) v s
  else if o < 0x1100 then
    let x := s.queue d ((o - 0x1000) / 4)
    .next (s.setQueue d ((o - 0x1000) / 4) { x with asid := v.setWidth 6 })
  else if 0x2000 ≤ o ∧ o < 0x2018 then writeTract d (o - 0x2000) v s
  else if o = 0x3010 then execClkceilWrite d v s
  else .next s

/-- A word of address space a (R122). -/
def writeSpace (a o : Nat) (v : Word) (s : State) : Res :=
  let x := s.space a
  match o with
  | 0x00 => .next (s.setSpace a { x with root := pageBits (putWord x.root false v) })
  | 0x04 => .next (s.setSpace a { x with root := pageBits (putWord x.root true v) })
  | 0x08 => .next (if x.invGo then s else s.setSpace a { x with invVa := putWord x.invVa false (v &&& 0xFFFF0000) })
  | 0x0C => .next (if x.invGo then s else s.setSpace a { x with invVa := putWord x.invVa true (v &&& 0x01FFFFFF) })
  | 0x10 => execInvgo a v s
  | _ => .next s

/-- A word of PRECTL (R423): writes while PGO reads 1 are ignored. -/
def writePrectl (o : Nat) (v : Word) (s : State) : Res :=
  let p := s.host.prectl
  if p.go then .next s
  else match o with
  | 0x00 => .next { s with host := { s.host with prectl := { p with job := v } } }
  | 0x04 =>
    if v.getLsbD 31 then .next (popCommand (v.toNat % 8) s)
    else .next { s with host := { s.host with prectl := { p with pop := v.setWidth 3 } } }
  | _ => .next s

/-- A word of stack n's frame list (R134). -/
def writeFrames (n o : Nat) (v : Word) (s : State) : Res :=
  let x := s.stack n
  match o with
  | 0x00 => .next (s.setStack n { x with frBase := physBits (putWord x.frBase false v) })
  | 0x04 => .next (s.setStack n { x with frBase := physBits (putWord x.frBase true v) })
  | 0x08 => .next (s.setStack n { x with frCount := v.setWidth 16 })
  | 0x0C => .next (s.setStack n { x with frCap := v.setWidth 16 })
  | _ => .next s

/-- PLCTL (R134). -/
def writePlctl (v : Word) (s : State) : Res :=
  let p := s.mgmt.placer
  .next { s with mgmt := { s.mgmt with placer :=
    { p with en := v.getLsbD 0, rate := (v >>> 4).setWidth 4, plMin := (v >>> 8).setWidth 16, plMax := (v >>> 24).setWidth 8 } } }

/-- A word of the event ring's registers (R27). -/
def writeRing (o : Nat) (v : Word) (s : State) : Res :=
  let r := s.host.ring
  let put := fun r : EventRing => .next { s with host := { s.host with ring := r } }
  match o with
  | 0x00 => put { r with base := pageBits (putWord r.base false v) }
  | 0x04 => put { r with base := pageBits (putWord r.base true v) }
  | 0x08 => execEvmaskClear v s
  | 0x14 => put { r with tail := v }
  | _ => .next s

/-- A word of an event counter (R467); a counter that stops counting a timed source keeps the count it then has. -/
def writeCounter (key o : Nat) (v : Word) (s : State) : Res :=
  let c := tabGetD s.counters key {}
  let put := fun c : Counter => .next { s with counters := tabSet s.counters key c, fresh := s.fresh + 1 }
  match o with
  | 0x00 => put { c with count := putWord c.count false v }
  | 0x04 => put { c with count := putWord c.count true v }
  | 0x08 => put { count := counterNow s key, src := v.setWidth 8, en := v.getLsbD 8, usr := v.getLsbD 9 }
  | _ => .next s

/-- A word of stack n's map-out registers (R459). -/
def writeMapout (n o : Nat) (v : Word) (s : State) : Res :=
  let x := s.stack n
  match o with
  | 0x10 =>
    let s1 := if x.moGo then s else s.setStack n { x with moLayer := v.setWidth 4 }
    if v.getLsbD 31 then execMogo n s1 else .next s1
  | _ => .next s

/-- A word of the attestation registers (R474). -/
def writeAttest (o : Nat) (v : Word) (s : State) : Res :=
  let x := s.mgmt.attest
  if o < 0x20 then
    if x.go then .next s
    else
      let lo := 8 * o
      let n := x.nonce.toNat - x.nonce.toNat / 2 ^ lo % 2 ^ 32 * 2 ^ lo + v.toNat * 2 ^ lo
      .next { s with mgmt := { s.mgmt with attest := { x with nonce := BitVec.ofNat 256 n } } }
  else if o = 0x20 ∧ v.getLsbD 0 = true then execAttestSign s
  else .next s

/-! ## REGISTER_WRITE -/

/-- A write of one aligned word of the control BAR (R25); an offset that no rule assigns is ignored, and so is every
register but R26's and R474's in state 3 of R470. -/
def writeWord (off : Nat) (v : Word) (s : State) : Res :=
  if 0x1000000 ≤ off ∧ off < 0x1800000 then
    writeDiePart ((off - 0x1000000) / 0x100000) ((off - 0x1000000) % 0x100000) v s
  else if 0xF00000 ≤ off ∧ off < 0xF00024 then writeAttest (off - 0xF00000) v s
  else if s.mgmt.devState = .failed then .next s
  else if 0x800000 ≤ off ∧ off < 0x800800 then writeSpace ((off - 0x800000) / 0x20) (off % 0x20) v s
  else if 0x900000 ≤ off ∧ off < 0x900010 then writePrectl (off - 0x900000) v s
  else if 0xA00000 ≤ off ∧ off < 0xA00180 then writeFrames ((off - 0xA00000) / 0x20) (off % 0x20) v s
  else if off = 0xA00180 then writePlctl v s
  else if 0xB00000 ≤ off ∧ off < 0xB0001C then writeRing (off - 0xB00000) v s
  else if off = 0xB00104 then .next { s with host := { s.host with apBase := v.setWidth 20 } }
  else if 0xC00000 ≤ off ∧ off < 0xC00C00 then execNbownWrite ((off - 0xC00000) / 4) v s
  else if 0xD00000 ≤ off ∧ off < 0xD13000 then writeCounter ((off - 0xD00000) / 0x10) (off % 0x10) v s
  else if 0xD40000 ≤ off ∧ off < 0xD42000 then writeCounter (4864 + (off - 0xD40000) / 0x10) (off % 0x10) v s
  else if 0xE00000 ≤ off ∧ off < 0xE00300 then writeMapout ((off - 0xE00000) / 0x40) (off % 0x40) v s
  else if off = 0xE00400 then execScrubctlWrite v s
  else if 0xE00800 ≤ off ∧ off < 0xE00A00 then
    if off % 0x40 = 8 ∧ v.getLsbD 1 = true then execDieReset ((off - 0xE00800) / 0x40) s else .next s
  else .next s

/-- REGISTER_WRITE (R25): an aligned write of 4 or 8 bytes; the two words of a double word are written low first.
DEDUCED (log 32), unsafe. -/
def execRegisterWrite (off size : Nat) (value : BitVec 64) (s : State) : Res :=
  if size = 4 ∧ off % 4 = 0 then writeWord off (value.setWidth 32) s
  else if size = 8 ∧ off % 8 = 0 then
    match writeWord off (value.setWidth 32) s with
    | .next s1 => writeWord (off + 4) ((value >>> 32).setWidth 32) s1
    | r => r
  else .next s

/-! ## Reads -/

/-- A bit as a number. -/
def bit (b : Bool) (i : Nat) : Nat := if b then 2 ^ i else 0

/-- A word of queue q of die d (R95). -/
def readQueue (s : State) (d q : Nat) : Nat → Word
  | 0x00 => halfOf (s.queue d q).base false
  | 0x04 => halfOf (s.queue d q).base true
  | 0x08 => (s.queue d q).size.setWidth 32
  | 0x0C => BitVec.ofNat 32 (bit (s.queue d q).en 0 + bit (s.queue d q).evt 3)
  | 0x10 => (s.queue d q).tail
  | 0x14 => (s.queue d q).head
  | 0x18 => BitVec.ofNat 32 (bit (match (s.queue d q).cur with | some g => (s.grid g).stage == .waiting | none => false) 0 +
      bit ((s.queue d q).head == (s.queue d q).tail) 1)
  | _ => 0

/-- A word of die d's management registers (R26). -/
def readDie (s : State) (d : Nat) : Nat → Word
  | 0x00 => BitVec.ofNat 32 (dgdescOf d)
  | 0x10 => BitVec.ofNat 32 (s.die d).clkCeil
  | 0x14 => BitVec.ofNat 32 (s.die d).clkNow
  | 0x18 => (s.die d).tj.setWidth 32
  | _ => 0

/-- A word of TRACT of die d (R415). -/
def readTract (s : State) (d : Nat) : Nat → Word
  | 0x00 => halfOf (tabGetD s.host.tract d {}).area false
  | 0x04 => halfOf (tabGetD s.host.tract d {}).area true
  | 0x08 => halfOf (tabGetD s.host.tract d {}).seq false
  | 0x0C => halfOf (tabGetD s.host.tract d {}).seq true
  | 0x10 => BitVec.ofNat 32 (bit (tabGetD s.host.tract d {}).err 30 + bit (tabGetD s.host.tract d {}).busy 31)
  | _ => 0

/-- A word of die d's part. -/
def readDiePart (s : State) (d o : Nat) : Word :=
  if s.mgmt.devState = .failed ∧ ¬(0x3000 ≤ o ∧ o < 0x3020) then 0
  else if o < 0x1000 then readQueue s d (o / 0x40) (o % 0x40)
  else if o < 0x1100 then (s.queue d ((o - 0x1000) / 4)).asid.setWidth 32
  else if 0x2000 ≤ o ∧ o < 0x2018 then readTract s d (o - 0x2000)
  else if 0x3000 ≤ o ∧ o < 0x3020 then readDie s d (o - 0x3000)
  else 0

/-- A word of address space a (R122). -/
def readSpace (x : Space) : Nat → Word
  | 0x00 => halfOf x.root false
  | 0x04 => halfOf x.root true
  | 0x08 => halfOf x.invVa false
  | 0x0C => halfOf x.invVa true
  | 0x10 => BitVec.ofNat 32 (x.invSz.toNat + bit x.en 30 + bit x.invGo 31)
  | _ => 0

/-- A word of PRECTL (R423). -/
def readPrectl (p : Prectl) : Nat → Word
  | 0x00 => p.job
  | 0x04 => BitVec.ofNat 32 (p.pop.toNat + bit p.err 30 + bit p.go 31)
  | 0x08 => p.stat.setWidth 32
  | 0x0C => p.cnt
  | _ => 0

/-- A word of a stack's frame list (R134). -/
def readFrames (x : Stack) : Nat → Word
  | 0x00 => halfOf x.frBase false
  | 0x04 => halfOf x.frBase true
  | 0x08 => x.frCount.setWidth 32
  | 0x0C => x.frCap.setWidth 32
  | _ => 0

/-- A word of the event ring's registers (R27). -/
def readRing (r : EventRing) : Nat → Word
  | 0x00 => halfOf r.base false
  | 0x04 => halfOf r.base true
  | 0x08 => BitVec.ofNat 32 (r.size.toNat + bit r.en 8 + bit r.mask 9 + bit r.ovf 31)
  | 0x10 => r.head
  | 0x14 => r.tail
  | 0x18 => r.lost
  | _ => 0

/-- A word of an event counter (R467). -/
def readCounter (s : State) (key : Nat) : Nat → Word
  | 0x00 => halfOf (counterNow s key) false
  | 0x04 => halfOf (counterNow s key) true
  | 0x08 => BitVec.ofNat 32 ((tabGetD s.counters key {}).src.toNat + bit (tabGetD s.counters key {}).en 8 +
      bit (tabGetD s.counters key {}).usr 9)
  | _ => 0

/-- LAYMAP as one number (R459). -/
def laymapBits (l : List Nat) : Nat := l.foldr (fun x n => x % 16 + 16 * n) 0

/-- A word of a stack's map-out registers (R459). -/
def readMapout (x : Stack) : Nat → Word
  | 0x00 => BitVec.ofNat 32 (laymapBits x.laymap)
  | 0x04 => BitVec.ofNat 32 (laymapBits x.laymap / 2 ^ 32)
  | 0x08 => BitVec.ofNat 32 x.cap
  | 0x0C => x.layOff.setWidth 32
  | 0x10 => BitVec.ofNat 32 (x.moLayer.toNat + x.moStat.toNat * 16 + bit x.moGo 31)
  | _ => 0

/-- A word of a die's status register (R458). -/
def readStatus (x : Die) : Nat → Word
  | 0x00 => x.coreOff.setWidth 32
  | 0x04 => (x.coreOff >>> 32).setWidth 32
  | 0x08 => BitVec.ofNat 32 (bit x.off 0 + x.st.toNat * 4)
  | _ => 0

/-- Four bytes of a string of bytes, lowest first. -/
def fourBytes (f : Nat → Byte) (i : Nat) : Word := f (i + 3) ++ f (i + 2) ++ f (i + 1) ++ f i

/-- A word of the attestation registers (R474). -/
def readAttest (x : Attest) (o : Nat) : Word :=
  if o = 0x20 then BitVec.ofNat 32 (bit x.go 0 + bit x.err 1)
  else if 0x40 ≤ o ∧ o < 0x60 then BitVec.ofNat 32 (x.meas.toNat / 2 ^ (8 * (o - 0x40)))
  else if 0x100 ≤ o ∧ o < 0x100 + 2420 then
    match x.sig with
    | some d => fourBytes (Config.signatureByte d) (o - 0x100)
    | none => 0
  else if 0x1000 ≤ o ∧ o < 0x10000 then fourBytes Config.identityByte (o - 0x1000)
  else 0

/-- What an aligned word of the control BAR reads as (R25); a read changes nothing. -/
def regRead (s : State) (off : Nat) : Word :=
  if 0x1000000 ≤ off ∧ off < 0x1800000 then readDiePart s ((off - 0x1000000) / 0x100000) ((off - 0x1000000) % 0x100000)
  else if 0xF00000 ≤ off ∧ off < 0xF10000 then readAttest s.mgmt.attest (off - 0xF00000)
  else if off = 0xE00300 then BitVec.ofNat 32 s.mgmt.devState.code
  else if s.mgmt.devState = .failed then 0
  else if 0x800000 ≤ off ∧ off < 0x800800 then readSpace (s.space ((off - 0x800000) / 0x20)) (off % 0x20)
  else if 0x900000 ≤ off ∧ off < 0x900010 then readPrectl s.host.prectl (off - 0x900000)
  else if 0xA00000 ≤ off ∧ off < 0xA00180 then readFrames (s.stack ((off - 0xA00000) / 0x20)) (off % 0x20)
  else if off = 0xA00180 then
    let p := s.mgmt.placer
    BitVec.ofNat 32 (bit p.en 0 + p.rate.toNat * 2 ^ 4 + p.plMin.toNat * 2 ^ 8 + p.plMax.toNat * 2 ^ 24)
  else if 0xB00000 ≤ off ∧ off < 0xB0001C then readRing s.host.ring (off - 0xB00000)
  else if off = 0xB00104 then s.host.apBase.setWidth 32
  else if off = 0xB00108 then s.mgmt.govEst.setWidth 32
  else if 0xC00000 ≤ off ∧ off < 0xC00C00 then
    let e := tabGetD s.host.nbown ((off - 0xC00000) / 4) (0, false)
    BitVec.ofNat 32 (e.1.toNat + bit e.2 7)
  else if 0xD00000 ≤ off ∧ off < 0xD13000 then readCounter s ((off - 0xD00000) / 0x10) (off % 0x10)
  else if 0xD40000 ≤ off ∧ off < 0xD42000 then readCounter s (4864 + (off - 0xD40000) / 0x10) (off % 0x10)
  else if 0xE00000 ≤ off ∧ off < 0xE00300 then readMapout (s.stack ((off - 0xE00000) / 0x40)) (off % 0x40)
  else if off = 0xE00400 then
    let x := s.mgmt.scrub
    BitVec.ofNat 32 (bit x.en 0 + x.period * 2 ^ 8 + x.rthr.toNat * 2 ^ 16)
  else if 0xE00800 ≤ off ∧ off < 0xE00A00 then readStatus (s.die ((off - 0xE00800) / 0x40)) (off % 0x40)
  else 0

end Sys2Proof.Machine
end

