-- ==== Sys2Proof/Machine/Dispatch.lean ====
section
/-! DEFINITION. The dispatch: one arm for each instruction and each operation of the device. -/

namespace Sys2Proof.Machine

def exec (i : Instr) (s : State) : Host.Outcome State Fault Refusal :=
  match i with
  | .registerWrite off size value => Sys2Proof.Machine.execRegisterWrite off size value s
  | .apertureRead x size => Sys2Proof.Machine.execApertureRead x size s
  | .apertureWrite x size value => Sys2Proof.Machine.execApertureWrite x size value s
  | .clkceilWrite die value => Sys2Proof.Machine.execClkceilWrite die value s
  | .evmaskClear value => Sys2Proof.Machine.execEvmaskClear value s
  | .msixDelayedInterrupt => Sys2Proof.Machine.execMsixDelayedInterrupt s
  | .qtailDoorbell die q value => Sys2Proof.Machine.execQtailDoorbell die q value s
  | .abort die q => Sys2Proof.Machine.execAbort die q s
  | .poke die q => Sys2Proof.Machine.execPoke die q s
  | .queueEnable die q value => Sys2Proof.Machine.execQueueEnable die q value s
  | .queueEntryTake die q => Sys2Proof.Machine.execQueueEntryTake die q s
  | .dependencePoll gid => Sys2Proof.Machine.execDependencePoll gid s
  | .clusterReservation gid => Sys2Proof.Machine.execClusterReservation gid s
  | .blockPlace core => Sys2Proof.Machine.execBlockPlace core s
  | .clusterPlace die => Sys2Proof.Machine.execClusterPlace die s
  | .localCardCheck core => Sys2Proof.Machine.execLocalCardCheck core s
  | .loadComplete grp n => Sys2Proof.Machine.execLoadComplete grp n s
  | .writeComplete grp => Sys2Proof.Machine.execWriteComplete grp s
  | .atomicComplete grp n => Sys2Proof.Machine.execAtomicComplete grp n s
  | .translationWalk asid miss => Sys2Proof.Machine.execTranslationWalk asid miss s
  | .invgo asid value => Sys2Proof.Machine.execInvgo asid value s
  | .invalidationComplete asid => Sys2Proof.Machine.execInvalidationComplete asid s
  | .placerEpoch => Sys2Proof.Machine.execPlacerEpoch s
  | .pageMove => Sys2Proof.Machine.execPageMove s
  | .syncCommandStart blk => Sys2Proof.Machine.execSyncCommandStart blk s
  | .tileFillLanded blk tile => Sys2Proof.Machine.execTileFillLanded blk tile s
  | .tileDrainDone blk tile => Sys2Proof.Machine.execTileDrainDone blk tile s
  | .copyCommandComplete blk => Sys2Proof.Machine.execCopyCommandComplete blk s
  | .copyFault blk => Sys2Proof.Machine.execCopyFault blk s
  | .mmaComplete grp => Sys2Proof.Machine.execMmaComplete grp s
  | .mmatStart blk => Sys2Proof.Machine.execMmatStart blk s
  | .mmatComplete blk => Sys2Proof.Machine.execMmatComplete blk s
  | .bankCommandExecute bank => Sys2Proof.Machine.execBankCommandExecute bank s
  | .sideboardFold gid cluster => Sys2Proof.Machine.execSideboardFold gid cluster s
  | .slabChunkMove n => Sys2Proof.Machine.execSlabChunkMove n s
  | .slabMoveRetry n => Sys2Proof.Machine.execSlabMoveRetry n s
  | .joinPass grp => Sys2Proof.Machine.execJoinPass grp s
  | .joinDeadlockDetect grp => Sys2Proof.Machine.execJoinDeadlockDetect grp s
  | .allocationDeadlock core => Sys2Proof.Machine.execAllocationDeadlock core s
  | .barrierPhaseComplete blk clusterScope bar => Sys2Proof.Machine.execBarrierPhaseComplete blk clusterScope bar s
  | .ugetCombine blk => Sys2Proof.Machine.execUgetCombine blk s
  | .postAct blk => Sys2Proof.Machine.execPostAct blk s
  | .trapAckPoll n => Sys2Proof.Machine.execTrapAckPoll n s
  | .handlerStart core => Sys2Proof.Machine.execHandlerStart core s
  | .tractResume die => Sys2Proof.Machine.execTractResume die s
  | .tractKillGroup die => Sys2Proof.Machine.execTractKillGroup die s
  | .tractKillGrid die => Sys2Proof.Machine.execTractKillGrid die s
  | .preemptRequeue => Sys2Proof.Machine.execPreemptRequeue s
  | .preemptHold => Sys2Proof.Machine.execPreemptHold s
  | .cut => Sys2Proof.Machine.execCut s
  | .releaseHeld => Sys2Proof.Machine.execReleaseHeld s
  | .resumeFromCut => Sys2Proof.Machine.execResumeFromCut s
  | .preemptDeadline gid => Sys2Proof.Machine.execPreemptDeadline gid s
  | .preemptRestartDeadline gid => Sys2Proof.Machine.execPreemptRestartDeadline gid s
  | .saveImageWrite blk => Sys2Proof.Machine.execSaveImageWrite blk s
  | .restore n => Sys2Proof.Machine.execRestore n s
  | .cutReduction gid => Sys2Proof.Machine.execCutReduction gid s
  | .cutComplete gid => Sys2Proof.Machine.execCutComplete gid s
  | .cutDeadline gid => Sys2Proof.Machine.execCutDeadline gid s
  | .migrationPlace n => Sys2Proof.Machine.execMigrationPlace n s
  | .migrationDeadline blk => Sys2Proof.Machine.execMigrationDeadline blk s
  | .blockComplete blk => Sys2Proof.Machine.execBlockComplete blk s
  | .gridComplete gid => Sys2Proof.Machine.execGridComplete gid s
  | .nbownWrite pc value => Sys2Proof.Machine.execNbownWrite pc value s
  | .governorInterval watts => Sys2Proof.Machine.execGovernorInterval watts s
  | .supplyOverpower watts => Sys2Proof.Machine.execSupplyOverpower watts s
  | .watchdogFire die unit core => Sys2Proof.Machine.execWatchdogFire die unit core s
  | .dieReset die => Sys2Proof.Machine.execDieReset die s
  | .selfTestEnd die failed badUnit => Sys2Proof.Machine.execSelfTestEnd die failed badUnit s
  | .mogo stack => Sys2Proof.Machine.execMogo stack s
  | .mapoutFrameCopy stack => Sys2Proof.Machine.execMapoutFrameCopy stack s
  | .scrubctlWrite value => Sys2Proof.Machine.execScrubctlWrite value s
  | .patrolScrub => Sys2Proof.Machine.execPatrolScrub s
  | .hotRowScrub => Sys2Proof.Machine.execHotRowScrub s
  | .scoreHalving => Sys2Proof.Machine.execScoreHalving s
  | .rowRetire => Sys2Proof.Machine.execRowRetire s
  | .refreshManagement => Sys2Proof.Machine.execRefreshManagement s
  | .phyCalibration => Sys2Proof.Machine.execPhyCalibration s
  | .telemetrySample die tj => Sys2Proof.Machine.execTelemetrySample die tj s
  | .deviceReset => Sys2Proof.Machine.execDeviceReset s
  | .bringUpStart dies => Sys2Proof.Machine.execBringUpStart dies s
  | .fullService trained dies => Sys2Proof.Machine.execFullService trained dies s
  | .attestSign => Sys2Proof.Machine.execAttestSign s
  | .attestSignDone => Sys2Proof.Machine.execAttestSignDone s
  | .illegalInstructionWord word => Sys2Proof.Machine.execIllegalInstructionWord word s
  | .fetchFault => Sys2Proof.Machine.execFetchFault s
  | .mov d w a => Sys2Proof.Machine.execMov d w a s
  | .not d w a => Sys2Proof.Machine.execNot d w a s
  | .neg d w a => Sys2Proof.Machine.execNeg d w a s
  | .abs d w a => Sys2Proof.Machine.execAbs d w a s
  | .popc d w a => Sys2Proof.Machine.execPopc d w a s
  | .clz d w a => Sys2Proof.Machine.execClz d w a s
  | .brev d w a => Sys2Proof.Machine.execBrev d w a s
  | .sxtI8 d w a => Sys2Proof.Machine.execSxtI8 d w a s
  | .sxtI16 d w a => Sys2Proof.Machine.execSxtI16 d w a s
  | .zxtN8 d w a => Sys2Proof.Machine.execZxtN8 d w a s
  | .zxtN16 d w a => Sys2Proof.Machine.execZxtN16 d w a s
  | .sxtI64 d w a => Sys2Proof.Machine.execSxtI64 d w a s
  | .zxtN64 d w a => Sys2Proof.Machine.execZxtN64 d w a s
  | .mov64 d w a => Sys2Proof.Machine.execMov64 d w a s
  | .addI32 d w a b => Sys2Proof.Machine.execAddI32 d w a b s
  | .addI32Imm d w a im => Sys2Proof.Machine.execAddI32Imm d w a im s
  | .subI32 d w a b => Sys2Proof.Machine.execSubI32 d w a b s
  | .subI32Imm d w a im => Sys2Proof.Machine.execSubI32Imm d w a im s
  | .addSatI32 d w a b => Sys2Proof.Machine.execAddSatI32 d w a b s
  | .addSatI32Imm d w a im => Sys2Proof.Machine.execAddSatI32Imm d w a im s
  | .addSatN32 d w a b => Sys2Proof.Machine.execAddSatN32 d w a b s
  | .addSatN32Imm d w a im => Sys2Proof.Machine.execAddSatN32Imm d w a im s
  | .subSatI32 d w a b => Sys2Proof.Machine.execSubSatI32 d w a b s
  | .subSatI32Imm d w a im => Sys2Proof.Machine.execSubSatI32Imm d w a im s
  | .subSatN32 d w a b => Sys2Proof.Machine.execSubSatN32 d w a b s
  | .subSatN32Imm d w a im => Sys2Proof.Machine.execSubSatN32Imm d w a im s
  | .mulI32 d w a b => Sys2Proof.Machine.execMulI32 d w a b s
  | .mulI32Imm d w a im => Sys2Proof.Machine.execMulI32Imm d w a im s
  | .mulSatI32 d w a b => Sys2Proof.Machine.execMulSatI32 d w a b s
  | .mulSatI32Imm d w a im => Sys2Proof.Machine.execMulSatI32Imm d w a im s
  | .mulSatN32 d w a b => Sys2Proof.Machine.execMulSatN32 d w a b s
  | .mulSatN32Imm d w a im => Sys2Proof.Machine.execMulSatN32Imm d w a im s
  | .mulhiI32 d w a b => Sys2Proof.Machine.execMulhiI32 d w a b s
  | .mulhiI32Imm d w a im => Sys2Proof.Machine.execMulhiI32Imm d w a im s
  | .mulhiN32 d w a b => Sys2Proof.Machine.execMulhiN32 d w a b s
  | .mulhiN32Imm d w a im => Sys2Proof.Machine.execMulhiN32Imm d w a im s
  | .mulwI32 d w a b => Sys2Proof.Machine.execMulwI32 d w a b s
  | .mulwI32Imm d w a im => Sys2Proof.Machine.execMulwI32Imm d w a im s
  | .mulwN32 d w a b => Sys2Proof.Machine.execMulwN32 d w a b s
  | .mulwN32Imm d w a im => Sys2Proof.Machine.execMulwN32Imm d w a im s
  | .addI64 d w a b => Sys2Proof.Machine.execAddI64 d w a b s
  | .addI64Imm d w a im => Sys2Proof.Machine.execAddI64Imm d w a im s
  | .subI64 d w a b => Sys2Proof.Machine.execSubI64 d w a b s
  | .subI64Imm d w a im => Sys2Proof.Machine.execSubI64Imm d w a im s
  | .divI32 d w a b => Sys2Proof.Machine.execDivI32 d w a b s
  | .divI32Imm d w a im => Sys2Proof.Machine.execDivI32Imm d w a im s
  | .divN32 d w a b => Sys2Proof.Machine.execDivN32 d w a b s
  | .divN32Imm d w a im => Sys2Proof.Machine.execDivN32Imm d w a im s
  | .remI32 d w a b => Sys2Proof.Machine.execRemI32 d w a b s
  | .remI32Imm d w a im => Sys2Proof.Machine.execRemI32Imm d w a im s
  | .remN32 d w a b => Sys2Proof.Machine.execRemN32 d w a b s
  | .remN32Imm d w a im => Sys2Proof.Machine.execRemN32Imm d w a im s
  | .minI32 d w a b => Sys2Proof.Machine.execMinI32 d w a b s
  | .minI32Imm d w a im => Sys2Proof.Machine.execMinI32Imm d w a im s
  | .maxI32 d w a b => Sys2Proof.Machine.execMaxI32 d w a b s
  | .maxI32Imm d w a im => Sys2Proof.Machine.execMaxI32Imm d w a im s
  | .minN32 d w a b => Sys2Proof.Machine.execMinN32 d w a b s
  | .minN32Imm d w a im => Sys2Proof.Machine.execMinN32Imm d w a im s
  | .maxN32 d w a b => Sys2Proof.Machine.execMaxN32 d w a b s
  | .maxN32Imm d w a im => Sys2Proof.Machine.execMaxN32Imm d w a im s
  | .and d w a b => Sys2Proof.Machine.execAnd d w a b s
  | .andImm d w a im => Sys2Proof.Machine.execAndImm d w a im s
  | .or d w a b => Sys2Proof.Machine.execOr d w a b s
  | .orImm d w a im => Sys2Proof.Machine.execOrImm d w a im s
  | .xor d w a b => Sys2Proof.Machine.execXor d w a b s
  | .xorImm d w a im => Sys2Proof.Machine.execXorImm d w a im s
  | .shl d w a b => Sys2Proof.Machine.execShl d w a b s
  | .shlImm d w a im => Sys2Proof.Machine.execShlImm d w a im s
  | .shrN32 d w a b => Sys2Proof.Machine.execShrN32 d w a b s
  | .shrN32Imm d w a im => Sys2Proof.Machine.execShrN32Imm d w a im s
  | .shrI32 d w a b => Sys2Proof.Machine.execShrI32 d w a b s
  | .shrI32Imm d w a im => Sys2Proof.Machine.execShrI32Imm d w a im s
  | .cmpI32 p c a b => Sys2Proof.Machine.execCmpI32 p c a b s
  | .cmpI32Imm p c a im => Sys2Proof.Machine.execCmpI32Imm p c a im s
  | .cmpN32 p c a b => Sys2Proof.Machine.execCmpN32 p c a b s
  | .cmpN32Imm p c a im => Sys2Proof.Machine.execCmpN32Imm p c a im s
  | .cmpI64 p c a b => Sys2Proof.Machine.execCmpI64 p c a b s
  | .plut p a b l => Sys2Proof.Machine.execPlut p a b l s
  | .sel d w a b => Sys2Proof.Machine.execSel d w a b s
  | .nop => Sys2Proof.Machine.execNop s
  | .br g n o => Sys2Proof.Machine.execBr g n o s
  | .bru g n o => Sys2Proof.Machine.execBru g n o s
  | .call g n o => Sys2Proof.Machine.execCall g n o s
  | .calli a => Sys2Proof.Machine.execCalli a s
  | .ret => Sys2Proof.Machine.execRet s
  | .join a => Sys2Proof.Machine.execJoin a s
  | .tail => Sys2Proof.Machine.execTail s
  | .exit => Sys2Proof.Machine.execExit s
  | .brl g n o => Sys2Proof.Machine.execBrl g n o s
  | .calll g n o => Sys2Proof.Machine.execCalll g n o s
  | .uadd d a b im => Sys2Proof.Machine.execUadd d a b im s
  | .usub d a b im => Sys2Proof.Machine.execUsub d a b im s
  | .umul d a b im => Sys2Proof.Machine.execUmul d a b im s
  | .uand d a b im => Sys2Proof.Machine.execUand d a b im s
  | .uor d a b im => Sys2Proof.Machine.execUor d a b im s
  | .uxor d a b im => Sys2Proof.Machine.execUxor d a b im s
  | .ushl d a b im => Sys2Proof.Machine.execUshl d a b im s
  | .ushrN64 d a b im => Sys2Proof.Machine.execUshrN64 d a b im s
  | .ushrI64 d a b im => Sys2Proof.Machine.execUshrI64 d a b im s
  | .uminI64 d a b im => Sys2Proof.Machine.execUminI64 d a b im s
  | .umaxI64 d a b im => Sys2Proof.Machine.execUmaxI64 d a b im s
  | .uminN64 d a b im => Sys2Proof.Machine.execUminN64 d a b im s
  | .umaxN64 d a b im => Sys2Proof.Machine.execUmaxN64 d a b im s
  | .umov d a b im => Sys2Proof.Machine.execUmov d a b im s
  | .udivN64 d a b im => Sys2Proof.Machine.execUdivN64 d a b im s
  | .uremN64 d a b im => Sys2Proof.Machine.execUremN64 d a b im s
  | .udivI64 d a b im => Sys2Proof.Machine.execUdivI64 d a b im s
  | .uremI64 d a b im => Sys2Proof.Machine.execUremI64 d a b im s
  | .ugetFirst d x w => Sys2Proof.Machine.execUgetFirst d x w s
  | .ugetAdd d x w => Sys2Proof.Machine.execUgetAdd d x w s
  | .ugetMinI d x w => Sys2Proof.Machine.execUgetMinI d x w s
  | .ugetMaxI d x w => Sys2Proof.Machine.execUgetMaxI d x w s
  | .ugetMinN d x w => Sys2Proof.Machine.execUgetMinN d x w s
  | .ugetMaxN d x w => Sys2Proof.Machine.execUgetMaxN d x w s
  | .ugetAnd d x w => Sys2Proof.Machine.execUgetAnd d x w s
  | .ugetOr d x w => Sys2Proof.Machine.execUgetOr d x w s
  | .ugetXor d x w => Sys2Proof.Machine.execUgetXor d x w s
  | .ugetAny d x w => Sys2Proof.Machine.execUgetAny d x w s
  | .ugetAll d x w => Sys2Proof.Machine.execUgetAll d x w s
  | .ugetCount d x w => Sys2Proof.Machine.execUgetCount d x w s
  | .ucmpEq d a b im => Sys2Proof.Machine.execUcmpEq d a b im s
  | .ucmpNe d a b im => Sys2Proof.Machine.execUcmpNe d a b im s
  | .ucmpLtI64 d a b im => Sys2Proof.Machine.execUcmpLtI64 d a b im s
  | .ucmpGeI64 d a b im => Sys2Proof.Machine.execUcmpGeI64 d a b im s
  | .ucmpLtN64 d a b im => Sys2Proof.Machine.execUcmpLtN64 d a b im s
  | .ucmpGeN64 d a b im => Sys2Proof.Machine.execUcmpGeN64 d a b im s
  | .uld d a b sc z => Sys2Proof.Machine.execUld d a b sc z s
  | .post d a b => Sys2Proof.Machine.execPost d a b s
  | .postSelf d a => Sys2Proof.Machine.execPostSelf d a s
  | .widen d a => Sys2Proof.Machine.execWiden d a s
  | .widenCount d a => Sys2Proof.Machine.execWidenCount d a s
  | .widenFull d => Sys2Proof.Machine.execWidenFull d s
  | .shrdLo d w a => Sys2Proof.Machine.execShrdLo d w a s
  | .shrdHi d w a => Sys2Proof.Machine.execShrdHi d w a s
  | .shwr d a b => Sys2Proof.Machine.execShwr d a b s
  | .arrget d w f n => Sys2Proof.Machine.execArrget d w f n s
  | .arrgetBase64 d w n => Sys2Proof.Machine.execArrgetBase64 d w n s
  | .arrset n a f => Sys2Proof.Machine.execArrset n a f s
  | .faddF32 d w a b => Sys2Proof.Machine.execFaddF32 d w a b s
  | .fsubF32 d w a b => Sys2Proof.Machine.execFsubF32 d w a b s
  | .fmulF32 d w a b => Sys2Proof.Machine.execFmulF32 d w a b s
  | .fmaF32 d w a b => Sys2Proof.Machine.execFmaF32 d w a b s
  | .fminF32 d w a b => Sys2Proof.Machine.execFminF32 d w a b s
  | .fmaxF32 d w a b => Sys2Proof.Machine.execFmaxF32 d w a b s
  | .faddF16 d w a b => Sys2Proof.Machine.execFaddF16 d w a b s
  | .fmulF16 d w a b => Sys2Proof.Machine.execFmulF16 d w a b s
  | .fmaF16 d w a b => Sys2Proof.Machine.execFmaF16 d w a b s
  | .faddBf16 d w a b => Sys2Proof.Machine.execFaddBf16 d w a b s
  | .fmulBf16 d w a b => Sys2Proof.Machine.execFmulBf16 d w a b s
  | .fmaBf16 d w a b => Sys2Proof.Machine.execFmaBf16 d w a b s
  | .fmodFsub d w a t => Sys2Proof.Machine.execFmodFsub d w a t s
  | .fmodFmin d w a t => Sys2Proof.Machine.execFmodFmin d w a t s
  | .fmodFmax d w a t => Sys2Proof.Machine.execFmodFmax d w a t s
  | .fabs d w a t => Sys2Proof.Machine.execFabs d w a t s
  | .fneg d w a t => Sys2Proof.Machine.execFneg d w a t s
  | .fcps d w a t => Sys2Proof.Machine.execFcps d w a t s
  | .rcp d w a t => Sys2Proof.Machine.execRcp d w a t s
  | .rsq d w a t => Sys2Proof.Machine.execRsq d w a t s
  | .sqrt d w a t => Sys2Proof.Machine.execSqrt d w a t s
  | .ex2 d w a t => Sys2Proof.Machine.execEx2 d w a t s
  | .lg2 d w a t => Sys2Proof.Machine.execLg2 d w a t s
  | .sin d w a t => Sys2Proof.Machine.execSin d w a t s
  | .cos d w a t => Sys2Proof.Machine.execCos d w a t s
  | .tanh d w a t => Sys2Proof.Machine.execTanh d w a t s
  | .fcmpF32 p c a b => Sys2Proof.Machine.execFcmpF32 p c a b s
  | .fcmpH p c a b => Sys2Proof.Machine.execFcmpH p c a b s
  | .cvtF d w a r e sc => Sys2Proof.Machine.execCvtF d w a r e sc s
  | .cvtI d w a r sc e => Sys2Proof.Machine.execCvtI d w a r sc e s
  | .cvtn d w a im => Sys2Proof.Machine.execCvtn d w a im s
  | .cvtnf d w a im => Sys2Proof.Machine.execCvtnf d w a im s
  | .tunp d w a m k => Sys2Proof.Machine.execTunp d w a m k s
  | .tdot d w a b => Sys2Proof.Machine.execTdot d w a b s
  | .seed a => Sys2Proof.Machine.execSeed a s
  | .seedRd d w => Sys2Proof.Machine.execSeedRd d w s
  | .fsrd d w => Sys2Proof.Machine.execFsrd d w s
  | .fsrdClr d w a => Sys2Proof.Machine.execFsrdClr d w a s
  | .faddF64 d w a b => Sys2Proof.Machine.execFaddF64 d w a b s
  | .fsubF64 d w a b => Sys2Proof.Machine.execFsubF64 d w a b s
  | .fmulF64 d w a b => Sys2Proof.Machine.execFmulF64 d w a b s
  | .fmaF64 d w a b => Sys2Proof.Machine.execFmaF64 d w a b s
  | .fminF64 d w a => Sys2Proof.Machine.execFminF64 d w a s
  | .fmaxF64 d w a => Sys2Proof.Machine.execFmaxF64 d w a s
  | .fabsF64 d w a => Sys2Proof.Machine.execFabsF64 d w a s
  | .fnegF64 d w a => Sys2Proof.Machine.execFnegF64 d w a s
  | .fcpsF64 d w a => Sys2Proof.Machine.execFcpsF64 d w a s
  | .fcmpF64 p c a b => Sys2Proof.Machine.execFcmpF64 p c a b s
  | .cvtF64 d w a r x t => Sys2Proof.Machine.execCvtF64 d w a r x t s
  | .rcpF64 d w a => Sys2Proof.Machine.execRcpF64 d w a s
  | .rsqF64 d w a => Sys2Proof.Machine.execRsqF64 d w a s
  | .sqrtF64 d w a => Sys2Proof.Machine.execSqrtF64 d w a s
  | .ldN8 d w x a o => Sys2Proof.Machine.execLdN8 d w x a o s
  | .ldI8 d w x a o => Sys2Proof.Machine.execLdI8 d w x a o s
  | .ldN16 d w x a o => Sys2Proof.Machine.execLdN16 d w x a o s
  | .ldI16 d w x a o => Sys2Proof.Machine.execLdI16 d w x a o s
  | .ld32 d w x a o => Sys2Proof.Machine.execLd32 d w x a o s
  | .ld64 d w x a o => Sys2Proof.Machine.execLd64 d w x a o s
  | .st8 d l x a o => Sys2Proof.Machine.execSt8 d l x a o s
  | .st16 d l x a o => Sys2Proof.Machine.execSt16 d l x a o s
  | .st32 d l x a o => Sys2Proof.Machine.execSt32 d l x a o s
  | .st64 d l x a o => Sys2Proof.Machine.execSt64 d l x a o s
  | .ldro32 d w x a o => Sys2Proof.Machine.execLdro32 d w x a o s
  | .ldro64 d w x a o => Sys2Proof.Machine.execLdro64 d w x a o s
  | .lds32 d w x a o => Sys2Proof.Machine.execLds32 d w x a o s
  | .sts32 d l x a o => Sys2Proof.Machine.execSts32 d l x a o s
  | .lds64 d w x a o => Sys2Proof.Machine.execLds64 d w x a o s
  | .sts64 d l x a o => Sys2Proof.Machine.execSts64 d l x a o s
  | .ldg32 d w a im => Sys2Proof.Machine.execLdg32 d w a im s
  | .stg32 d l a im => Sys2Proof.Machine.execStg32 d l a im s
  | .ldg64 d w a im => Sys2Proof.Machine.execLdg64 d w a im s
  | .stg64 d l a im => Sys2Proof.Machine.execStg64 d l a im s
  | .spill a k => Sys2Proof.Machine.execSpill a k s
  | .fill d k => Sys2Proof.Machine.execFill d k s
  | .tacq x p n => Sys2Proof.Machine.execTacq x p n s
  | .tacqFill im x p n => Sys2Proof.Machine.execTacqFill im x p n s
  | .trel n => Sys2Proof.Machine.execTrel n s
  | .trelWb im x n => Sys2Proof.Machine.execTrelWb im x n s
  | .copy im x y => Sys2Proof.Machine.execCopy im x y s
  | .copym im x y => Sys2Proof.Machine.execCopym im x y s
  | .mcast im x y n => Sys2Proof.Machine.execMcast im x y n s
  | .pfxL2 im x => Sys2Proof.Machine.execPfxL2 im x s
  | .pfxVault im x => Sys2Proof.Machine.execPfxVault im x s
  | .ldt d w a z n => Sys2Proof.Machine.execLdt d w a z n s
  | .stt d l a z n => Sys2Proof.Machine.execStt d l a z n s
  | .dsld d w a z k r => Sys2Proof.Machine.execDsld d w a z k r s
  | .dsst d l a z k r => Sys2Proof.Machine.execDsst d l a z k r s
  | .mma im x t z b a k d => Sys2Proof.Machine.execMma im x t z b a k d s
  | .mmaNf im x t z b a k d => Sys2Proof.Machine.execMmaNf im x t z b a k d s
  | .mmaF64 im x t z b a k d => Sys2Proof.Machine.execMmaF64 im x t z b a k d s
  | .mmaCont x => Sys2Proof.Machine.execMmaCont x s
  | .mmat im x z b a p y => Sys2Proof.Machine.execMmat im x z b a p y s
  | .mmatCont x => Sys2Proof.Machine.execMmatCont x s
  | .mmatNf im x z b a p y => Sys2Proof.Machine.execMmatNf im x z b a p y s
  | .slset n x => Sys2Proof.Machine.execSlset n x s
  | .slgrow n x d => Sys2Proof.Machine.execSlgrow n x d s
  | .slxl d w a n => Sys2Proof.Machine.execSlxl d w a n s
  | .slxlPg d w a n => Sys2Proof.Machine.execSlxlPg d w a n s
  | .slapp n x d => Sys2Proof.Machine.execSlapp n x d s
  | .osm r x sc => Sys2Proof.Machine.execOsm r x sc s
  | .osmMrg r x sc => Sys2Proof.Machine.execOsmMrg r x sc s
  | .osmn d x sc => Sys2Proof.Machine.execOsmn d x sc s
  | .sbsend n x => Sys2Proof.Machine.execSbsend n x s
  | .sbmrg n x m => Sys2Proof.Machine.execSbmrg n x m s
  | .psel n x => Sys2Proof.Machine.execPsel n x s
  | .kvpk n x => Sys2Proof.Machine.execKvpk n x s
  | .kvunp n x => Sys2Proof.Machine.execKvunp n x s
  | .nbmode t b => Sys2Proof.Machine.execNbmode t b s
  | .nbbc b x im => Sys2Proof.Machine.execNbbc b x im s
  | .nbmac im k x a z sc n => Sys2Proof.Machine.execNbmac im k x a z sc n s
  | .nbrd k x c h n => Sys2Proof.Machine.execNbrd k x c h n s
  | .nbldw im x => Sys2Proof.Machine.execNbldw im x s
  | .fenceBank x sc => Sys2Proof.Machine.execFenceBank x sc s
  | .nbclr z x w => Sys2Proof.Machine.execNbclr z x w s
  | .bar b x => Sys2Proof.Machine.execBar b x s
  | .bara b x => Sys2Proof.Machine.execBara b x s
  | .cbar b x => Sys2Proof.Machine.execCbar b x s
  | .cbara b x => Sys2Proof.Machine.execCbara b x s
  | .atom32 d sc o im a => Sys2Proof.Machine.execAtom32 d sc o im a s
  | .atom64 d sc o im a => Sys2Proof.Machine.execAtom64 d sc o im a s
  | .cas32 d sc im a => Sys2Proof.Machine.execCas32 d sc im a s
  | .cas64 d sc im a => Sys2Proof.Machine.execCas64 d sc im a s
  | .red32 d sc o im a => Sys2Proof.Machine.execRed32 d sc o im a s
  | .red64 d sc o im a => Sys2Proof.Machine.execRed64 d sc o im a s
  | .fence sc => Sys2Proof.Machine.execFence sc s
  | .waitCopy n => Sys2Proof.Machine.execWaitCopy n s
  | .waitMatrix n => Sys2Proof.Machine.execWaitMatrix n s
  | .waitGather n => Sys2Proof.Machine.execWaitGather n s
  | .waitNearBank n => Sys2Proof.Machine.execWaitNearBank n s
  | .waitCollective n => Sys2Proof.Machine.execWaitCollective n s
  | .sigwSt v x => Sys2Proof.Machine.execSigwSt v x s
  | .sigwAdd v x => Sys2Proof.Machine.execSigwAdd v x s
  | .sigwMax v x => Sys2Proof.Machine.execSigwMax v x s
  | .ldacq d sc z im a => Sys2Proof.Machine.execLdacq d sc z im a s
  | .strel d sc z im a => Sys2Proof.Machine.execStrel d sc z im a s
  | .trap c => Sys2Proof.Machine.execTrap c s
  | .brk => Sys2Proof.Machine.execBrk s
  | .tretResume => Sys2Proof.Machine.execTretResume s
  | .tretKill => Sys2Proof.Machine.execTretKill s
  | .tretKillgrid => Sys2Proof.Machine.execTretKillgrid s
  | .tretHost => Sys2Proof.Machine.execTretHost s
  | .trrd d w a h k => Sys2Proof.Machine.execTrrd d w a h k s
  | .trwr v a k => Sys2Proof.Machine.execTrwr v a k s
  | .evrd d w h e n => Sys2Proof.Machine.execEvrd d w h e n s
  | .lit v => Sys2Proof.Machine.execLit v s
  | .blk m n sc d a b => Sys2Proof.Machine.execBlk m n sc d a b s
  | .grd g e n => Sys2Proof.Machine.execGrd g e n s
  | .live o => Sys2Proof.Machine.execLive o s
  | .step sc => Sys2Proof.Machine.execStep sc s
  | .region => Sys2Proof.Machine.execRegion s
  | .pref d => Sys2Proof.Machine.execPref d s
  | .sched y h => Sys2Proof.Machine.execSched y h s

end Sys2Proof.Machine
end

