-- ==== Sys2Proof/Machine/Rows.lean ====
section
/-! DEFINITION. Banks of the register file (R181): the bank of a row, the rows that an instruction reads, and the issue cycles
that it takes. -/

namespace Sys2Proof.Machine

/-! ## Banks of rows -/

/-- The bank of a new row of vn of a group in a slot, where each listed row lies in the bank given (R181). -/
def bankFor (used : List Nat) (slot n : Nat) : Nat :=
  let first := n.xor slot % 16
  (((List.range 16).map fun i => (first + i) % 16).find? fun b => decide (used.count b < 128)).getD first

/-- Banks of the rows that a core's groups hold. -/
def banksOf (s : State) (c : Nat) : List Nat := (groupsOnCore s c).flatMap fun e => e.2.banks.map (·.2)

/-- The rows of a group that have no bank yet take one, in register order. DEDUCED (log 74), unsafe. -/
def placeGroup (s : State) (g : Nat) : State :=
  let fresh := ((s.group g).rows.map (·.1)).filter fun n => (tabGet (s.group g).banks n).isNone
  fresh.foldl (fun s n => s.modGroup g fun x =>
    { x with banks := tabSet x.banks n (bankFor (banksOf s (coreOfG g)) (slotOfG g) n) }) s

/-- Every mapped row of the package has its bank. -/
def placeRows (s : State) : State :=
  ((s.groups.filter fun e => !isHandler e.1 && e.2.banks.length != e.2.rows.length).map (·.1)).foldl placeGroup s

/-! ## What an instruction reads -/

/-- The field that names a source (R137). -/
inductive Role where
  | d | a | b
  deriving DecidableEq, Repr

/-- A source of an instruction: its field, its operand code, and whether it is 64 bits wide (R139, R141). -/
structure Source where
  role : Role
  code : Nat
  wide : Bool
  deriving DecidableEq, Repr

def srcD (d : BitVec 7) (wide : Bool) : Source := ⟨.d, d.toNat, wide⟩
def srcA (a : BitVec 8) (wide : Bool) : Source := ⟨.a, codeOf a, wide⟩
def srcB (b : BitVec 8) (wide : Bool) : Source := ⟨.b, codeOf b, wide⟩

/-- The sources of an instruction that it reads as it issues. What a matrix command reads while it runs (R306) is not among them. -/
def sourcesOf : Instr → List Source
  | .mov _ _ a | .not _ _ a | .neg _ _ a | .abs _ _ a | .popc _ _ a | .clz _ _ a | .brev _ _ a | .sxtI8 _ _ a
  | .sxtI16 _ _ a | .zxtN8 _ _ a | .zxtN16 _ _ a | .sxtI64 _ _ a | .zxtN64 _ _ a | .addI32Imm _ _ a _ | .subI32Imm _ _ a _
  | .addSatI32Imm _ _ a _ | .addSatN32Imm _ _ a _ | .subSatI32Imm _ _ a _ | .subSatN32Imm _ _ a _ | .mulI32Imm _ _ a _
  | .mulSatI32Imm _ _ a _ | .mulSatN32Imm _ _ a _ | .mulhiI32Imm _ _ a _ | .mulhiN32Imm _ _ a _ | .mulwI32Imm _ _ a _
  | .mulwN32Imm _ _ a _ | .divI32Imm _ _ a _ | .divN32Imm _ _ a _ | .remI32Imm _ _ a _ | .remN32Imm _ _ a _
  | .minI32Imm _ _ a _ | .maxI32Imm _ _ a _ | .minN32Imm _ _ a _ | .maxN32Imm _ _ a _ | .andImm _ _ a _ | .orImm _ _ a _
  | .xorImm _ _ a _ | .shlImm _ _ a _ | .shrN32Imm _ _ a _ | .shrI32Imm _ _ a _ | .cmpI32Imm _ _ a _ | .cmpN32Imm _ _ a _
  | .join a | .fabs _ _ a _ | .fneg _ _ a _ | .rcp _ _ a _ | .rsq _ _ a _ | .sqrt _ _ a _ | .ex2 _ _ a _ | .lg2 _ _ a _
  | .sin _ _ a _ | .cos _ _ a _ | .tanh _ _ a _ | .cvtI _ _ a _ _ _ | .cvtn _ _ a _ | .cvtnf _ _ a _ | .tunp _ _ a _ _
  | .seed a | .fsrdClr _ _ a | .spill a _ | .ldt _ _ a _ _ | .dsld _ _ a _ _ _ | .slxl _ _ a _ | .slxlPg _ _ a _
  | .trrd _ _ a _ _ =>
    [srcA a false]
  | .mov64 _ _ a | .addI64Imm _ _ a _ | .subI64Imm _ _ a _ | .calli a | .fabsF64 _ _ a | .fnegF64 _ _ a | .rcpF64 _ _ a
  | .rsqF64 _ _ a | .sqrtF64 _ _ a | .ldg32 _ _ a _ | .ldg64 _ _ a _ =>
    [srcA a true]
  | .addI32 _ _ a b | .subI32 _ _ a b | .addSatI32 _ _ a b | .addSatN32 _ _ a b | .subSatI32 _ _ a b | .subSatN32 _ _ a b
  | .mulI32 _ _ a b | .mulSatI32 _ _ a b | .mulSatN32 _ _ a b | .mulhiI32 _ _ a b | .mulhiN32 _ _ a b | .mulwI32 _ _ a b
  | .mulwN32 _ _ a b | .divI32 _ _ a b | .divN32 _ _ a b | .remI32 _ _ a b | .remN32 _ _ a b | .minI32 _ _ a b
  | .maxI32 _ _ a b | .minN32 _ _ a b | .maxN32 _ _ a b | .and _ _ a b | .or _ _ a b | .xor _ _ a b | .shl _ _ a b
  | .shrN32 _ _ a b | .shrI32 _ _ a b | .cmpI32 _ _ a b | .cmpN32 _ _ a b | .sel _ _ a b | .faddF32 _ _ a b
  | .fsubF32 _ _ a b | .fmulF32 _ _ a b | .fminF32 _ _ a b | .fmaxF32 _ _ a b | .faddF16 _ _ a b | .fmulF16 _ _ a b
  | .faddBf16 _ _ a b | .fmulBf16 _ _ a b | .fcmpF32 _ _ a b | .fcmpH _ _ a b =>
    [srcA a false, srcB b false]
  | .addI64 _ _ a b | .subI64 _ _ a b | .cmpI64 _ _ a b | .faddF64 _ _ a b | .fsubF64 _ _ a b | .fmulF64 _ _ a b
  | .fcmpF64 _ _ a b =>
    [srcA a true, srcB b true]
  | .ugetFirst _ x w | .ugetAdd _ x w | .ugetMinI _ x w | .ugetMaxI _ x w | .ugetMinN _ x w | .ugetMaxN _ x w
  | .ugetAnd _ x w | .ugetOr _ x w | .ugetXor _ x w | .ugetAny _ x w | .ugetAll _ x w | .ugetCount _ x w =>
    [srcA x (w = 1)]
  | .shwr d _ _ =>
    [srcD d false]
  | .fmaF32 d _ a b | .fmaF16 d _ a b | .fmaBf16 d _ a b =>
    [srcD d false, srcA a false, srcB b false]
  | .fmodFsub d _ a _ | .fmodFmin d _ a _ | .fmodFmax d _ a _ | .fcps d _ a _ =>
    [srcD d false, srcA a false]
  | .cvtF _ _ a _ _ s =>
    [srcA a (typeWide s.toNat)]
  | .tdot d _ a b =>
    [srcD d false, srcA a false, srcB b true]
  | .fmaF64 d _ a b =>
    [srcD d true, srcA a true, srcB b true]
  | .fminF64 d _ a | .fmaxF64 d _ a | .fcpsF64 d _ a | .stg64 d _ a _ =>
    [srcD d true, srcA a true]
  | .cvtF64 _ _ a _ x t =>
    [srcA a (x = 1 || typeWide t.toNat)]
  | .ldN8 _ _ x _ _ | .ldI8 _ _ x _ _ | .ldN16 _ _ x _ _ | .ldI16 _ _ x _ _ | .ld32 _ _ x _ _ | .ld64 _ _ x _ _
  | .ldro32 _ _ x _ _ | .ldro64 _ _ x _ _ | .lds32 _ _ x _ _ | .lds64 _ _ x _ _ =>
    [srcA x false]
  | .st8 d _ x _ _ | .st16 d _ x _ _ | .st32 d _ x _ _ | .sts32 d _ x _ _ =>
    [srcD d false, srcA x false]
  | .st64 d _ x _ _ | .sts64 d _ x _ _ =>
    [srcD d true, srcA x false]
  | .stg32 d _ a _ =>
    [srcD d false, srcA a true]
  | .stt d _ a z _ | .dsst d _ a z _ _ =>
    [srcD d (z = 1), srcA a false]
  | .osm _ x s | .osmn _ x s =>
    [srcD s true, srcA x false]
  | .osmMrg _ x s =>
    [srcD s true, srcA x true]
  | .nbbc b x _ =>
    srcA x true :: (List.range 8).map fun j => ⟨.b, b.toNat + j, false⟩
  | .nbmac _ _ x _ _ _ _ | .nbrd _ x _ _ _ | .nbldw _ x | .fenceBank x _ | .nbclr _ x _ =>
    [srcA x true]
  | .atom32 d _ _ i _ | .red32 d _ _ i _ =>
    [srcD d false, ⟨.a, i.toNat, false⟩]
  | .atom64 d _ _ i _ | .red64 d _ _ i _ =>
    [srcD d true, ⟨.a, i.toNat, false⟩]
  | .cas32 d _ i _ =>
    [srcD d false, ⟨.d, d.toNat + 1, false⟩, ⟨.a, i.toNat, false⟩]
  | .cas64 d _ i _ =>
    [srcD d true, ⟨.d, d.toNat + 2, true⟩, ⟨.a, i.toNat, false⟩]
  | .sigwSt v x | .sigwAdd v x | .sigwMax v x =>
    [srcA v true, srcB x true]
  | .ldacq _ _ _ i _ =>
    [⟨.a, i.toNat, false⟩]
  | .strel d _ z i _ =>
    [srcD d (z = 1), ⟨.a, i.toNat, false⟩]
  | .trwr v a _ =>
    [⟨.d, v.toNat, false⟩, srcA a false]
  | .registerWrite _ _ _ | .apertureRead _ _ | .apertureWrite _ _ _ | .clkceilWrite _ _ | .evmaskClear _
  | .msixDelayedInterrupt | .qtailDoorbell _ _ _ | .abort _ _ | .poke _ _ | .queueEnable _ _ _ | .queueEntryTake _ _
  | .dependencePoll _ | .clusterReservation _ | .blockPlace _ | .clusterPlace _ | .localCardCheck _ | .loadComplete _ _
  | .writeComplete _ | .atomicComplete _ _ | .translationWalk _ _ | .invgo _ _ | .invalidationComplete _ | .placerEpoch
  | .pageMove | .syncCommandStart _ | .tileFillLanded _ _ | .tileDrainDone _ _ | .copyCommandComplete _ | .copyFault _
  | .mmaComplete _ | .mmatStart _ | .mmatComplete _ | .bankCommandExecute _ | .sideboardFold _ _ | .slabChunkMove _
  | .slabMoveRetry _ | .joinPass _ | .joinDeadlockDetect _ | .allocationDeadlock _ | .barrierPhaseComplete _ _ _
  | .ugetCombine _ | .postAct _ | .trapAckPoll _ | .handlerStart _ | .tractResume _ | .tractKillGroup _ | .tractKillGrid _
  | .preemptRequeue | .preemptHold | .cut | .releaseHeld | .resumeFromCut | .preemptDeadline _ | .preemptRestartDeadline _
  | .saveImageWrite _ | .restore _ | .cutReduction _ | .cutComplete _ | .cutDeadline _ | .migrationPlace _
  | .migrationDeadline _ | .blockComplete _ | .gridComplete _ | .nbownWrite _ _ | .governorInterval _ | .supplyOverpower _
  | .watchdogFire _ _ _ | .dieReset _ | .selfTestEnd _ _ _ | .mogo _ | .mapoutFrameCopy _ | .scrubctlWrite _ | .patrolScrub
  | .hotRowScrub | .scoreHalving | .rowRetire | .refreshManagement | .phyCalibration | .telemetrySample _ _ | .deviceReset
  | .bringUpStart _ | .fullService _ _ | .attestSign | .attestSignDone | .illegalInstructionWord _ | .fetchFault
  | .plut _ _ _ _ | .nop | .br _ _ _ | .bru _ _ _ | .call _ _ _ | .ret | .tail | .exit | .brl _ _ _ | .calll _ _ _
  | .uadd _ _ _ _ | .usub _ _ _ _ | .umul _ _ _ _ | .uand _ _ _ _ | .uor _ _ _ _ | .uxor _ _ _ _ | .ushl _ _ _ _
  | .ushrN64 _ _ _ _ | .ushrI64 _ _ _ _ | .uminI64 _ _ _ _ | .umaxI64 _ _ _ _ | .uminN64 _ _ _ _ | .umaxN64 _ _ _ _
  | .umov _ _ _ _ | .udivN64 _ _ _ _ | .uremN64 _ _ _ _ | .udivI64 _ _ _ _ | .uremI64 _ _ _ _ | .ucmpEq _ _ _ _
  | .ucmpNe _ _ _ _ | .ucmpLtI64 _ _ _ _ | .ucmpGeI64 _ _ _ _ | .ucmpLtN64 _ _ _ _ | .ucmpGeN64 _ _ _ _ | .uld _ _ _ _ _
  | .post _ _ _ | .postSelf _ _ | .widen _ _ | .widenCount _ _ | .widenFull _ | .shrdLo _ _ _ | .shrdHi _ _ _
  | .arrget _ _ _ _ | .arrgetBase64 _ _ _ | .arrset _ _ _ | .seedRd _ _ | .fsrd _ _ | .fill _ _ | .tacq _ _ _
  | .tacqFill _ _ _ _ | .trel _ | .trelWb _ _ _ | .copy _ _ _ | .copym _ _ _ | .mcast _ _ _ _ | .pfxL2 _ _ | .pfxVault _ _
  | .mma _ _ _ _ _ _ _ _ | .mmaNf _ _ _ _ _ _ _ _ | .mmaF64 _ _ _ _ _ _ _ _ | .mmaCont _ | .mmat _ _ _ _ _ _ _ | .mmatCont _
  | .mmatNf _ _ _ _ _ _ _ | .slset _ _ | .slgrow _ _ _ | .slapp _ _ _ | .sbsend _ _ | .sbmrg _ _ _ | .psel _ _ | .kvpk _ _
  | .kvunp _ _ | .nbmode _ _ | .bar _ _ | .bara _ _ | .cbar _ _ | .cbara _ _ | .fence _ | .waitCopy _ | .waitMatrix _
  | .waitGather _ | .waitNearBank _ | .waitCollective _ | .trap _ | .brk | .tretResume | .tretKill | .tretKillgrid
  | .tretHost | .evrd _ _ _ _ _ | .lit _ | .blk _ _ _ _ _ _ | .grd _ _ _ | .live _ | .step _ | .region | .pref _
  | .sched _ _ => []

/-- The registers that one element of an instruction names, moved as R155 says where a BLK repeats it. -/
def elementReads (l : List Source) (blk : Option BlkHint) (i j : Nat) : List Nat :=
  l.flatMap fun x => match blk with
    | none => vRegs x.wide x.code
    | some h =>
      let fixed := match x.role with | .d => h.fd | .a => h.fa | .b => h.fb
      vRegs x.wide (advanceCode fixed (h.rs * i + (if x.wide then 2 else 1) * j) x.code)

/-- The banks of the distinct rows of a group that hold the registers listed. -/
def banksRead (x : Group) (regs : List Nat) : List Nat := regs.eraseDups.filterMap (tabGet x.banks)

/-- Issue cycles beyond the first that one element takes over the home groups of its bundle (R181). -/
def elementExtra (s : State) (gs regs : List Nat) : Nat :=
  let l := gs.flatMap fun g => banksRead (s.group g) regs
  ((List.range 16).map l.count).foldl max 0 - 1

/-- Issue cycles beyond the first of an instruction that some threads issue together (R181): those of its elements.
DEDUCED (log 74), unsafe. -/
def bankExtra (s : State) (ks : List Nat) (i : Instr) : Nat :=
  let gs := (ks.map grpOf).eraseDups
  let blk := ((s.thread (ks.headD 0)).hints.bind (·.blk)).map blkOf
  let elems := match blk with
    | none => [(0, 0)]
    | some h => (List.range h.m).flatMap fun i => (List.range h.n).map fun j => (i, j)
  (elems.map fun e => elementExtra s gs (elementReads (sourcesOf i) blk e.1 e.2)).foldl (· + ·) 0

end Sys2Proof.Machine
end

