-- ==== Sys2Proof/Machine/Pick.lean ====
section
/-! DEFINITION. The choice of what issues (R168 to R171, R173, R178, R416, R450): the bundle of a picker, the Lectern of a
block, the handler context of a core; the fetch and the decoding of the chosen word; and the operations of the device that
are due when no turn is listed. -/

namespace Sys2Proof.Machine

/-! ## Fetch -/

/-- The word at an address in the address space of a block (R135): the word, a page fault's reason, or a poisoned word. -/
def fetchWord (s : State) (b : Nat) (pc : DWord) : Except Nat Word :=
  match readClean s (s.asidOf b) pc .fetch 4 with
  | .ok w => .ok (BitVec.ofNat 32 w)
  | .error (_, r) => .error r

/-- The instruction that a chosen issue executes: the decoded word; a word that is none, or a fetch that faults, is its own
operation (R149). -/
noncomputable def issueInstr (s : State) (b : Nat) (pc : DWord) : Instr :=
  match fetchWord s b pc with
  | .error _ => .fetchFault
  | .ok w => match decode w with
    | .ok i => i
    | .error _ => .illegalInstructionWord w

/-- The issue with its word, or the reason of its fetch fault. -/
def withWord (s : State) (b : Nat) (i : Issue) : Issue :=
  match fetchWord s b i.pc with
  | .ok w => { i with word := w, fetchReason := none }
  | .error r => { i with word := 0, fetchReason := some r }

/-- The word at a position has been read (R454). -/
def fetched (s : State) (b : Nat) (pc : DWord) : State := meets s (s.asidOf b) .fetch [(pc, 4)]

/-- Executes a chosen issue; a poisoned instruction word kills the grid (R455). -/
noncomputable def runIssue (s : State) (b : Nat) (i : Issue) : Res :=
  let j := withWord s b i
  let s1 := { s with issue := j }
  if j.fetchReason = some poisonReason then
    .next (poisonKill s1 (s.block b).gid ((poisonVirt s (s.asidOf b) i.pc .fetch 4).getD 0))
  else exec (issueInstr s b i.pc) s1

/-! ## Ready threads -/

/-- A thread may be tried (R168): it does not wait, nothing holds it, and its group runs. -/
def mayTry (s : State) (k : Nat) (t : Thread) : Bool :=
  let x := s.group (grpOf k)
  t.wait == .none && t.halt == .none && x.cont.isNone && !x.dying && !s.stopped (grpOf k)

/-- Threads of a core that belong to its blocks. -/
def coreThreads (s : State) (c : Nat) : List (Nat × Thread) :=
  s.threads.filter fun e => coreOfG (grpOf e.1) == c && !isHandler (grpOf e.1)

/-- A bucket (R169): its context, program counter, the first word of the hint group carried, and its ready threads. -/
structure Bucket where
  ctx : Nat
  pc : DWord
  hint : Option DWord
  ready : List (Nat × Thread)
  deriving DecidableEq, Repr

/-- Puts a thread into its bucket. -/
def putBucket (ctx : Nat) (e : Nat × Thread) : List Bucket → List Bucket
  | [] => [{ ctx := ctx, pc := e.2.pc, hint := e.2.hints.map (·.start), ready := [e] }]
  | b :: bs =>
    if b.ctx = ctx ∧ b.pc = e.2.pc ∧ b.hint = e.2.hints.map (·.start) then { b with ready := b.ready ++ [e] } :: bs
    else b :: putBucket ctx e bs

/-- A thread is ready, as the pick in progress has found it, and no earlier picker of the cycle has taken it (R168, R170). -/
def isReady (s : State) (c k : Nat) (t : Thread) : Bool := mayTry s k t && !t.notReady && !(s.core c).taken.contains k

/-- The buckets of a core with a ready thread (R169). -/
def bucketsOf (s : State) (c : Nat) : List Bucket :=
  ((coreThreads s c).filter fun e => e.2.run.isNone && isReady s c e.1 e.2).foldl
    (fun bs e => putBucket ((s.group (grpOf e.1)).blk % 16) e bs) []

/-- The cycle since which the longest-waiting thread of a bucket has waited. -/
def Bucket.oldest (b : Bucket) (now : Nat) : Nat := leastOf now (b.ready.map (·.2.since))

/-- The order of R170 as a key, in a cycle of the core. -/
def Bucket.key (now : Nat) (b : Bucket) : List Nat :=
  let old := b.oldest now
  let aged := decide (4096 ≤ now - old)
  [if aged then 0 else 1, if aged then old else 0, 2 ^ 32 - b.ready.length, old, b.ctx, b.pc.toNat,
   if b.hint.isSome then 1 else 0, (b.hint.getD 0).toNat]

/-- For each lane position the thread ready longest, the lower slot on a tie (R170). -/
def Bucket.bundle (b : Bucket) : List Nat :=
  (List.range 32).filterMap fun l =>
    (firstBy (fun e : Nat × Thread => [e.2.since, grpOf e.1]) (b.ready.filter fun e => laneOf e.1 == l)).map (·.1)

/-- What a bucket offers: its bundle; and where the rows of the core do not suffice for all of it, its threads of one group at one
uniform position, then its single threads (R168, R170, R178). -/
def Bucket.tries (b : Bucket) : List (List Nat) :=
  let mine := b.ready.filter fun e => b.bundle.contains e.1
  let sort := fun e : Nat × Thread => (grpOf e.1, e.2.upos)
  let kinds := (mine.map sort).eraseDups
  let alike := if kinds.length ≤ 1 then [] else kinds.map fun x => (mine.filter fun e => sort e == x).map (·.1)
  let single := if b.bundle.length ≤ 1 then [] else b.bundle.map fun k => [k]
  b.bundle :: (alike ++ single)

/-- The issue of a bundle on a core. -/
def bundleIssue (s : State) (c : Nat) (ks : List Nat) : Issue :=
  let k := ks.headD 0
  { agent := .threads, core := c, ctx := (s.group (grpOf k)).blk % 16, pc := (s.thread k).pc, members := ks }

/-- Open runs whose every member is ready: they come before every bucket (R171). -/
def readyRuns (s : State) (c : Nat) : List (List Nat) :=
  (s.core c).runs.filter fun r => r.all fun k => match tabGet s.threads k with
    | some t => isReady s c k t
    | none => false

/-- A picker that holds no open run is left in the cycle (R170, R171). -/
def pickerLeft (s : State) (c : Nat) : Bool :=
  let x := s.core c
  decide (x.picks + (x.runs.filter fun r => !(r.any x.taken.contains)).length < 4)

/-- What the pickers of a core may try, in order (R170, R171): each run, then each bucket with its parts. -/
def candidateIssues (s : State) (c : Nat) : List (List Issue) :=
  let buckets := if pickerLeft s c then sortBy (fun a b => keyLess (a.key (s.core c).cycle) (b.key (s.core c).cycle)) (bucketsOf s c) else []
  (((readyRuns s c).map fun r => [r]) ++ buckets.map Bucket.tries).map fun l => l.map (bundleIssue s c)

/-! ## Trying an issue -/

/-- The members before they issue: what kept them from issuing is over; where their word can be fetched the bundle counts, and
their block has started (R119), which no word of a handler context makes it. -/
def prepare (s : State) (i : Issue) : State :=
  let clear := fun (_ : Nat) (t : Thread) => { t with notReady := false, stalled := none }
  let s1 := fetched { s with threads := tabOver s.threads i.members clear } (bKey i.core i.ctx) i.pc
  match fetchWord s (bKey i.core i.ctx) i.pc with
  | .error _ => s1
  | .ok _ => (countCore (countCore s1 i.core 2 1) i.core 3 i.members.length).modBlock (bKey i.core i.ctx) fun x =>
      { x with started := x.started || !isHandler (grpOf (i.members.headD 0)) }

/-- A hint word counts for source 4 of R468. -/
def countHint (s : State) (i : Issue) : State :=
  if hintOpcode (opcodeOf i.word.toNat) then countCore s i.core 4 1 else s

/-- The issue cycles that an issue takes beyond the first count for source 5 of R468 (R181); `s` is the state it issues in. -/
noncomputable def countBanks (s : State) (i : Issue) (s2 : State) : State :=
  match decode s2.issue.word with
  | .ok j => if i.agent = .threads && bankExtra s i.members j != 0 then countCore s2 i.core 5 (bankExtra s i.members j) else s2
  | .error _ => s2

/-- Some member has changed: the instruction issued for it, or a trap or a kill reached it. -/
def progressed (s s2 : State) (i : Issue) : Bool := i.members.any fun k => tabGet s2.threads k != tabGet s.threads k

/-- Rows that the groups of a core hold, reserved and lent. -/
def rowsUsed (s : State) (c : Nat) : Nat := rowsReserved s c + rowsLent s c

/-- A group of the core that is not in the bundle has waited longer for a row: it takes the next one (R178). -/
def waitsLonger (s : State) (i : Issue) : Bool :=
  let gs := i.members.map grpOf
  let mine := (i.members.filterMap fun k => (s.thread k).stalled.map (·.1)).foldl min s.tick
  (coreThreads s i.core).any fun e => !gs.contains (grpOf e.1) && mayTry s e.1 e.2 &&
    (match e.2.stalled with | some (since, _) => decide (since < mine) | none => false)

/-- The rows that an issue would take from the pool are not to be had (R113, R178). -/
def rowsLack (s s2 : State) (i : Issue) : Bool :=
  decide (rowsLent s i.core < rowsLent s2 i.core) && (decide (2048 < rowsUsed s2 i.core) || waitsLonger s i)

/-- Rows and Hatstand entries suffice for an issue (R178, R450). -/
def roomFor (s s2 : State) (i : Issue) : Bool :=
  !rowsLack s s2 i && decide ((s2.core i.core).hats.length ≤ max 16 (s.core i.core).hats.length)

/-- What keeps an issue from taking effect (R168): nothing; or the rows that it lacks, 0 where it is something else. -/
noncomputable def lacks (s : State) (i : Issue) : Option Nat :=
  match runIssue (prepare s i) (bKey i.core i.ctx) i with
  | .next s2 =>
    if !progressed (prepare s i) s2 i then some 0
    else if rowsLack s s2 i then some (rowsLent s2 i.core - rowsLent s i.core)
    else if roomFor s s2 i then none else some 0
  | _ => none

/-- Every live thread of a thread's group stands in its bucket. -/
def groupHere (s : State) (k : Nat) : Bool :=
  let t := s.thread k
  (s.liveOf (grpOf k)).all fun j =>
    let u := s.thread j
    mayTry s j u && u.pc == t.pc && u.hints.map (·.start) == t.hints.map (·.start)

/-- A thread by itself would only wait for the rest of its group (R305, R448). -/
noncomputable def wouldGather (s : State) (i : Issue) (k : Nat) : Bool :=
  match runIssue (prepare s i) (bKey i.core i.ctx) i with
  | .next s2 => (match (s2.thread k).wait with | .whole _ => true | _ => false)
  | _ => false

/-- What keeps a thread from being ready (R168): its instruction is tried for it alone, and one that its gathered group issues
together for the group (R305, R448, R450). -/
noncomputable def notReadyFor (s : State) (c k : Nat) : Option Nat :=
  let i := bundleIssue s c [k]
  match lacks s i with
  | some n => some n
  | none => if wouldGather s i k && groupHere s k then lacks s (bundleIssue s c (s.liveOf (grpOf k))) else none

/-- A thread as the pick at a tick, in a cycle, finds it (R168, R170, R179). One that may take the row for which it has stalled keeps
its turn until it issues (R178). -/
def Thread.found (t : Thread) (tick now : Nat) : Option Nat → Thread
  | none => { t with notReady := false, since := if t.notReady then now else t.since }
  | some n => { t with notReady := true, stalled := if n = 0 then none else some ((t.stalled.map (·.1)).getD tick, n) }

/-- Finds which threads of a core are ready (R168). -/
noncomputable def findReady (s : State) (c : Nat) : State :=
  let ks := ((coreThreads s c).filter fun e => mayTry s e.1 e.2 && !(s.core c).taken.contains e.1).map (·.1)
  { s with threads := tabOver s.threads ks fun k t => t.found s.tick (s.core c).cycle (notReadyFor s c k) }

/-- The members of an issue are taken by a picker (R170); after the fourth a cycle begins. -/
def takeThreads (s : State) (c : Nat) (ks : List Nat) : State :=
  let x := s.core c
  s.setCore c (if x.picks = 3 then { x with cycle := x.cycle + 1, picks := 0, taken := [] } else { x with picks := x.picks + 1, taken := x.taken ++ ks })

/-- What the pickers that come after one in its cycle take (R170). -/
def mates (c : Nat) : Nat → State → List Issue
  | 0, _ => []
  | n + 1, s =>
    match (candidateIssues s c).head?.bind List.head? with
    | none => []
    | some i =>
      let x := s.core c
      i :: mates c n (s.setCore c { x with picks := x.picks + 1, taken := x.taken ++ i.members })

/-- The bundles that issue in one cycle with an issue, after it. -/
def matesOf (s : State) (c : Nat) (i : Issue) : List Issue :=
  let x := s.core c
  mates c (3 - x.picks) (s.setCore c { x with picks := x.picks + 1, taken := x.taken ++ i.members })

/-- A BRK raises one stop with the BRKs of its block that issue in its cycle (R422): those whose hints bar nothing. -/
def withBreaks (s : State) (c : Nat) (i : Issue) : Issue :=
  let brk := fun j : Issue => match fetchWord s (bKey j.core j.ctx) j.pc with
    | .ok w => w == 0xD1000000 && (hintChecks (s.thread (j.members.headD 0)) false false false).all fun x => !x.2
    | .error _ => false
  if brk i then { i with members := i.members ++ ((matesOf s c i).filter fun j => j.ctx == i.ctx && brk j).flatMap (·.members) } else i

/-- A group that has trapped takes no other trap of its cycle: the threads of the other trapping bundles are treated as those of
LANES (R407). A debug stop is no trap of a group (R422). -/
noncomputable def joinTraps (s : State) (c : Nat) (i : Issue) (s2 : State) : State :=
  let gs := (i.members.map grpOf).eraseDups.filter fun g => (s2.records.any fun r => !r.block && r.names s2 g) && !s.stopped g
  if gs.isEmpty then s2
  else (matesOf s c i).foldl (fun u j =>
    if j.members.any fun k => gs.contains (grpOf k) then
      match runIssue (prepare s j) (bKey j.core j.ctx) j with
      | .next s3 => (j.members.filter fun k => gs.contains (grpOf k) && (s3.thread k).restart).foldl (fun u k =>
          u.modThread k fun t => { t with restart := true }) u
      | _ => u
    else u) s2

/-- Tries the issues of a run or a bucket in order: the first that moves some member and has room is the step. -/
noncomputable def tryEach (done : Issue → State → State) (s : State) : List Issue → Option Res
  | [] => none
  | i :: is =>
    match runIssue (prepare s i) (bKey i.core i.ctx) i with
    | .next s2 =>
      if progressed (prepare s i) s2 i && roomFor s s2 i then some (.next (countBanks s i (countHint (done i s2) s2.issue)))
      else tryEach done s is
    | r => some r

/-- One picker's turn in the cycle of its core (R170), if any that is left can issue; the state has its ready threads marked. -/
noncomputable def pickOne (c : Nat) (s : State) : Option Res :=
  (candidateIssues s c).findSome? fun is =>
    tryEach (fun i s2 => takeThreads (joinTraps s c i s2) c i.members) s (is.map (withBreaks s c))

/-- A cycle begins (R170). -/
def newCycle (s : State) (c : Nat) : State :=
  s.setCore c { s.core c with cycle := (s.core c).cycle + 1, picks := 0, taken := [] }

/-- A picker's turn on a core in service, with its die serving (R170, R457, R471). DEDUCED (log 39), safe. -/
noncomputable def pickStep (c : Nat) (s : State) : Res :=
  if Config.cores ≤ c then .fault .noSuchUnit
  else if !coreServes s c then .next s
  else
    let s1 := findReady s c
    match pickOne c s1 with
    | some r => r
    | none =>
      -- nothing is left for the pickers of this cycle: the next one begins
      let s2 := findReady (newCycle s1 c) c
      if (s.core c).picks = 0 ∧ (s.core c).taken = [] then .next (newCycle s1 c) else (pickOne c s2).getD (.next s2)

/-! ## The handler context -/

/-- The handler context's next issue, when it may issue (R416). -/
def handlerIssue (s : State) (c : Nat) : Option Issue :=
  let k := tKey (gKey c 64) 0
  match tabGet s.threads k with
  | none => none
  | some t =>
    let x := s.group (gKey c 64)
    if (s.core c).handling && t.wait == .none then
      some { agent := .threads, core := c, ctx := x.blk % 16, pc := t.pc, members := [k] }
    else none

/-- A step of a handler context. -/
noncomputable def handlerStep (c : Nat) (s : State) : Res :=
  if Config.cores ≤ c then .fault .noSuchUnit
  else match handlerIssue s c with
  | none => .next s
  | some i => (tryEach (fun _ s2 => s2) s [i]).getD (.next s)

/-! ## The Lectern -/

/-- The Lectern may execute a word (R173, R318, R405, R427, R436, R439). -/
def lectReady (s : State) (b : Nat) : Bool :=
  match tabGet s.blocks b with
  | none => false
  | some x =>
    let running := (s.liveOfBlock b).any fun k => (s.thread k).halt == .none
    let cutHolds := match (s.grid x.gid).hold with | .none => false | .hold => false | _ => !running
    -- in a migration it steps over what comes before its next uniform-stream instruction (R439)
    let walks := match x.saving with | some v => v.kind == 3 && !lectSettled s b | none => false
    !x.lect.ended && !x.lect.stuck && x.lect.wait == .none && !s.lectStopped b &&
      (walks || (x.saving.isNone && !cutHolds && decide (x.dq.length < 64))) && !(x.cmds.any fun c => c.split || c.state == .withdrawn) && !(s.liveOfBlock b).isEmpty

/-- The Lectern's issue. -/
def lectIssue (s : State) (c ctx : Nat) : Issue :=
  { agent := .lectern, core := c, ctx := ctx, pc := (s.block (bKey c ctx)).lect.pc, members := [] }

/-- A step of a Lectern. -/
noncomputable def lectStep (c ctx : Nat) (s : State) : Res :=
  if Config.cores ≤ c ∨ 16 ≤ ctx then .fault .noSuchUnit
  else if lectReady s (bKey c ctx) && coreServes s c then
    runIssue (fetched s (bKey c ctx) (lectIssue s c ctx).pc) (bKey c ctx) (lectIssue s c ctx)
  else .next s

/-! ## What is due -/

/-- Group completions that may be due. -/
def groupOps (s : State) : List Instr :=
  s.groups.flatMap fun e =>
    let parts : List (List Instr) := [
      if e.2.loads.isEmpty then [] else [.loadComplete e.1 0], if e.2.atomics.isEmpty then [] else [.atomicComplete e.1 0],
      if e.2.nGather = 0 then [] else [.writeComplete e.1], if e.2.mma.isNone then [] else [.mmaComplete e.1],
      [.joinPass e.1, .joinDeadlockDetect e.1]]
    parts.flatten

/-- Writes of retired groups that may be due. -/
def hatOps (s : State) : List Instr :=
  s.cores.flatMap fun e => (e.2.hats.filter fun h => h.gather != 0).map fun h => .writeComplete (gKey e.1 h.slot)

/-- Block operations that may be due. -/
def blockOps (s : State) : List Instr :=
  s.blocks.flatMap fun e =>
    let r := (s.grid e.2.gid).launch
    let parts : List (List Instr) := [
      [.ugetCombine e.1, .postAct e.1, .syncCommandStart e.1],
      (e.2.cmds.filter fun c => c.kind == .fill).map fun c => .tileFillLanded e.1 c.dst,
      (e.2.cmds.filter fun c => c.kind == .drain).map fun c => .tileDrainDone e.1 c.dst,
      [.copyCommandComplete e.1, .mmatStart e.1, .mmatComplete e.1, .copyFault e.1],
      (List.range r.nBar).map fun n => .barrierPhaseComplete e.1 false n,
      if e.2.cluster.isSome then (List.range r.nCBar).map fun n => .barrierPhaseComplete e.1 true n else [],
      if e.2.saving.isSome then [.saveImageWrite e.1] else [], [.blockComplete e.1]]
    parts.flatten

/-- Operations of the device, of grids and of queues that may be due. DEDUCED (log 7), safe. -/
def deviceOps (s : State) : List Instr :=
  let parts : List (List Instr) := [
    (s.banks.filter fun e => !e.2.queue.isEmpty).map fun e => .bankCommandExecute e.1,
    (s.clusters.filter fun e => e.2.channel.isSome).map fun e => .sideboardFold (e.1 / 2 ^ 64) (e.1 % 2 ^ 64),
    (s.cores.filter fun e => !e.2.handling).map fun e => .handlerStart e.1,
    (List.range s.relocs.length).map fun n => .slabChunkMove n,
    s.grids.flatMap fun e => [.cutReduction e.1, .cutComplete e.1, .gridComplete e.1],
    (List.range 64).map fun a => .invalidationComplete a,
    s.queues.map fun e => .queueEntryTake (e.1 / 64) (e.1 % 64),
    s.cores.map fun e => .localCardCheck e.1,
    (List.range (max s.saved.length (if (contsDue s).isEmpty then 0 else 1))).map fun n => .restore n,
    (List.range s.migrations.length).map fun n => .migrationPlace n,
    match nextPlacement s with
      | some (.head g, d, cs) => if (s.grid g).launch.kind = 1 then [.clusterPlace d] else [.blockPlace (cs.headD 0)]
      | _ => [],
    if s.mgmt.placer.moves.isEmpty && s.mgmt.placer.moving.isNone then [] else [.pageMove],
    (List.range 12).map fun n => .mapoutFrameCopy n,
    if s.mgmt.attest.go then [.attestSignDone] else []]
  parts.flatten

/-- The core that an operation acts for: its translation caches serve it (R128). -/
def actingCore (s : State) (i : Instr) : Nat :=
  match i with
  | .loadComplete g _ | .atomicComplete g _ | .writeComplete g | .mmaComplete g | .joinPass g | .joinDeadlockDetect g => coreOfG g
  | .ugetCombine b | .postAct b | .syncCommandStart b | .copyCommandComplete b | .mmatStart b | .mmatComplete b | .copyFault b
  | .saveImageWrite b | .tileFillLanded b _ | .tileDrainDone b _ | .barrierPhaseComplete b _ _ | .blockComplete b => coreOfB b
  | .slabChunkMove n => ((s.relocs[n]?).map (·.core)).getD 0
  | .handlerStart c => c
  | .blockPlace c => c
  | .localCardCheck c => c
  | _ => 0

/-- The state in which an operation of the device runs: no word has issued. -/
def forDevice (s : State) (i : Instr) : State := { s with issue := { core := actingCore s i } }

/-- Cores without the numbers of their cycles. -/
def timeless (t : Tab Core) : Tab Core := (t.map fun e => (e.1, { e.2 with cycle := 0 })).filter fun e => e.2 != {}

/-- A turn would change the state beyond the model's own counters and the numbers of cycles. -/
def changes (s s2 : State) : Bool :=
  decide ({ s2 with fresh := s.fresh, issue := s.issue, cores := timeless s2.cores } ≠ { s with cores := timeless s.cores })

/-- The first operation of a list that changes the state, done. -/
def firstDue (s : State) : List Instr → Option State
  | [] => none
  | i :: is => match exec i (forDevice s i) with
    | .next s2 => if changes s s2 then some s2 else firstDue s is
    | _ => firstDue s is

/-- The first agent of a list whose step changes the state. -/
noncomputable def firstAgent (s : State) : List (State → Res) → Option State
  | [] => none
  | f :: fs => match f s with
    | .next s2 => if changes s s2 then some s2 else firstAgent s fs
    | _ => firstAgent s fs

/-- What happens when no turn is listed: the first operation that is due; else a Lectern, a handler context or a picker;
else nothing. -/
noncomputable def idleStep (s : State) : State :=
  match firstDue s (groupOps s ++ hatOps s ++ blockOps s ++ deviceOps s) with
  | some s2 => s2
  | none =>
    let lecterns := s.blocks.map fun e => lectStep (coreOfB e.1) (e.1 % 16)
    let handlers := (s.cores.filter fun e => e.2.handling).map fun e => handlerStep e.1
    let pickers := ((s.blocks.map fun e => coreOfB e.1).eraseDups).map pickStep
    (firstAgent s (lecterns ++ handlers ++ pickers)).getD s

/-! ## Turns -/

/-- An operation of the device or of the host: no instruction word encodes it, and no fetch raises it. -/
def ofDevice (i : Instr) : Bool :=
  match i with
  | .illegalInstructionWord _ => false
  | .fetchFault => false
  | i => (encode i).isNone

/-- What a turn does: an instruction word runs only where an agent fetches it. -/
noncomputable def runTurn (t : Turn) (s : State) : Res :=
  match t with
  | .device i => if ofDevice i then exec i (forDevice s i) else .next s
  | .pick c => pickStep c s
  | .lectern c ctx => lectStep c ctx s
  | .handler c => handlerStep c s

/-- What happens between the turns: time passes, errors in storage cells are met, killed groups retire, rows find their banks,
reservations are granted, and threads that reach the position where a save takes them stop. -/
def betweenTurns (s : State) : State :=
  settleHolds (grantReservations (retireDying (meetCells (placeRows { s with tick := s.tick + 1 }))))

/-- A step: what happens between the turns, and the next turn acts; with no turn listed, what is due happens. -/
noncomputable def stepOnce (s : State) : Res :=
  match s.turns with
  | [] => .next (idleStep (betweenTurns s))
  | t :: ts => runTurn t { betweenTurns s with turns := ts }

end Sys2Proof.Machine
end

