-- ==== Sys2Proof/Machine/Load.lean ====
section
/-! DEFINITION. A program of one instruction, loaded from outside: a package in full service, an address space that maps
its first GiB onto the first GiB of stack 0, and a grid of one block of one thread at the word. -/

namespace Sys2Proof.Machine

/-- Physical and virtual address of the loaded word: the first code word of both bodies. -/
def loadAddr : Nat := 0x100080

/-- The global core that runs a word: one of a CD7 die, or of a CD6 die for the double class (R13, R14). -/
def loadCore (op : Nat) : Nat := if classOf op = .double then 240 else 0

/-- The launch record of the loaded grid. -/
def loadLaunch : Launch :=
  { dieMask := 0xFF, body7 := BitVec.ofNat 64 (loadAddr - 128), body6 := BitVec.ofNat 64 (loadAddr - 128)
    gridX := 1, gridY := 1, gridZ := 1, nTile := 64, regBase := 96, regMax := 96, shmem := 320, nBar := 16
    trapArea := 0x200000, trapN := 16 }

/-- The page tables of address space 0 from physical 0x1000: three levels, then a leaf of 1 GiB with W and X (R124,
R125). -/
def loadTables (m : Bytes) : Bytes :=
  bytesSet (bytesSet (bytesSet m 0x1000 8 0x2001) 0x2000 8 0x3001) 0x3000 8 0xF

/-- The package in full service: every die in service, the slots of stack 0 usable, address space 0 in use. -/
def loadMgmt (m : Mgmt) : Mgmt :=
  let serve := fun d : Die => { d with st := 1, off := false, coreOff := 0 }
  let hbm := match m.hbm with
    | [] => [({ cap := 16 } : Stack)]
    | x :: xs => { x with cap := 16 } :: xs
  { m with devState := .full, dies := m.dies.map serve, hbm := hbm }

/-- Loads a word for the next step to run: at a thread's position, or at the Lectern for a word of the uniform stream. -/
def loadWord (s : State) (w : Word) : State :=
  let op := w.toNat / 2 ^ 24
  let core := loadCore op
  let gid := s.nextGrid
  let b := bKey core 0
  let pc := BitVec.ofNat 64 loadAddr
  let space : Space := { root := 0x1000, en := true }
  let block : Block := { gid := gid, slots := [0], lect := { pc := pc } }
  let elsewhere := fun (k : Nat) => coreOfB k != core
  { s with
    mgmt := loadMgmt s.mgmt
    host := { s.host with spaces := tabSet s.host.spaces 0 space }
    mem := bytesSet (loadTables s.mem) loadAddr 4 w.toNat
    poison := s.poison.filter fun a => 0x4000 ≤ a && a != loadAddr
    tlb := []
    upsets := tabDrop s.upsets core
    cells := []
    grids := tabSet s.grids gid { launch := loadLaunch, stage := .eligible, nextBlock := 1 }
    nextGrid := gid + 1
    cores := tabDrop s.cores core
    blocks := tabSet (tabKeep s.blocks fun k _ => elsewhere k) b block
    groups := tabSet (tabKeep s.groups fun k _ => coreOfG k != core) (gKey core 0) { blk := b }
    threads := tabSet (tabKeep s.threads fun k _ => coreOfG (grpOf k) != core) (tKey (gKey core 0) 0)
      { pc := pc, rentry := pc }
    turns := [if uniformOpcode op then .lectern core 0 else .pick core] }

end Sys2Proof.Machine
end

