-- ==== Sys2Proof/Machine/Step.lean ====
section
/-! DEFINITION. One step of the machine, and the state in which the next step runs a given word. -/

namespace Sys2Proof.Machine

/-- One step: the next turn acts, or, with no turn listed, the first thing that is due. -/
noncomputable def step (s : State) : Host.Outcome State Fault Refusal := stepOnce s

/-- The state in which the next step fetches and runs the instruction word of `nbits` bits `w`: no LNI word reaches a core
but by a launch, so the word is loaded with a grid of one thread at it. DESIGN CHOICE (log 10), safe. -/
def State.withFetchWord (s : State) (nbits w : Nat) : State := loadWord s (BitVec.ofNat 32 (w % 2 ^ nbits))

end Sys2Proof.Machine
end

