-- ==== Sys2Proof/Safety.lean ====
section
/-! DEFINITION. The terms in which claims are made: a state whose memory and management registers are in order; a bundle
that issues; operand fields that pass the checks of R149; and what an instruction leaves as it was. -/

namespace Sys2Proof.Machine

/-! ## Safe states and runs -/

/-- A byte store is in its canonical form. -/
abbrev memoryWf (m : Bytes) : Prop := bytesWf m = true

/-- The package has its eight dies and twelve stacks (R13, R20), and the scrub period lies within R465. -/
def Mgmt.legal (m : Mgmt) : Bool :=
  m.dies.length == 8 && m.hbm.length == 12 && decide (1 ≤ m.scrub.period) && decide (m.scrub.period ≤ 48)

/-- A state whose memory and management registers are in order. -/
def State.wf (s : State) : Prop := memoryWf s.mem ∧ s.mgmt.legal = true

/-- A run of n steps that never stops. -/
noncomputable def runs : Nat → State → Prop
  | 0, _ => True
  | n + 1, s => ∃ t, step s = .next t ∧ runs n t

/-! ## A bundle that issues -/

/-- A picker issues a bundle on a die that holds the class of the instruction (R149, R169). -/
structure Runs (s : State) (c : Class) : Prop where
  threads : s.issue.agent = .threads
  some : s.issue.members ≠ []
  die : c.onDie (Config.dieOfCore (coreOfG s.leadGroup)) = true

/-- A live thread of the bundle. -/
def State.issues (s : State) (k : Nat) : Prop := k ∈ s.issue.members ∧ (tabGet s.threads k).isSome

/-- The hint group binds no BLK: the instruction runs as one element (R155). -/
def NoBlk (s : State) : Prop := s.lead.hints.bind (·.blk) = none

/-- The hint group binds no LIT (R154). -/
def NoLit (s : State) : Prop := s.lead.lit = none

/-- A source field passes the checks of R139 and R141 to R143, and its value is there (R168). -/
structure SrcOk (s : State) (f : BitVec 8) (wide : Bool) : Prop where
  reg : codeOf f < 96 → codeOf f < s.regMax
  pair : codeOf f < 96 → wide = true → codeOf f % 2 = 0 ∧ codeOf f + 1 < s.regMax
  last : 96 ≤ codeOf f → lastOf f = false
  latch : 96 ≤ codeOf f → codeOf f < 100 → (s.lead.latch (codeOf f - 96)).isSome
  uniform : 100 ≤ codeOf f → codeOf f < 116 →
    ∀ k ∈ s.issue.members, ((s.blockOf (grpOf k)).qView (viewPos s k (s.thread k)) (codeOf f - 100)).isSome
  free : srcHeld s wide (codeOf f) = false

/-- A destination field with its W bit passes the checks of R138 and R141, and no result on its way writes it (R168, R306). -/
structure DstOk (s : State) (d : BitVec 7) (w : BitVec 1) (wide : Bool) : Prop where
  latch : w = 1 → d = 0
  reg : w = 0 → d.toNat < 96 ∧ d.toNat < s.regMax
  pair : w = 0 → wide = true → d.toNat % 2 = 0 ∧ d.toNat + 1 < s.regMax
  free : w = 0 → dstHeld s wide d.toNat = false

/-- The 32-bit value that a source field gives a thread. -/
def State.word (s : State) (f : BitVec 8) (k : Nat) : Word := (srcValue s k (s.thread k) false (codeOf f)).setWidth 32

/-- The 64-bit value that a source field gives a thread. -/
def State.dword (s : State) (f : BitVec 8) (k : Nat) : DWord := srcValue s k (s.thread k) true (codeOf f)

/-- The v registers that a destination names. -/
def dstRegs (d : BitVec 7) (w : BitVec 1) (wide : Bool) : List Nat :=
  if w = 1 then [] else if wide then [d.toNat, d.toNat + 1] else [d.toNat]

/-- The v registers that a source field releases by its last-use bit (R142). -/
def freedRegs (f : BitVec 8) (wide : Bool) : List Nat :=
  if lastOf f then vRegs wide (codeOf f) else []

/-! ## What an instruction leaves as it was -/

/-- A thread but for its program counter, its v registers, its predicates, its generator state, and what every issue
renews: the bound hints, the latch run, the span's count and the age. -/
def Thread.rest (t : Thread) : Thread :=
  { t with pc := 0, v := [], p := 0, gen := 0, hints := none, run := none, span := none, since := 0 }

/-- A group but for its mapped registers with their banks, their shadows and tags, and FSTAT. -/
def Group.rest (x : Group) : Group := { x with rows := [], banks := [], shadows := [], tags := [], fstat := 0 }

/-- A core but for the latch runs that its pickers hold. -/
def Core.rest (c : Core) : Core := { c with runs := [] }

/-- A state but for its threads, groups and cores: memory, registers of the device, grids, blocks, queues, records. -/
def State.rest (s : State) : State := { s with threads := [], groups := [], cores := [] }

/-- A register instruction has completed for a bundle: every member stands at the next word; only the registers `dst`
and the released ones differ, and only in the members; nothing else but what an issue renews has changed. -/
structure Completed (s t : State) (dst freed : List Nat) : Prop where
  rest : t.rest = s.rest
  cores : ∀ c, (t.core c).rest = (s.core c).rest
  groups : ∀ g, (t.group g).rest = (s.group g).rest
  others : ∀ k, k ∉ s.issue.members → tabGet t.threads k = tabGet s.threads k
  pc : ∀ k, s.issues k → (t.thread k).pc = (s.thread k).pc + 4
  threads : ∀ k, (t.thread k).rest = (s.thread k).rest
  regs : ∀ k, s.issues k → ∀ n, n ∉ dst → n ∉ freed → (t.thread k).reg n = (s.thread k).reg n

/-- No flag of FSTAT has changed (R62). -/
def SameFlags (s t : State) : Prop := ∀ g, (t.group g).fstat = (s.group g).fstat

/-- No generator state has changed (R74). -/
def SameGens (s t : State) : Prop := ∀ k, (t.thread k).gen = (s.thread k).gen

/-- No predicate has changed. -/
def SamePreds (s t : State) : Prop := ∀ k, (t.thread k).p = (s.thread k).p

/-- No flag, generator or predicate has changed. -/
structure Quiet (s t : State) : Prop where
  flags : SameFlags s t
  gens : SameGens s t
  preds : SamePreds s t

/-- Every enabled member's predicate n holds `x`, unless n is 0; every other predicate, and every one of a disabled member,
is unchanged (R10, R138, R156). -/
structure GivesPred (s t : State) (n : Nat) (x : Nat → Bool) : Prop where
  value : ∀ k, s.issues k → (s.thread k).enabled = true → n ≠ 0 → (t.thread k).pred n = x k
  zero : ∀ k, (t.thread k).pred 0 = (s.thread k).pred 0
  other : ∀ k m, m ≠ n → (t.thread k).pred m = (s.thread k).pred m
  disabled : ∀ k, (s.thread k).enabled = false → (t.thread k).p = (s.thread k).p

/-- Where a member's latch run is open, or W = 1 opens one, and the instruction does not end it, `x` holds of the value in the
member's youngest latch (R143). -/
def Latches (s t : State) (w : BitVec 1) (x : Nat → DWord → Prop) : Prop :=
  ∀ k, s.issues k → (w = 1 ∨ (s.thread k).run.isSome = true) → ((s.thread k).run.getD []).length < 4 →
    ∃ l, (t.thread k).latch 0 = some l ∧ x k l.value

/-- Every enabled member's 32-bit destination, unless W = 1, holds `x`, and so does its latch; a disabled member's registers are
unchanged, and its latch is zero (R143, R204). -/
structure Gives (s t : State) (d : BitVec 7) (w : BitVec 1) (x : Nat → Word) : Prop where
  value : ∀ k, s.issues k → (s.thread k).enabled = true → w = 0 → (t.thread k).reg d.toNat = x k
  disabled : ∀ k, s.issues k → (s.thread k).enabled = false → (t.thread k).v = (s.thread k).v
  latch : Latches s t w fun k v => v.setWidth 32 = if (s.thread k).enabled then x k else 0

/-- The same for a 64-bit destination. -/
structure GivesPair (s t : State) (d : BitVec 7) (w : BitVec 1) (x : Nat → DWord) : Prop where
  value : ∀ k, s.issues k → (s.thread k).enabled = true → w = 0 → (t.thread k).pair d.toNat = x k
  disabled : ∀ k, s.issues k → (s.thread k).enabled = false → (t.thread k).v = (s.thread k).v
  latch : Latches s t w fun k v => v = if (s.thread k).enabled then x k else 0

end Sys2Proof.Machine
end

