-- ==== Sys2Proof/WellFormed.lean ====
section
/-! DEFINITION. Well-formed instructions: the operand fields of a word obey R138 and R142, which no state can change, and an
operation of the device names a unit that the package has (R13 to R21, R25, R95, R122). -/

namespace Sys2Proof

/-- Opcodes with a per-thread destination DST [23:17] and W [16] (R137, R146). -/
def hasDst (op : Nat) : Bool :=
  (decide (0x01 ≤ op) && decide (op ≤ 0x3B)) || op == 0x42 || op == 0x58 || op == 0x59 || op == 0x5B ||
    (decide (0x60 ≤ op) && decide (op ≤ 0x6D)) || (decide (0x70 ≤ op) && decide (op ≤ 0x7C)) || op == 0x7E || op == 0x7F ||
    (decide (0x80 ≤ op) && decide (op ≤ 0x85)) || op == 0x8A || op == 0x8B || op == 0x8C || op == 0x8E ||
    op == 0x90 || op == 0x92 || op == 0x95 || op == 0x9C || op == 0x9E || op == 0xAA || op == 0xD3 || op == 0xD5

/-- Opcodes with an 8-bit source field at [15:8] that holds an operand code (R137, R146). -/
def hasSrcA (op : Nat) : Bool :=
  (decide (0x01 ≤ op) && decide (op ≤ 0x40)) || op == 0x42 || op == 0x4B || op == 0x4D || op == 0x53 || op == 0x58 ||
    op == 0x59 || op == 0x5A || (decide (0x60 ≤ op) && decide (op ≤ 0x94)) || (decide (0x9C ≤ op) && decide (op ≤ 0x9F)) ||
    op == 0xAA || op == 0xD3 || op == 0xD4

/-- Opcodes of format R or C with a second source field at [7:0]: the register forms below 0x40 stand at even numbers
(R137, R146). -/
def hasSrcB (op : Nat) : Bool :=
  (decide (0x02 ≤ op) && decide (op ≤ 0x3E) && op % 2 == 0) || op == 0x40 || op == 0x42 || op == 0x5A ||
    (decide (0x60 ≤ op) && decide (op ≤ 0x6B)) || op == 0x6E || op == 0x6F || op == 0x75 ||
    (decide (0x78 ≤ op) && decide (op ≤ 0x7B)) || op == 0x7D

/-- DST is 0 to 95, or 0 where W = 1 (R138). -/
def dstOk (w : Word) : Bool :=
  if field w 16 1 = 1 then field w 17 7 == 0 else decide ((field w 17 7).toNat < 96)

/-- A last-use bit stands only on a v register (R142). -/
def srcOk (f : BitVec 8) : Bool := !(f.getLsbD 7 && decide (96 ≤ f.toNat % 128))

/-- The operand fields of a word. -/
def wordOk (w : Word) : Bool :=
  let op := (opcodeOf w).toNat
  (!hasDst op || dstOk w) && (!hasSrcA op || srcOk (field w 8 8)) && (!hasSrcB op || srcOk (field w 0 8))

/-- The units that an operation of the device names exist. -/
def unitsOk : Instr → Bool
  | .registerWrite off size _ => (size == 4 || size == 8) && off % size == 0
  | .apertureRead _ size => decide (1 ≤ size) && decide (size ≤ 8)
  | .apertureWrite _ size _ => decide (1 ≤ size) && decide (size ≤ 8)
  | .clkceilWrite die _ => decide (die < Config.dies)
  | .qtailDoorbell die q _ => decide (die < Config.dies) && decide (q < 64)
  | .abort die q => decide (die < Config.dies) && decide (q < 64)
  | .poke die q => decide (die < Config.dies) && decide (q < 64)
  | .queueEnable die q _ => decide (die < Config.dies) && decide (q < 64)
  | .queueEntryTake die q => decide (die < Config.dies) && decide (q < 64)
  | .blockPlace core => decide (core < Config.cores)
  | .clusterPlace die => decide (die < Config.dies)
  | .localCardCheck core => decide (core < Config.cores)
  | .invgo asid _ => decide (asid < 64)
  | .invalidationComplete asid => decide (asid < 64)
  | .bankCommandExecute bank => decide (bank < 16 * Config.pseudoChannels)
  | .allocationDeadlock core => decide (core < Config.cores)
  | .handlerStart core => decide (core < Config.cores)
  | .tractResume die => decide (die < Config.dies)
  | .tractKillGroup die => decide (die < Config.dies)
  | .tractKillGrid die => decide (die < Config.dies)
  | .nbownWrite pc _ => decide (pc < Config.pseudoChannels)
  | .watchdogFire die _ core => decide (die < Config.dies) && decide (core < Config.cores)
  | .dieReset die => decide (die < Config.dies)
  | .selfTestEnd die _ _ => decide (die < Config.dies)
  | .mogo stack => decide (stack < Config.numStacks)
  | .mapoutFrameCopy stack => decide (stack < Config.numStacks)
  | .telemetrySample die _ => decide (die < Config.dies)
  | .bringUpStart dies => dies.all fun e => decide (e.1 < Config.dies)
  | .fullService _ dies => dies.all fun e => decide (e.1 < Config.dies)
  | _ => true

/-- A well-formed instruction. -/
def Instr.wf (i : Instr) : Bool :=
  match encode i with
  | some w => wordOk w
  | none => unitsOk i

end Sys2Proof
end

