-- ==== Sys2Proof/Certificates/Slice0/Obligations.lean ====
section
/-! DEFINITION. The statements for the provers, with the tables of operations that they speak of. -/

namespace Sys2Proof.Machine.Claim

/-! ## Integer operations -/

/-- An instruction of format R or I, and of format U, by its fields. -/
abbrev Form := BitVec 7 → BitVec 1 → BitVec 8 → BitVec 8 → Instr
abbrev UForm := BitVec 7 → BitVec 1 → BitVec 8 → Instr

/-- A function of two words read signed; its result's low 32 bits (R204, R205). -/
def signed (f : Int → Int → Int) (a b : Word) : Word := BitVec.ofInt 32 (f a.toInt b.toInt)

/-- A function of two words read unsigned. -/
def unsigned (f : Nat → Nat → Nat) (a b : Word) : Word := BitVec.ofNat 32 (f a.toNat b.toNat)

/-- Clamped to the signed and to the unsigned 32-bit range (R56). -/
def clampI (x : Int) : Int := if x < -2 ^ 31 then -2 ^ 31 else if 2 ^ 31 - 1 < x then 2 ^ 31 - 1 else x
def clampN (x : Nat) : Nat := min x (2 ^ 32 - 1)

/-- A row of R205 with a 32-bit result: register form, immediate form, whether the immediate is sign-extended, x. -/
structure Row32 where
  reg : Form
  imm : Form
  sext : Bool
  x : Word → Word → Word

/-- The rows of R205 with 32-bit operands and result, division and shifts apart. -/
def rows32 : List Row32 := [
  ⟨.addI32, .addI32Imm, true, signed (· + ·)⟩,
  ⟨.subI32, .subI32Imm, true, signed (· - ·)⟩,
  ⟨.addSatI32, .addSatI32Imm, true, signed fun a b => clampI (a + b)⟩,
  ⟨.addSatN32, .addSatN32Imm, false, unsigned fun a b => clampN (a + b)⟩,
  ⟨.subSatI32, .subSatI32Imm, true, signed fun a b => clampI (a - b)⟩,
  ⟨.subSatN32, .subSatN32Imm, false, unsigned fun a b => a - b⟩,
  ⟨.mulI32, .mulI32Imm, true, signed (· * ·)⟩,
  ⟨.mulSatI32, .mulSatI32Imm, true, signed fun a b => clampI (a * b)⟩,
  ⟨.mulSatN32, .mulSatN32Imm, false, unsigned fun a b => clampN (a * b)⟩,
  ⟨.mulhiI32, .mulhiI32Imm, true, signed fun a b => a * b / 2 ^ 32⟩,
  ⟨.mulhiN32, .mulhiN32Imm, false, unsigned fun a b => a * b / 2 ^ 32⟩,
  ⟨.minI32, .minI32Imm, true, signed min⟩,
  ⟨.maxI32, .maxI32Imm, true, signed max⟩,
  ⟨.minN32, .minN32Imm, false, unsigned min⟩,
  ⟨.maxN32, .maxN32Imm, false, unsigned max⟩,
  ⟨.and, .andImm, false, fun a b => a &&& b⟩,
  ⟨.or, .orImm, false, fun a b => a ||| b⟩,
  ⟨.xor, .xorImm, false, fun a b => a ^^^ b⟩]

/-- Quotient and remainder of R206. -/
def quotI (a b : Int) : Int := if b = 0 then -1 else a.tdiv b
def remainI (a b : Int) : Int := if b = 0 then a else a - b * a.tdiv b
def quotN (a b : Nat) : Nat := if b = 0 then 0xFFFFFFFF else a / b
def remainN (a b : Nat) : Nat := if b = 0 then a else a - b * (a / b)

/-- DIV and REM (R205, R206). -/
def rowsDiv : List Row32 := [
  ⟨.divI32, .divI32Imm, true, signed quotI⟩,
  ⟨.divN32, .divN32Imm, false, unsigned quotN⟩,
  ⟨.remI32, .remI32Imm, true, signed remainI⟩,
  ⟨.remN32, .remN32Imm, false, unsigned remainN⟩]

/-- The shifts of R207: the count is the whole B read unsigned. -/
def rowsShift : List Row32 := [
  ⟨.shl, .shlImm, false, fun a b => if 32 ≤ b.toNat then 0 else a <<< b.toNat⟩,
  ⟨.shrN32, .shrN32Imm, false, fun a b => if 32 ≤ b.toNat then 0 else a >>> b.toNat⟩,
  ⟨.shrI32, .shrI32Imm, false, fun a b =>
    if 32 ≤ b.toNat then (if a.toInt < 0 then -1 else 0) else a.sshiftRight b.toNat⟩]

/-- The immediate of a 32-bit form (R144): extended as the row says, or with the bound LIT above it. -/
def immWord (s : State) (i : BitVec 8) (sext : Bool) : Word :=
  match s.lead.lit with
  | some l => l ++ i
  | none => if sext then i.signExtend 32 else i.setWidth 32

/-- The immediate of a 64-bit form, sign-extended (R144). -/
def immDword (s : State) (i : BitVec 8) : DWord :=
  match s.lead.lit with
  | some l => (l ++ i : BitVec 32).signExtend 64
  | none => i.signExtend 64

/-- The operations of R208 with a 32-bit result. -/
def rowsUnary : List (UForm × (Word → Word)) := [
  (.mov, id),
  (.not, fun a => ~~~a),
  (.neg, fun a => 0 - a),
  (.abs, fun a => if a.toInt < 0 then 0 - a else a),
  (.popc, fun a => BitVec.ofNat 32 ((List.range 32).countP a.getLsbD)),
  (.clz, fun a => if a = 0 then 32 else BitVec.ofNat 32 (31 - a.toNat.log2)),
  (.brev, BitVec.reverse),
  (.sxtI8, fun a => (a.setWidth 8).signExtend 32),
  (.sxtI16, fun a => (a.setWidth 16).signExtend 32),
  (.zxtN8, fun a => a &&& 0xFF),
  (.zxtN16, fun a => a &&& 0xFFFF)]

/-! ## Compares -/

/-- The relation that CC names, from equality and less-than (R210). -/
def relation (cc : BitVec 2) (eq lt : Bool) : Bool :=
  if cc = 0 then eq else if cc = 1 then !eq else if cc = 2 then lt else !lt


end Sys2Proof.Machine.Claim

open Sys2Proof Sys2Proof.Machine

/-! ## Encoding -/

/-- R135 to R147: decoding the word of an instruction gives the instruction, whatever its operands. -/
def Obligations.DecodeOfEncode : Prop := ∀ (i : Instr) (w : Word), encode i = some w → decode w = .ok i

/-- R135 to R147: a word that decodes is the word of its instruction: each word has one meaning. -/
def Claims.EncodeOfDecode : Prop := ∀ (i : Instr) (w : Word), decode w = .ok i → encode i = some w

/-- R149 rows 2 and 3, R146: opcodes 0x00 and 0xFF are permanently illegal and every other unassigned opcode is
reserved. -/
def Claims.UnassignedOpcodesRejected : Prop :=
  ∀ w : Word,
    ((opcodeOf w = 0x00 ∨ opcodeOf w = 0xFF) → decode w = .error .permanentlyIllegal) ∧
    (opcodeOf w ≠ 0x00 → opcodeOf w ≠ 0xFF → assignedOpcode (opcodeOf w).toNat = false →
      decode w = .error .reservedOpcode)

/-! ## Integer operations -/

/-- R205, register forms with 32-bit results: every enabled lane's destination holds x, a disabled lane's registers stand,
no flag, generator or predicate changes, and nothing else but the bundle's advance. -/
def Claims.IntegerRegisterForms : Prop :=
  ∀ e ∈ Claim.rows32, ∀ (s : State) (d : BitVec 7) (w : BitVec 1) (a b : BitVec 8),
    Runs s .base → NoBlk s → NoLit s → DstOk s d w false → SrcOk s a false → SrcOk s b false →
    ∃ t, exec (e.reg d w a b) s = .next t ∧ Gives s t d w (fun k => e.x (s.word a k) (s.word b k)) ∧ Quiet s t ∧
      Completed s t (dstRegs d w false) (freedRegs a false ++ freedRegs b false)

/-- R144 and R205, immediate forms with 32-bit results, with or without a LIT. -/
def Claims.IntegerImmediateForms : Prop :=
  ∀ e ∈ Claim.rows32, ∀ (s : State) (d : BitVec 7) (w : BitVec 1) (a i : BitVec 8),
    Runs s .base → NoBlk s → DstOk s d w false → SrcOk s a false →
    ∃ t, exec (e.imm d w a i) s = .next t ∧ Gives s t d w (fun k => e.x (s.word a k) (Claim.immWord s i e.sext)) ∧
      Quiet s t ∧ Completed s t (dstRegs d w false) (freedRegs a false)

/-- R206: DIV and REM in every form; the quotient truncates toward zero, the remainder is a − b × quotient, a zero divisor
gives 0xFFFF_FFFF and a, −2^31 by −1 gives −2^31 and 0; no case traps or sets a flag. -/
def Claims.LaneDivision : Prop :=
  (∀ e ∈ Claim.rowsDiv, ∀ (s : State) (d : BitVec 7) (w : BitVec 1) (a b : BitVec 8),
    Runs s .base → NoBlk s → DstOk s d w false → SrcOk s a false →
    (NoLit s → SrcOk s b false → ∃ t, exec (e.reg d w a b) s = .next t ∧
      Gives s t d w (fun k => e.x (s.word a k) (s.word b k)) ∧ Quiet s t ∧
      Completed s t (dstRegs d w false) (freedRegs a false ++ freedRegs b false)) ∧
    (∃ t, exec (e.imm d w a b) s = .next t ∧ Gives s t d w (fun k => e.x (s.word a k) (Claim.immWord s b e.sext)) ∧
      Quiet s t ∧ Completed s t (dstRegs d w false) (freedRegs a false))) ∧
  Claim.signed Claim.quotI 0x80000000 0xFFFFFFFF = 0x80000000 ∧ Claim.signed Claim.remainI 0x80000000 0xFFFFFFFF = 0

/-- R207: the shifts in every form; the count is read unsigned over its full 32 bits, and from 32 on SHL and SHR.n32 give 0
and SHR.i32 the sign. -/
def Claims.ShiftResults : Prop :=
  ∀ e ∈ Claim.rowsShift, ∀ (s : State) (d : BitVec 7) (w : BitVec 1) (a b : BitVec 8),
    Runs s .base → NoBlk s → DstOk s d w false → SrcOk s a false →
    (NoLit s → SrcOk s b false → ∃ t, exec (e.reg d w a b) s = .next t ∧
      Gives s t d w (fun k => e.x (s.word a k) (s.word b k)) ∧ Quiet s t ∧
      Completed s t (dstRegs d w false) (freedRegs a false ++ freedRegs b false)) ∧
    (∃ t, exec (e.imm d w a b) s = .next t ∧ Gives s t d w (fun k => e.x (s.word a k) (Claim.immWord s b e.sext)) ∧
      Quiet s t ∧ Completed s t (dstRegs d w false) (freedRegs a false))

/-- R205 and R208, 64-bit results: MULW of 32-bit sources, ADD and SUB of pairs, the extensions to 64 bits and MOV.64 fill
the pair that DST names. -/
def Claims.WideIntegerResults : Prop :=
  ∀ (s : State) (d : BitVec 7) (w : BitVec 1) (a b : BitVec 8), Runs s .base → NoBlk s → DstOk s d w true →
    (∀ e ∈ [(Instr.mulwI32, Instr.mulwI32Imm, true, fun a b : Word => a.signExtend 64 * b.signExtend 64),
        (Instr.mulwN32, Instr.mulwN32Imm, false, fun a b : Word => a.setWidth 64 * b.setWidth 64)],
      SrcOk s a false →
      (NoLit s → SrcOk s b false → ∃ t, exec (e.1 d w a b) s = .next t ∧
        GivesPair s t d w (fun k => e.2.2.2 (s.word a k) (s.word b k)) ∧ Quiet s t ∧
        Completed s t (dstRegs d w true) (freedRegs a false ++ freedRegs b false)) ∧
      (∃ t, exec (e.2.1 d w a b) s = .next t ∧
        GivesPair s t d w (fun k => e.2.2.2 (s.word a k) (Claim.immWord s b e.2.2.1)) ∧ Quiet s t ∧
        Completed s t (dstRegs d w true) (freedRegs a false))) ∧
    (∀ e ∈ [(Instr.addI64, Instr.addI64Imm, fun a b : DWord => a + b), (Instr.subI64, Instr.subI64Imm, fun a b => a - b)],
      SrcOk s a true →
      (NoLit s → SrcOk s b true → ∃ t, exec (e.1 d w a b) s = .next t ∧
        GivesPair s t d w (fun k => e.2.2 (s.dword a k) (s.dword b k)) ∧ Quiet s t ∧
        Completed s t (dstRegs d w true) (freedRegs a true ++ freedRegs b true)) ∧
      (∃ t, exec (e.2.1 d w a b) s = .next t ∧
        GivesPair s t d w (fun k => e.2.2 (s.dword a k) (Claim.immDword s b)) ∧ Quiet s t ∧
        Completed s t (dstRegs d w true) (freedRegs a true))) ∧
    (∀ e ∈ [(Instr.sxtI64, fun a : Word => a.signExtend 64), (Instr.zxtN64, fun a => a.setWidth 64)],
      NoLit s → SrcOk s a false → ∃ t, exec (e.1 d w a) s = .next t ∧ GivesPair s t d w (fun k => e.2 (s.word a k)) ∧
        Quiet s t ∧ Completed s t (dstRegs d w true) (freedRegs a false)) ∧
    (NoLit s → SrcOk s a true → ∃ t, exec (.mov64 d w a) s = .next t ∧ GivesPair s t d w (fun k => s.dword a k) ∧
      Quiet s t ∧ Completed s t (dstRegs d w true) (freedRegs a true))

/-- R208: the unary operations with a 32-bit result. Completion is stated of: mov, not, neg, abs, popc, clz, brev, sxtI8,
sxtI16, zxtN8, zxtN16. -/
def Obligations.UnaryIntegerResults : Prop :=
  ∀ e ∈ Claim.rowsUnary, ∀ (s : State) (d : BitVec 7) (w : BitVec 1) (a : BitVec 8),
    Runs s .base → NoBlk s → NoLit s → DstOk s d w false → SrcOk s a false →
    ∃ t, exec (e.1 d w a) s = .next t ∧ Gives s t d w (fun k => e.2 (s.word a k)) ∧ Quiet s t ∧
      Completed s t (dstRegs d w false) (freedRegs a false)

/-- R155: under BLK with last uses and fixed operands apart, ADD.i32 over v registers, none of which waits for a result, runs as
M × N elements in order, each seeing the registers that the elements before it wrote. -/
def Obligations.BlockElements : Prop :=
  ∀ (s : State) (h : BitVec 24) (d : BitVec 7) (a b : BitVec 8) (k : Nat),
    Runs s .base → NoLit s → s.lead.hints.bind (·.blk) = some h → s.issues k → (s.thread k).enabled = true →
    (blkOf h).fd = false → (blkOf h).fa = false → (blkOf h).fb = false → lastOf a = false → lastOf b = false →
    (∀ i < (blkOf h).m, ∀ j < (blkOf h).n, ∀ r ∈ [d.toNat, codeOf a, codeOf b],
      r + (blkOf h).rs * i + j < 96 ∧ r + (blkOf h).rs * i + j < s.regMax ∧
      dstHeld s false (r + (blkOf h).rs * i + j) = false) →
    ∃ t, exec (.addI32 d 0 a b) s = .next t ∧ t.rest = s.rest ∧ (t.thread k).pc = (s.thread k).pc + 4 ∧
      ∀ n, (t.thread k).reg n =
        ((List.range (blkOf h).m).flatMap fun i => (List.range (blkOf h).n).map fun j => (blkOf h).rs * i + j).foldl
          (fun (v : Nat → Word) step m => if m = d.toNat + step then v (codeOf a + step) + v (codeOf b + step) else v m)
          (s.thread k).reg n

/-! ## Predicates -/

/-- R210: the compares in every form set pd in the enabled lanes to the relation that CC names; a write to p0 is
discarded. -/
def Claims.CompareResults : Prop :=
  ∀ (s : State) (p : BitVec 6) (c : BitVec 2) (a b : BitVec 8), Runs s .base → NoBlk s →
    (∀ e ∈ [(Instr.cmpI32, Instr.cmpI32Imm, true, fun x y : Word => x.slt y),
        (Instr.cmpN32, Instr.cmpN32Imm, false, fun x y : Word => x.ult y)],
      SrcOk s a false →
      (NoLit s → SrcOk s b false → ∃ t, exec (e.1 p c a b) s = .next t ∧
        GivesPred s t p.toNat (fun k => Claim.relation c (s.word a k == s.word b k) (e.2.2.2 (s.word a k) (s.word b k))) ∧
        SameFlags s t ∧ SameGens s t ∧ Completed s t [] (freedRegs a false ++ freedRegs b false)) ∧
      (∃ t, exec (e.2.1 p c a b) s = .next t ∧
        GivesPred s t p.toNat (fun k => Claim.relation c (s.word a k == Claim.immWord s b e.2.2.1)
          (e.2.2.2 (s.word a k) (Claim.immWord s b e.2.2.1))) ∧
        SameFlags s t ∧ SameGens s t ∧ Completed s t [] (freedRegs a false))) ∧
    (NoLit s → SrcOk s a true → SrcOk s b true → ∃ t, exec (.cmpI64 p c a b) s = .next t ∧
      GivesPred s t p.toNat (fun k => Claim.relation c (s.dword a k == s.dword b k) ((s.dword a k).slt (s.dword b k))) ∧
      SameFlags s t ∧ SameGens s t ∧ Completed s t [] (freedRegs a true ++ freedRegs b true))

/-- R212 to R214: PLUT looks its two predicates up in LUT; SEL writes a where the guard is 1 or no span is open and b where
it is 0, in its destination and its latch, and no span disables it; NOP changes nothing but the bundle's position. -/
def Claims.PredicateLogicSelectAndNop : Prop :=
  ∀ s : State, Runs s .base → NoBlk s → NoLit s →
    (∀ (p x y : BitVec 6) (l : BitVec 4), ∃ t, exec (.plut p x y l) s = .next t ∧
      GivesPred s t p.toNat (fun k => l.getLsbD
        (2 * ((s.thread k).pred x.toNat).toNat + ((s.thread k).pred y.toNat).toNat)) ∧
      SameFlags s t ∧ SameGens s t ∧ Completed s t [] []) ∧
    (∀ (d : BitVec 7) (w : BitVec 1) (a b : BitVec 8), DstOk s d w false → SrcOk s a false → SrcOk s b false →
      ∃ t, exec (.sel d w a b) s = .next t ∧ Quiet s t ∧
        (∀ k, s.issues k → w = 0 →
          (t.thread k).reg d.toNat = if (s.thread k).enabled then s.word a k else s.word b k) ∧
        Latches s t w (fun k v => v.setWidth 32 = if (s.thread k).enabled then s.word a k else s.word b k) ∧
        Completed s t (dstRegs d w false) (freedRegs a false ++ freedRegs b false)) ∧
    (∃ t, exec .nop s = .next t ∧ Quiet s t ∧ Completed s t [] [])

/-! ## Control -/

namespace Sys2Proof.Machine.Claim

/-- A member takes a branch or a call with PG and NEG (R145, R156): it is enabled and p(PG) xor NEG holds. -/
def taken (s : State) (g : BitVec 6) (n : BitVec 1) (k : Nat) : Bool :=
  (s.thread k).enabled && ((s.thread k).pred g.toNat != (n == 1))

/-- Members for which `hit` holds stand at their target, the others at the next word; registers, flags and all else but
what an issue renews, and the shadows that R193 narrows, are unchanged. -/
structure Branched (s t : State) (hit : Nat → Bool) (target : Nat → DWord) : Prop where
  pc : ∀ k, s.issues k → (t.thread k).pc = if hit k then target k else (s.thread k).pc + 4
  regs : ∀ k, (t.thread k).v = (s.thread k).v
  others : ∀ k, k ∉ s.issue.members → tabGet t.threads k = tabGet s.threads k
  groups : ∀ g, (t.group g).rest = (s.group g).rest
  cores : ∀ c, (t.core c).rest = (s.core c).rest
  quiet : Quiet s t

/-- The address of a thread's return address for its next call (R167). -/
def callSlot (s : State) (k : Nat) : Nat := sliceByte k (1016 - 8 * (s.thread k).cd)

/-- Members for which `hit` holds have called their target: the return address stands in the slice, the depth has risen;
every other byte of memory is unchanged, and of the order of accesses only releases that stood in the slice end (R167). -/
structure Called (s t : State) (hit : Nat → Bool) (target : Nat → DWord) : Prop where
  pc : ∀ k, s.issues k → (t.thread k).pc = if hit k then target k else (s.thread k).pc + 4
  depth : ∀ k, s.issues k → (t.thread k).cd = if hit k then (s.thread k).cd + 1 else (s.thread k).cd
  saved : ∀ k, s.issues k → hit k = true → bytesAt t.mem (callSlot s k) 8 = ((s.thread k).pc + 4).toNat
  mem : ∀ a, (∀ k ∈ s.issue.members, hit k = true → a < callSlot s k ∨ callSlot s k + 8 ≤ a) →
    byteAt t.mem a = byteAt s.mem a
  others : ∀ k, k ∉ s.issue.members → tabGet t.threads k = tabGet s.threads k
  rest : { t.rest with mem := [], poison := [], found := [], weak := [], carried := [], released := [], order := {} } =
    { s.rest with mem := [], poison := [], found := [], weak := [], carried := [], released := [], order := {} }
  marks : s.poison = [] → s.weak = [] → t.poison = [] ∧ t.weak = [] ∧ t.found = s.found ∧ t.carried = s.carried
  released : s.released = [] → t.released = []
  order : { t.order with words := [] } = { s.order with words := [] }
  quiet : Quiet s t

/-- A uniform register field that a thread instruction names: q0 to q15 without a last use, its value there. -/
structure UniOk (s : State) (a : BitVec 8) : Prop where
  code : 100 ≤ codeOf a ∧ codeOf a < 116
  last : lastOf a = false
  there : ∀ k ∈ s.issue.members, ((s.blockOf (grpOf k)).qView (viewPos s k (s.thread k)) (codeOf a - 100)).isSome

/-- What a hint word leaves as it was: all but the hint group, the program counter and the fields that GRD, STEP and
REGION change in the members. -/
structure Hinted (s t : State) : Prop where
  pc : ∀ k, s.issues k → (t.thread k).pc = (s.thread k).pc + 4
  regs : ∀ k, (t.thread k).v = (s.thread k).v ∧ (t.thread k).p = (s.thread k).p ∧ (t.thread k).gen = (s.thread k).gen
  others : ∀ k, k ∉ s.issue.members → tabGet t.threads k = tabGet s.threads k
  groups : t.groups = s.groups
  cores : t.cores = s.cores
  rest : t.rest = s.rest

/-- The interval `new` is the hull of `old` and of the intervals `x m` to `y m` that the enabled members of a group give, those
with y below x apart. -/
structure Widened (s : State) (g : Nat) (x y : Nat → Int) (old new : Interval) : Prop where
  keeps : new.lo ≤ old.lo ∧ old.hi ≤ new.hi
  pairs : ∀ m ∈ s.enabled, grpOf m = g → x m ≤ y m → new.lo ≤ x m ∧ y m ≤ new.hi
  lo : new.lo = old.lo ∨ ∃ m ∈ s.enabled, grpOf m = g ∧ x m ≤ y m ∧ new.lo = x m
  hi : new.hi = old.hi ∨ ∃ m ∈ s.enabled, grpOf m = g ∧ x m ≤ y m ∧ new.hi = y m

/-- The hint group of a member before a hint word: the one it carries, or a new one that starts at the word (R151). -/
def carried (s : State) (k : Nat) : HintGroup := groupAt (s.thread k).hints s.issue.pc

end Sys2Proof.Machine.Claim

/-- R145, R221: BR and BRL: an enabled member whose condition holds continues OFF words after the next one, every other at the
next word. Completion is stated of: br, brl. -/
def Obligations.Branches : Prop :=
  ∀ (s : State) (g : BitVec 6) (n : BitVec 1) (o : BitVec 16), Runs s .base → NoBlk s →
    (NoLit s → ∃ t, exec (.br g n o) s = .next t ∧
      Claim.Branched s t (Claim.taken s g n) (fun _ => s.issue.pc + 4 + 4 * o.signExtend 64) ∧ t.rest = s.rest) ∧
    (∀ l, s.lead.lit = some l → ∃ t, exec (.brl g n o) s = .next t ∧
      Claim.Branched s t (Claim.taken s g n) (fun _ => s.issue.pc + 4 + 4 * (l ++ o).signExtend 64) ∧ t.rest = s.rest)

/-- R167, R222, R223: CALL, CALLL and CALLI with room on the call stack. -/
def Claims.Calls : Prop :=
  ∀ (s : State) (g : BitVec 6) (n : BitVec 1) (o : BitVec 16) (a : BitVec 8),
    Runs s .base → s.inHandler = false → NoBlk s → memoryWf s.mem →
    ((∀ k ∈ s.issue.members, Claim.taken s g n k = true → (s.thread k).cd < 32) →
      (NoLit s → ∃ t, exec (.call g n o) s = .next t ∧
        Claim.Called s t (Claim.taken s g n) (fun _ => s.issue.pc + 4 + 4 * o.signExtend 64)) ∧
      (∀ l, s.lead.lit = some l → ∃ t, exec (.calll g n o) s = .next t ∧
        Claim.Called s t (Claim.taken s g n) (fun _ => s.issue.pc + 4 + 4 * (l ++ o).signExtend 64))) ∧
    (NoLit s → SrcOk s a true → (∀ k ∈ s.issue.members, (s.thread k).enabled = true → (s.thread k).cd < 32) →
      ∃ t, exec (.calli a) s = .next t ∧
        Claim.Called s t (fun k => (s.thread k).enabled) (fun k => s.dword a k &&& 0x01FFFFFFFFFFFFFC))

/-- R167, R224: RET takes the address that the last call saved, in the enabled members, and lowers the depth; no word of
memory is poisoned (R455). -/
def Claims.Returns : Prop :=
  ∀ s : State, Runs s .base → s.inHandler = false → NoBlk s → NoLit s → s.poison = [] →
    (∀ k ∈ s.issue.members, (s.thread k).enabled = true → (s.thread k).cd ≠ 0) →
    ∃ t, exec .ret s = .next t ∧ t.rest = s.rest ∧
      Claim.Branched s t (fun k => (s.thread k).enabled)
        (fun k => BitVec.ofNat 64 (bytesAt s.mem (sliceByte k (1016 - 8 * ((s.thread k).cd - 1))) 8) &&&
          0x01FFFFFFFFFFFFFC) ∧
      ∀ k, s.issues k → (t.thread k).cd =
        if (s.thread k).enabled then (s.thread k).cd - 1 else (s.thread k).cd

/-- R167, R222 to R224: threads that call at depth 32, by CALL, CALLL or CALLI, and threads that return at depth 0 raise the
call-stack trap, CODE 0x000B, which is not resumable and tells the depth; nothing else of the call or the return happens. -/
def Claims.CallStackTrap : Prop :=
  ∀ (s : State) (g : BitVec 6) (n : BitVec 1) (o : BitVec 16) (a : BitVec 8), Runs s .base → s.inHandler = false → NoBlk s →
    let traps := fun (i : Instr) (ks : List Nat) => ks ≠ [] → exec i s = .next (bundleTrap s ks 0x000B false fun x =>
      (0, [s.issue.word.setWidth 64, BitVec.ofNat 64 (s.thread ((ks.filter fun k => grpOf k == x).headD 0)).cd]))
    let full := fun (hit : Nat → Bool) => (s.issue.members.filter hit).filter fun k => 32 ≤ (s.thread k).cd
    (NoLit s → traps (.call g n o) (full (Claim.taken s g n))) ∧
    (s.lead.lit.isSome = true → traps (.calll g n o) (full (Claim.taken s g n))) ∧
    (NoLit s → SrcOk s a true → traps (.calli a) (full fun k => (s.thread k).enabled)) ∧
    (NoLit s → traps .ret ((s.issue.members.filter fun k => (s.thread k).enabled).filter fun k => (s.thread k).cd = 0))

/-- R182, R225: JOIN: an enabled member with a mask that is not 0 waits at the instruction; one with mask 0, and a disabled
one, passes; registers, predicates, flags and memory stand, but for a mask register on its last use. -/
def Claims.JoinWaits : Prop :=
  ∀ (s : State) (a : BitVec 8), Runs s .base → s.inHandler = false → NoBlk s → NoLit s → SrcOk s a false →
    ∃ t, exec (.join a) s = .next t ∧ t.rest = s.rest ∧ Quiet s t ∧
      (∀ k, k ∉ s.issue.members → tabGet t.threads k = tabGet s.threads k) ∧ ∀ k, s.issues k →
      (∀ m, m ∉ freedRegs a false → (t.thread k).reg m = (s.thread k).reg m) ∧
      ((s.thread k).enabled = true → s.word a k ≠ 0 →
        (t.thread k).pc = (s.thread k).pc ∧ (t.thread k).wait = .join (s.thread k).pc (s.word a k)) ∧
      (((s.thread k).enabled = false ∨ s.word a k = 0) →
        (t.thread k).pc = (s.thread k).pc + 4 ∧ (t.thread k).wait = (s.thread k).wait)

/-- R173, R446 to R448: EXIT removes the enabled members from the live threads and the others pass; TAIL removes the members
of every group that is whole in the bundle and holds the others at the word; memory, the other threads and the other groups
stand; at the Lectern both end the block's stream. Completion is stated of: tail, exit. -/
def Obligations.ThreadEnds : Prop :=
  (∀ s : State, Runs s .base → s.inHandler = false → NoBlk s → NoLit s →
    (∀ k ∈ s.issue.members, (s.group (grpOf k)).mma = none) →
    let frame := fun t : State => t.mem = s.mem ∧
      (∀ k, k ∉ s.issue.members → tabGet t.threads k = tabGet s.threads k) ∧
      ∀ g, (∀ k ∈ s.issue.members, grpOf k ≠ g) → tabGet t.groups g = tabGet s.groups g
    ((∃ k ∈ s.issue.members, (s.thread k).enabled = true) → ∃ t, exec .exit s = .next t ∧
      (∀ k ∈ s.issue.members, (s.thread k).enabled = true → tabGet t.threads k = none) ∧
      (∀ k, s.issues k → (s.thread k).enabled = false → (t.thread k).pc = (s.thread k).pc + 4) ∧ frame t) ∧
    ((∀ k ∈ s.issue.members, (s.thread k).span = none) → ∃ t, exec .tail s = .next t ∧
      (∀ k ∈ s.issue.members, grpOf k ∈ wholeGroups s → tabGet t.threads k = none) ∧
      (∀ k, s.issues k → grpOf k ∉ wholeGroups s → (t.thread k).wait = .whole (s.thread k).pc) ∧ frame t)) ∧
  (∀ s : State, s.issue.agent = .lectern → (tabGet s.blocks s.issueBlock).isSome →
    ∀ i ∈ [Instr.exit, Instr.tail], ∃ t, exec i s = .next t ∧ (t.block s.issueBlock).lect.ended = true ∧
      t.threads = s.threads ∧ t.mem = s.mem)

/-- R151 to R155, R157, R160, R161: a hint word that its group does not yet hold, behind no LIT, joins the hint group of every
member, which goes on to the next word, and changes nothing else. -/
def Claims.HintsJoinTheirGroup : Prop :=
  ∀ s : State, s.issue.agent = .threads → s.issue.members ≠ [] → NoLit s →
    let joins := fun (i : Instr) (f : HintGroup → HintGroup) => ∃ t, exec i s = .next t ∧ Claim.Hinted s t ∧
      ∀ k, s.issues k → t.thread k =
        { s.thread k with pc := (s.thread k).pc + 4, hints := some (f (Claim.carried s k)), since := s.now }
    (∀ v : BitVec 24, joins (.lit v) fun h => { h with lit := some v }) ∧
    (NoBlk s → ∀ (m n : BitVec 3) (rs : BitVec 6) (d a b : BitVec 1),
      joins (.blk m n rs d a b) fun h => { h with blk := some (m ++ n ++ rs ++ d ++ a ++ b ++ 0#9) }) ∧
    (s.lead.hints.bind (·.live) = none → ∀ o : BitVec 24,
      joins (.live o) fun h => { h with live := some (s.issue.pc + 4 * o.signExtend 64) }) ∧
    (s.lead.hints.bind (·.pref) = none → ∀ d : BitVec 2, d ≠ 3 → joins (.pref d) fun h => { h with pref := some d }) ∧
    (s.lead.hints.bind (·.sched) = none → ∀ (y : BitVec 1) (h : BitVec 6),
      joins (.sched y h) fun x => { x with sched := some (y ++ h) })

/-- R156, R158, R159: GRD opens a span of N + 1 instructions with the guard p(PG) xor NEG; STEP raises STEPS by one; REGION
makes the group's first word the region entry, raises RCOUNT and records the generator state and the span. That the span recorded is
the one before a GRD of the same group opens one is the model's choice (log 21). -/
def Claims.GuardStepAndRegion : Prop :=
  ∀ s : State, s.issue.agent = .threads → s.issue.members ≠ [] → NoLit s →
    ((s.lead.hints.map (·.grd)).getD false = false → (∀ k ∈ s.issue.members, (s.thread k).span = none) →
      ∀ (g : BitVec 6) (e : BitVec 1) (n : BitVec 3), ∃ t, exec (.grd g e n) s = .next t ∧ Claim.Hinted s t ∧
        ∀ k, s.issues k → (t.thread k).span =
          some { left := n.toNat + 1, g := (s.thread k).pred g.toNat != (e == 1) }) ∧
    (s.lead.hints.bind (·.step) = none → s.inHandler = false → ∀ v : BitVec 24, ∃ t, exec (.step v) s = .next t ∧
      Claim.Hinted s t ∧ ∀ k, s.issues k → (t.thread k).steps = (s.thread k).steps + 1) ∧
    ((s.lead.hints.map (·.region)).getD false = false → s.inHandler = false → ∃ t, exec .region s = .next t ∧
      Claim.Hinted s t ∧ ∀ k, s.issues k → (t.thread k).rentry = (Claim.carried s k).start ∧
        (t.thread k).rcount = (s.thread k).rcount + 1 ∧ (t.thread k).rgen = (s.thread k).gen ∧
        (t.thread k).rspan = if (Claim.carried s k).grd then none else (s.thread k).span)

/-- R296: the thread that a block starts has a region entry counter of zero, and each REGION that it issues adds 1. -/
def Claims.RegionCounters : Prop :=
  (∀ (entry : DWord) (num : Word) (tick lin : Nat), (newThread entry num tick lin).rcount = 0) ∧
  ∀ s : State, s.issue.agent = .threads → s.issue.members ≠ [] → NoLit s → s.inHandler = false →
    (s.lead.hints.map (·.region)).getD false = false →
    ∃ t, exec .region s = .next t ∧ ∀ k, (t.thread k).rcount =
      if k ∈ s.issue.members ∧ (tabGet s.threads k).isSome = true then (s.thread k).rcount + 1 else (s.thread k).rcount

/-- R152, R154, R160: a hint of a kind that its group already holds, or any hint behind a LIT, is an illegal instruction with
reason 8, and so is a GRD of the threads whose span is open; a PREF with destination 3 is one with reason 3. -/
def Claims.HintViolations : Prop :=
  ∀ s : State, s.issue.agent = .threads → s.issue.members ≠ [] →
    let traps := fun i : Instr => exec i s = .next (illegal s s.issue.members 8)
    let holds := fun f : HintGroup → Bool => s.lead.lit.isSome = true ∨ (s.lead.hints.map f).getD false = true
    (s.lead.lit.isSome = true → ∀ v, traps (.lit v)) ∧
    (holds (·.blk.isSome) → ∀ m n rs d a b, traps (.blk m n rs d a b)) ∧
    (holds (·.grd) → ∀ g e n, traps (.grd g e n)) ∧
    (holds (·.live.isSome) → ∀ o, traps (.live o)) ∧
    (holds (·.step.isSome) → ∀ v, traps (.step v)) ∧
    (holds (·.region) → traps .region) ∧
    (holds (·.pref.isSome) → ∀ d, d ≠ 3 → traps (.pref d)) ∧
    (holds (·.sched.isSome) → ∀ y h, traps (.sched y h)) ∧
    (¬holds (·.grd) → (∃ k ∈ s.issue.members, (s.thread k).span.isSome) → ∀ g e n, exec (.grd g e n) s =
      .next (illegal s (s.issue.members.filter fun k => (s.thread k).span.isSome) 8)) ∧
    exec (.pref 3) s = .next (illegal s s.issue.members 3)

/-! ## Shadows and array registers -/

/-- R194, R215: WIDEN takes an interval into the shadow of vn of every group with an enabled member: the pair's two halves as
each enabled member sees them, 0 to q − 1, or everything; that every enabled member's own pair counts is the model's choice
(log 78). -/
def Claims.WidenShadows : Prop :=
  ∀ (s : State) (d : BitVec 7) (a : BitVec 8), Runs s .base → NoBlk s → NoLit s → d.toNat < 32 → d.toNat < s.regMax →
    ∀ k, s.issues k → (s.thread k).enabled = true → (tabGet s.groups (grpOf k)).isSome →
    (Claim.UniOk s a → ∃ t, exec (.widen d a) s = .next t ∧ Quiet s t ∧ Completed s t [] [] ∧
      Claim.Widened s (grpOf k) (fun m => lowInt (s.dword a m)) (fun m => lowInt (s.dword a m >>> 32))
        ((s.group (grpOf k)).shadow d.toNat) ((t.group (grpOf k)).shadow d.toNat)) ∧
    (Claim.UniOk s a → ∃ t, exec (.widenCount d a) s = .next t ∧ Quiet s t ∧ Completed s t [] [] ∧
      Claim.Widened s (grpOf k) (fun _ => 0) (fun m => lowInt (s.dword a m) - 1)
        ((s.group (grpOf k)).shadow d.toNat) ((t.group (grpOf k)).shadow d.toNat)) ∧
    (∃ t, exec (.widenFull d) s = .next t ∧ Quiet s t ∧ Completed s t [] [] ∧
      (t.group (grpOf k)).shadow d.toNat = ((s.group (grpOf k)).shadow d.toNat).hull .full)

/-- R216 to R218: SHRD reads an end of the shadow of the lane's own group, ARRGET a field of an array register as the lane
sees it; SHWR, with no write of the register outstanding, sets the shadow to the hull of its values in the live lanes and of the
pairs that the enabled members of the group give; that every enabled member's own pair counts is the model's choice (log 78). -/
def Claims.ShadowAndArrayReads : Prop :=
  ∀ (s : State) (d : BitVec 7) (w : BitVec 1) (a b : BitVec 8), Runs s .base → NoBlk s → NoLit s →
    (DstOk s d w false → a.toNat < 32 → a.toNat < s.regMax →
      (∃ t, exec (.shrdLo d w a) s = .next t ∧ Quiet s t ∧ Completed s t (dstRegs d w false) [] ∧
        Gives s t d w fun k => BitVec.ofInt 32 ((s.group (grpOf k)).shadow a.toNat).lo) ∧
      (∃ t, exec (.shrdHi d w a) s = .next t ∧ Quiet s t ∧ Completed s t (dstRegs d w false) [] ∧
        Gives s t d w fun k => BitVec.ofInt 32 ((s.group (grpOf k)).shadow a.toNat).hi)) ∧
    (d.toNat < 32 → d.toNat < s.regMax → 100 ≤ codeOf a → 100 ≤ codeOf b → SrcOk s a false → SrcOk s b false →
      (∀ k ∈ s.enabled, writesOf (s.group (grpOf k)) d.toNat = false) → ∃ t, exec (.shwr d a b) s = .next t ∧ Quiet s t ∧ Completed s t [] [] ∧
        ∀ k, s.issues k → (s.thread k).enabled = true → (tabGet s.groups (grpOf k)).isSome →
          let val := fun m => ((s.thread m).reg d.toNat).toInt
          ∃ i : Interval, (∀ m ∈ s.liveOf (grpOf k), i.lo ≤ val m ∧ val m ≤ i.hi) ∧
            (∃ m ∈ s.liveOf (grpOf k), i.lo = val m) ∧ (∃ m ∈ s.liveOf (grpOf k), i.hi = val m) ∧
            Claim.Widened s (grpOf k) (fun m => (s.word a m).toInt) (fun m => (s.word b m).toInt) i
              ((t.group (grpOf k)).shadow d.toNat)) ∧
    (∀ (f : BitVec 3) (n : BitVec 4), f.toNat < 6 → DstOk s d w false →
      ∃ t, exec (.arrget d w f n) s = .next t ∧ Quiet s t ∧ Completed s t (dstRegs d w false) [] ∧
        Gives s t d w fun k => ((arrView s k n.toNat).field f.toNat).setWidth 32) ∧
    (∀ n : BitVec 4, DstOk s d w true →
      ∃ t, exec (.arrgetBase64 d w n) s = .next t ∧ Quiet s t ∧ Completed s t (dstRegs d w true) [] ∧
        GivesPair s t d w fun k => (arrView s k n.toNat).base.setWidth 64)

/-! ## Floating point -/

namespace Sys2Proof.Machine.Claim

/-- The results of a lane instruction: every enabled member's destination, flags and generator follow `out`; flags join the
FSTAT of the member's group (R239); nothing else but the bundle's advance. -/
structure Lanes (s t : State) (d : BitVec 7) (w : BitVec 1) (wide : Bool) (freed : List Nat) (out : Nat → LaneOut) :
    Prop where
  word : wide = false → Gives s t d w fun k => (out k).x.setWidth 32
  pair : wide = true → GivesPair s t d w fun k => (out k).x
  gen : ∀ k, s.issues k → (t.thread k).gen = if (s.thread k).enabled then (out k).gen else (s.thread k).gen
  flags : ∀ g, (tabGet s.groups g).isSome → (t.group g).fstat =
    (s.enabled.filter fun k => grpOf k == g).foldl (fun x k => x ||| (out k).flags.setWidth 32) (s.group g).fstat
  preds : SamePreds s t
  rest : Completed s t (dstRegs d w wide) freed

/-- The rounding mode that the hint group supplies (R237). -/
def ModeIs (s : State) (rm : Rm) : Prop :=
  (NoLit s ∧ rm = .rn) ∨ ∃ l, s.lead.lit = some l ∧ l.toNat < 5 ∧ rm = rmOf l.toNat

/-- A source operand, zero-extended where it is a word. -/
def operand (s : State) (wide : Bool) (f : BitVec 8) (k : Nat) : DWord := if wide then s.dword f k else (s.word f k).setWidth 64

/-- What the destination register or pair holds before. -/
def before (s : State) (wide : Bool) (d : BitVec 7) (k : Nat) : DWord :=
  if wide then (s.thread k).pair d.toNat else ((s.thread k).reg d.toNat).setWidth 64

/-- The one rounding of R240: the draw of R74 under RM 4, INV where a NaN comes of operands that are none (R61). -/
def rounded (f : FFmt) (rm : Rm) (gen : Word) (x : Fl) (operands : List Fl) : LaneOut :=
  { x := BitVec.ofNat 64 (f.round rm (if rm = .rs then genWord (genNext gen) else 0) x)
    flags := if x.isNan && operands.all (!·.isNan) then 1 else 0
    gen := if rm = .rs then genNext gen else gen }

/-- A row of R240: instruction, format, class, the exact result from a, b and the destination, and whether it reads it. -/
structure FloatRow where
  form : Form
  fmt : FFmt
  cls : Class
  acc : Bool
  x : Rm → Fl → Fl → Fl → Fl

/-- FADD, FSUB, FMUL and FMA of every type (R240). -/
noncomputable def floatRows : List FloatRow := [
  ⟨.faddF32, f32, .base, false, fun rm a b _ => a.add rm b⟩,
  ⟨.fsubF32, f32, .base, false, fun rm a b _ => a.add rm b.neg⟩,
  ⟨.fmulF32, f32, .base, false, fun _ a b _ => a.mul b⟩,
  ⟨.fmaF32, f32, .base, true, fun rm a b d => (a.mul b).add rm d⟩,
  ⟨.faddF16, f16, .base, false, fun rm a b _ => a.add rm b⟩,
  ⟨.fmulF16, f16, .base, false, fun _ a b _ => a.mul b⟩,
  ⟨.fmaF16, f16, .base, true, fun rm a b d => (a.mul b).add rm d⟩,
  ⟨.faddBf16, bf16, .base, false, fun rm a b _ => a.add rm b⟩,
  ⟨.fmulBf16, bf16, .base, false, fun _ a b _ => a.mul b⟩,
  ⟨.fmaBf16, bf16, .base, true, fun rm a b d => (a.mul b).add rm d⟩,
  ⟨.faddF64, f64, .double, false, fun rm a b _ => a.add rm b⟩,
  ⟨.fsubF64, f64, .double, false, fun rm a b _ => a.add rm b.neg⟩,
  ⟨.fmulF64, f64, .double, false, fun _ a b _ => a.mul b⟩,
  ⟨.fmaF64, f64, .double, true, fun rm a b d => (a.mul b).add rm d⟩]

/-- The format of a type field with 64-bit operands. -/
def FFmt.wide (f : FFmt) : Bool := f == f64

end Sys2Proof.Machine.Claim

/-- R236 to R240: FADD, FSUB, FMUL and FMA of every type: one rounding of the exact result by the mode of the bound LIT, one
draw per enabled lane under .rs, INV where a NaN comes of operands that are none, on a core whose results pass their residue
check (R456). Completion is stated of: faddF32, fsubF32, fmulF32, fmaF32, faddF16, fmulF16, fmaF16, faddBf16, fmulBf16,
fmaBf16, faddF64, fsubF64, fmulF64, fmaF64. -/
def Obligations.FloatArithmetic : Prop :=
  ∀ e ∈ Claim.floatRows, ∀ (s : State) (d : BitVec 7) (w : BitVec 1) (a b : BitVec 8) (rm : Rm),
    let wide := Claim.FFmt.wide e.fmt
    let v := fun (f : BitVec 8) (k : Nat) => flOf e.fmt (Claim.operand s wide f k)
    Runs s e.cls → NoBlk s → Claim.ModeIs s rm → tabGetD s.upsets s.issue.core 0 = 0 → (e.acc = true → w = 0) →
    DstOk s d w wide → SrcOk s a wide → SrcOk s b wide →
    ∃ t, exec (e.form d w a b) s = .next t ∧
      Claim.Lanes s t d w wide (freedRegs a wide ++ freedRegs b wide) fun k =>
        let x := flOf e.fmt (Claim.before s wide d k)
        Claim.rounded e.fmt rm (s.thread k).gen (e.x rm (v a k) (v b k) x)
          ([v a k, v b k] ++ if e.acc then [x] else [])

/-- R241: the forms of FMOD but FMIN and FMAX: FSUB rounds d − a, for the half formats, on a core whose results pass their residue
check (R456); FABS, FNEG and FCPS change the sign bit
only, but a NaN whose magnitude they take is the canonical NaN, and set no flag. -/
def Claims.FloatModifiers : Prop :=
  ∀ (s : State) (d : BitVec 7) (w : BitVec 1) (a : BitVec 8) (t : BitVec 2), NoBlk s → t ≠ 3 →
    let f := fmtOf t.toNat
    (Runs s .base → DstOk s d w false → SrcOk s a false →
      (∀ rm, Claim.ModeIs s rm → tabGetD s.upsets s.issue.core 0 = 0 → w = 0 → t ≠ 0 → ∃ u, exec (.fmodFsub d w a t) s = .next u ∧
        Claim.Lanes s u d w false (freedRegs a false) fun k =>
          let x := flOf f (Claim.before s false d k)
          let y := flOf f (Claim.operand s false a k)
          Claim.rounded f rm (s.thread k).gen (x.add rm y.neg) [x, y]) ∧
      (NoLit s → (∃ u, exec (.fabs d w a t) s = .next u ∧ Claim.Lanes s u d w false (freedRegs a false) fun k =>
            { x := withSign f (Claim.operand s false a k) false, gen := (s.thread k).gen }) ∧
        (∃ u, exec (.fneg d w a t) s = .next u ∧ Claim.Lanes s u d w false (freedRegs a false) fun k =>
            { x := withSign f (Claim.operand s false a k) (!signOf f (Claim.operand s false a k))
              gen := (s.thread k).gen }) ∧
        (w = 0 → ∃ u, exec (.fcps d w a t) s = .next u ∧ Claim.Lanes s u d w false (freedRegs a false) fun k =>
            { x := withSign f (Claim.before s false d k) (signOf f (Claim.operand s false a k))
              gen := (s.thread k).gen }))) ∧
    (Runs s .double → NoLit s → DstOk s d w true → SrcOk s a true →
      (∃ u, exec (.fabsF64 d w a) s = .next u ∧ Claim.Lanes s u d w true (freedRegs a true) fun k =>
          { x := withSign f64 (Claim.operand s true a k) false, gen := (s.thread k).gen }) ∧
      (∃ u, exec (.fnegF64 d w a) s = .next u ∧ Claim.Lanes s u d w true (freedRegs a true) fun k =>
          { x := withSign f64 (Claim.operand s true a k) (!signOf f64 (Claim.operand s true a k))
            gen := (s.thread k).gen }) ∧
      (w = 0 → ∃ u, exec (.fcpsF64 d w a) s = .next u ∧ Claim.Lanes s u d w true (freedRegs a true) fun k =>
          { x := withSign f64 (Claim.before s true d k) (signOf f64 (Claim.operand s true a k))
            gen := (s.thread k).gen }))

namespace Sys2Proof.Machine.Claim

/-- Order of the patterns of a format that are not NaN, with −0 below +0. -/
def orderKey (f : FFmt) (x : Nat) : Int :=
  if x < 2 ^ (f.width - 1) then (x : Int) else -1 - ((x : Int) - 2 ^ (f.width - 1))

/-- A pattern of a format is NaN: all ones in the exponent, and a fraction. -/
def nanBits (f : FFmt) (x : Nat) : Bool := decide ((2 ^ f.ew - 1) * 2 ^ f.fw < x % 2 ^ (f.width - 1))

/-- The lesser or the greater of two patterns (R242); the other of a NaN; the canonical NaN of two. -/
def extreme (f : FFmt) (greater : Bool) (a b : DWord) : DWord :=
  let x := a.toNat % 2 ^ f.width
  let y := b.toNat % 2 ^ f.width
  BitVec.ofNat 64 (if nanBits f x && nanBits f y then f.nan else if nanBits f x then y else if nanBits f y then x
    else if (orderKey f x < orderKey f y) ↔ greater = true then y else x)

end Sys2Proof.Machine.Claim

/-- R242: FMIN and FMAX, in FP32, in the half formats and in FP64, return the lesser or the greater operand, with −0 below +0;
the other operand where exactly one is NaN; the canonical NaN where both are. They never round and never set a flag.
Completion is stated of: fminF32, fmaxF32, fmodFmin, fmodFmax, fminF64, fmaxF64. -/
def Obligations.FloatMinMax : Prop :=
  ∀ (s : State) (a b : BitVec 8) (d : BitVec 7) (w : BitVec 1), NoBlk s → NoLit s →
    (∀ e ∈ [(Instr.fminF32, false), (Instr.fmaxF32, true)],
      Runs s .base → DstOk s d w false → SrcOk s a false → SrcOk s b false →
      ∃ t, exec (e.1 d w a b) s = .next t ∧ Claim.Lanes s t d w false (freedRegs a false ++ freedRegs b false) fun k =>
        { x := Claim.extreme f32 e.2 (Claim.operand s false a k) (Claim.operand s false b k), gen := (s.thread k).gen }) ∧
    (∀ e ∈ [(Instr.fmodFmin, false), (Instr.fmodFmax, true)], ∀ t : BitVec 2, t ≠ 3 → t ≠ 0 → w = 0 →
      Runs s .base → DstOk s d w false → SrcOk s a false →
      ∃ u, exec (e.1 d w a t) s = .next u ∧ Claim.Lanes s u d w false (freedRegs a false) fun k =>
        { x := Claim.extreme (fmtOf t.toNat) e.2 (Claim.before s false d k) (Claim.operand s false a k)
          gen := (s.thread k).gen }) ∧
    (∀ e ∈ [(Instr.fminF64, false), (Instr.fmaxF64, true)], w = 0 →
      Runs s .double → DstOk s d w true → SrcOk s a true →
      ∃ u, exec (e.1 d w a) s = .next u ∧ Claim.Lanes s u d w true (freedRegs a true) fun k =>
        { x := Claim.extreme f64 e.2 (Claim.before s true d k) (Claim.operand s true a k), gen := (s.thread k).gen })

/-- R243: the floating compares: a NaN operand makes eq, lt and le 0 and ne 1. -/
def Claims.FloatCompare : Prop :=
  ∀ (s : State) (a b : BitVec 8), NoBlk s →
    (∀ (p : BitVec 6) (c : BitVec 2),
      let rel := fun (f : FFmt) (x y : DWord) =>
        if (flOf f x).isNan || (flOf f y).isNan then c == 1
        else
          let o := (flOf f x).cmp (flOf f y)
          if c = 0 then o == 0 else if c = 1 then o != 0 else if c = 2 then o == -1 else o != 1
      (Runs s .base → SrcOk s a false → SrcOk s b false →
        (NoLit s → ∃ t, exec (.fcmpF32 p c a b) s = .next t ∧
          GivesPred s t p.toNat (fun k => rel f32 (Claim.operand s false a k) (Claim.operand s false b k)) ∧
          SameFlags s t ∧ SameGens s t ∧ Completed s t [] (freedRegs a false ++ freedRegs b false)) ∧
        (∀ f, (NoLit s ∧ f = f16) ∨ (s.lead.lit = some 0 ∧ f = f16) ∨ (s.lead.lit = some 1 ∧ f = bf16) →
          ∃ t, exec (.fcmpH p c a b) s = .next t ∧
            GivesPred s t p.toNat (fun k => rel f (Claim.operand s false a k) (Claim.operand s false b k)) ∧
            SameFlags s t ∧ SameGens s t ∧ Completed s t [] (freedRegs a false ++ freedRegs b false))) ∧
      (Runs s .double → NoLit s → SrcOk s a true → SrcOk s b true → ∃ t, exec (.fcmpF64 p c a b) s = .next t ∧
        GivesPred s t p.toNat (fun k => rel f64 (Claim.operand s true a k) (Claim.operand s true b k)) ∧
        SameFlags s t ∧ SameGens s t ∧ Completed s t [] (freedRegs a true ++ freedRegs b true)))

namespace Sys2Proof.Machine.Claim

/-- R246 in FP32: the results at +0, −0, +∞, −∞ and NaN, with INV or without. -/
noncomputable def specials32 : List ((BitVec 7 → BitVec 1 → BitVec 8 → BitVec 2 → Instr) × List (DWord × BitVec 6)) :=
  let nan : DWord := 0x7FC00000
  let inf : DWord := 0x7F800000
  let one : DWord := 0x3F800000
  [ (.rcp, [(inf, 0), (0xFF800000, 0), (0, 0), (0x80000000, 0), (nan, 0)]),
    (.rsq, [(inf, 0), (0xFF800000, 0), (0, 0), (nan, 1), (nan, 0)]),
    (.sqrt, [(0, 0), (0x80000000, 0), (inf, 0), (nan, 1), (nan, 0)]),
    (.ex2, [(one, 0), (one, 0), (inf, 0), (0, 0), (nan, 0)]),
    (.lg2, [(0xFF800000, 0), (0xFF800000, 0), (inf, 0), (nan, 1), (nan, 0)]),
    (.sin, [(0, 0), (0x80000000, 0), (nan, 1), (nan, 1), (nan, 0)]),
    (.cos, [(one, 0), (one, 0), (nan, 1), (nan, 1), (nan, 0)]),
    (.tanh, [(0, 0), (0x80000000, 0), (one, 0), (0xBF800000, 0), (nan, 0)]) ]

/-- R246 in FP64, for RCP, RSQ and SQRT. -/
noncomputable def specials64 : List (UForm × List (DWord × BitVec 6)) :=
  let nan : DWord := 0x7FF8000000000000
  let inf : DWord := 0x7FF0000000000000
  let neg : DWord := 0x8000000000000000
  [ (.rcpF64, [(inf, 0), (neg ||| inf, 0), (0, 0), (neg, 0), (nan, 0)]),
    (.rsqF64, [(inf, 0), (neg ||| inf, 0), (0, 0), (nan, 1), (nan, 0)]),
    (.sqrtF64, [(0, 0), (neg, 0), (inf, 0), (nan, 1), (nan, 0)]) ]

end Sys2Proof.Machine.Claim

/-- R244 to R246: each operation of FUN is one fixed function of the operand and the type, whatever the state; its values at
the special operands of FP32 and FP64 are those of R246. Completion is stated of: rcp, rsq, sqrt, ex2, lg2, sin, cos, tanh,
rcpF64, rsqF64, sqrtF64. -/
def Obligations.FloatFunctions : Prop :=
  (∀ e ∈ Claim.specials32, ∀ ty : BitVec 2, ty ≠ 3 → ∃ f : DWord → DWord × BitVec 6,
    (ty = 0 → [0, 0x80000000, 0x7F800000, 0xFF800000, 0x7FC00000].map f = e.2) ∧
    ∀ (s : State) (d : BitVec 7) (w : BitVec 1) (a : BitVec 8),
      Runs s .base → NoBlk s → NoLit s → DstOk s d w false → SrcOk s a false →
      ∃ t, exec (e.1 d w a ty) s = .next t ∧ Claim.Lanes s t d w false (freedRegs a false) fun k =>
        { x := (f (Claim.operand s false a k)).1, flags := (f (Claim.operand s false a k)).2, gen := (s.thread k).gen }) ∧
  (∀ e ∈ Claim.specials64, ∃ f : DWord → DWord × BitVec 6,
    [0, 0x8000000000000000, 0x7FF0000000000000, 0xFFF0000000000000, 0x7FF8000000000000].map f = e.2 ∧
    ∀ (s : State) (d : BitVec 7) (w : BitVec 1) (a : BitVec 8),
      Runs s .double → NoBlk s → NoLit s → DstOk s d w true → SrcOk s a true →
      ∃ t, exec (e.1 d w a) s = .next t ∧ Claim.Lanes s t d w true (freedRegs a true) fun k =>
        { x := (f (Claim.operand s true a k)).1, flags := (f (Claim.operand s true a k)).2, gen := (s.thread k).gen })

/-- R72 to R75, R247 to R249: CVT.f rounds the source's value into a floating type, or to an integral value where the types
are one; CVT.i rounds it to an integer and clamps, with INV out of range, exact in the latch; CVT.f64 does either with one 64-bit side. A draw
is taken under .rs. -/
def Claims.Conversions : Prop :=
  ∀ (s : State) (d : BitVec 7) (w : BitVec 1) (a : BitVec 8) (r : BitVec 3), NoBlk s → NoLit s → r.toNat < 5 →
    let rm := rmOf r.toNat
    let draw := fun k => if rm = .rs then genWord (genNext (s.thread k).gen) else 0
    let gen := fun k => if rm = .rs then genNext (s.thread k).gen else (s.thread k).gen
    let float := fun (f : FFmt) (same : Bool) (src k : Nat) =>
      let v := valueOf src (Claim.operand s (typeWide src) a k)
      ({ x := BitVec.ofNat 64 (if same then f.round .rn 0 (v.integral f.prec rm (draw k)) else f.round rm (draw k) v)
         gen := gen k } : LaneOut)
    let int := fun (src : FFmt) (wide : Bool) (dst k : Nat) =>
      let y := toInteger dst rm (draw k) (flOf src (Claim.operand s wide a k))
      ({ x := BitVec.ofInt 64 y.1
         flags := if y.2 then 1 else 0, gen := gen k } : LaneOut)
    (∀ (e : BitVec 2) (src : BitVec 3), e ≠ 3 → src ≠ 7 → Runs s .base → DstOk s d w false →
      SrcOk s a (typeWide src.toNat) → ∃ t, exec (.cvtF d w a r e src) s = .next t ∧
        Claim.Lanes s t d w false (freedRegs a (typeWide src.toNat))
          (float (fmtOf e.toNat) (src.toNat == e.toNat) src.toNat)) ∧
    (∀ (src : BitVec 2) (e : BitVec 3), src ≠ 3 → Runs s .base → DstOk s d w (e == 2 || e == 3) → SrcOk s a false →
      ∃ t, exec (.cvtI d w a r src e) s = .next t ∧
        Claim.Lanes s t d w (e == 2 || e == 3) (freedRegs a false) (int (fmtOf src.toNat) false e.toNat)) ∧
    (∀ y : BitVec 4, y.toNat < 8 → Runs s .double →
      (DstOk s d w true → SrcOk s a (typeWide y.toNat) → ∃ t, exec (.cvtF64 d w a r 0 y) s = .next t ∧
        Claim.Lanes s t d w true (freedRegs a (typeWide y.toNat)) (float f64 (y == 7) y.toNat)) ∧
      (y ≠ 7 → DstOk s d w (y == 5 || y == 6) → SrcOk s a true → ∃ t, exec (.cvtF64 d w a r 1 y) s = .next t ∧
        Claim.Lanes s t d w (y == 5 || y == 6) (freedRegs a true)
          (if y.toNat < 3 then float (fmtOf y.toNat) false 7 else int f64 true (y.toNat - 3))))

/-- R63 to R66, R250, R251: CVTN and CVTNF on an extended-table narrow tensor (ETYPE 12): the code, the value, and the
flags NFSAT and NFNAN; another identifier is the tensor-identifier fault of R50, CODE 0x0013, before any lane. -/
def Claims.NarrowConversions : Prop :=
  ∀ (s : State) (d : BitVec 7) (w : BitVec 1) (a i : BitVec 8) (l : BitVec 24),
    Runs s .narrow → NoBlk s → (s.lead.lit = some l ∨ (NoLit s ∧ l = 0)) → l.toNat < 24 → l.toNat % 8 < 5 →
    DstOk s d w false → SrcOk s a false → s.enabled ≠ [] →
    let rm := rmOf (l.toNat % 8)
    let f := fmtOf (l.toNat / 8)
    let draw := fun k => if rm = .rs then genWord (genNext (s.thread k).gen) else 0
    let gen := fun k => if rm = .rs then genNext (s.thread k).gen else (s.thread k).gen
    (∀ e, tensorAt s (s.group s.leadGroup).blk i.toNat = some e → e.etype = 12 →
      (∃ t, exec (.cvtn d w a i) s = .next t ∧ Claim.Lanes s t d w false (freedRegs a false) fun k =>
        let c := (nfOf e.fmt).encode rm (draw k) (flOf f (Claim.operand s false a k))
        { x := BitVec.ofNat 64 c.1, gen := gen k, flags := (if c.2.1 then 2 else 0) ||| (if c.2.2 then 4 else 0) }) ∧
      (∃ t, exec (.cvtnf d w a i) s = .next t ∧ Claim.Lanes s t d w false (freedRegs a false) fun k =>
        { x := BitVec.ofNat 64 (f.round rm (draw k)
            ((nfOf e.fmt).decode ((Claim.operand s false a k).toNat % 2 ^ (nfOf e.fmt).width))), gen := gen k })) ∧
    ((∀ e, tensorAt s (s.group s.leadGroup).blk i.toNat = some e → e.etype ≠ 12) →
      exec (.cvtn d w a i) s = .next (tensorFault s i.toNat) ∧ exec (.cvtnf d w a i) s = .next (tensorFault s i.toNat))

/-- R67 to R69, R252, R253: TUNP writes the five trits of byte K as bytes, TDOT adds their products with five bytes of B; a
code from 243 on decodes as zeros with TERNBAD; under TUNP's trap mode the lanes with such a code raise the ternary-code trap,
CODE 0x0015, which is resumable and tells K and the code, and no lane takes effect. Completion is stated of: tunp, tdot. -/
def Obligations.PackedTernary : Prop :=
  ∀ (s : State) (d : BitVec 7) (w : BitVec 1) (a b : BitVec 8) (j : BitVec 2),
    Runs s .ternary → NoBlk s → NoLit s → SrcOk s a false →
    let code := fun k => (s.word a k).toNat / 256 ^ j.toNat % 256
    let elem := fun c i : Nat => if 243 ≤ c then (0 : Int) else match c / 3 ^ i % 3 with | 1 => 1 | 2 => -1 | _ => 0
    let unpacked := fun k : Nat =>
      ({ x := BitVec.ofNat 64 (((List.range 5).map fun i => (elem (code k) i % 256).toNat * 256 ^ i).sum)
         flags := if 243 ≤ code k then 8 else 0, gen := (s.thread k).gen } : LaneOut)
    (DstOk s d w true →
      (∃ t, exec (.tunp d w a 0 j) s = .next t ∧ Claim.Lanes s t d w true (freedRegs a false) unpacked) ∧
      ((∀ k ∈ s.enabled, code k < 243) →
        ∃ t, exec (.tunp d w a 1 j) s = .next t ∧ Claim.Lanes s t d w true (freedRegs a false) unpacked) ∧
      let bad := s.enabled.filter fun k => decide (243 ≤ code k)
      (bad ≠ [] → exec (.tunp d w a 1 j) s = .next (bundleTrap s bad 0x0015 true fun g =>
        (0, [s.issue.word.setWidth 64, BitVec.ofNat 64 j.toNat,
             BitVec.ofNat 64 (code ((bad.filter fun k => grpOf k == g).headD 0))])))) ∧
    (w = 0 → DstOk s d w false → SrcOk s b true → ∃ t, exec (.tdot d w a b) s = .next t ∧
      Claim.Lanes s t d w false (freedRegs a false ++ freedRegs b true) fun k =>
        let c := (s.word a k).toNat % 256
        { x := (BitVec.ofInt 32 (((s.thread k).reg d.toNat).toInt + ((List.range 5).map fun i =>
            elem c i * ((s.dword b k >>> (8 * i)).setWidth 8 : BitVec 8).toInt).sum)).setWidth 64
          flags := if 243 ≤ c then 8 else 0, gen := (s.thread k).gen })

/-- R74, R254, R255: SEED sets the generator, 1 in place of 0; SEED.rd reads it; FSRD reads FSTAT where nothing of the
group's is in flight, and FSRD.clr clears then the bits that its enabled lanes' masks name. -/
def Claims.GeneratorAndStatus : Prop :=
  ∀ (s : State) (d : BitVec 7) (w : BitVec 1) (a : BitVec 8), Runs s .base → NoBlk s → NoLit s →
    (SrcOk s a false → ∃ t, exec (.seed a) s = .next t ∧ SameFlags s t ∧ SamePreds s t ∧
      Completed s t [] (freedRegs a false) ∧ ∀ k, s.issues k → (t.thread k).gen =
        if (s.thread k).enabled then (if s.word a k = 0 then 1 else s.word a k) else (s.thread k).gen) ∧
    (DstOk s d w false → (∃ t, exec (.seedRd d w) s = .next t ∧ Quiet s t ∧ Completed s t (dstRegs d w false) [] ∧
        Gives s t d w fun k => (s.thread k).gen) ∧
      ((∀ k ∈ s.enabled, inFlight s (grpOf k) = false) →
        (∃ t, exec (.fsrd d w) s = .next t ∧ Quiet s t ∧ Completed s t (dstRegs d w false) [] ∧
          Gives s t d w fun k => (s.group (grpOf k)).fstat) ∧
        (SrcOk s a false → ∃ t, exec (.fsrdClr d w a) s = .next t ∧ SameGens s t ∧ SamePreds s t ∧
          Completed s t (dstRegs d w false) (freedRegs a false) ∧ (Gives s t d w fun k => (s.group (grpOf k)).fstat) ∧
          ∀ g, (tabGet s.groups g).isSome → (t.group g).fstat = (s.group g).fstat &&&
            ~~~((s.enabled.filter fun k => grpOf k == g).foldl (fun m k => m ||| (s.word a k &&& 63)) 0))))

/-! ## The uniform stream -/

namespace Sys2Proof.Machine.Claim

/-- The Lectern of a resident block executes the instruction, with no BLK bound. -/
structure LectRuns (s : State) : Prop where
  agent : s.issue.agent = .lectern
  block : (tabGet s.blocks s.issueBlock).isSome
  blk : s.lect.hints.bind (·.blk) = none

/-- No LIT is bound at the Lectern. -/
def LectNoLit (s : State) : Prop := s.lect.hints.bind (·.lit) = none

/-- Register qn as the Lectern holds it. -/
def q (s : State) (n : Nat) : DWord := tabGetD s.lect.q n 0

/-- The Lectern has executed a word that falls through or branches to `e.next`: it has appended entry `e`, holds the new
`qs`, waits where `wait` says, and everything but its block is unchanged (R173). -/
structure Entered (s t : State) (e : DqEntry) (qs : Nat → DWord) (wait : Bool) : Prop where
  dq : (t.block s.issueBlock).dq = (s.block s.issueBlock).dq ++ [e]
  pc : t.lect.pc = e.next
  hints : t.lect.hints = none
  q : ∀ n, Claim.q t n = qs n
  wait : t.lect.wait = if wait then .entry ((s.block s.issueBlock).dqBase + (s.block s.issueBlock).dq.length) else .none
  committed : (t.block s.issueBlock).q = (s.block s.issueBlock).q
  others : ∀ b, b ≠ s.issueBlock → tabGet t.blocks b = tabGet s.blocks b
  rest : { t with blocks := [] } = { s with blocks := [] }

/-- The registers with qd replaced. -/
def qWith (s : State) (d : Nat) (x : DWord) (n : Nat) : DWord := if n = d then x else q s n

/-- The entry of the word at hand. -/
def entry (s : State) : DqEntry := { addr := s.issue.pc, next := s.issue.pc + 4 }

/-- The second operand of UOP and UCMP (R227, R229, R230). -/
def second (s : State) (b : BitVec 6) (i : BitVec 1) (sext : Bool) : DWord :=
  if i = 0 then q s b.toNat
  else match s.lect.hints.bind (·.lit) with
    | none => b.setWidth 64
    | some l => if sext then (l ++ b : BitVec 30).signExtend 64 else (l ++ b : BitVec 30).setWidth 64

/-- A row of R229 or R230: the instruction, whether its immediate is signed, its result. -/
structure UniRow where
  form : BitVec 6 → BitVec 6 → BitVec 6 → BitVec 1 → Instr
  sext : Bool
  x : DWord → DWord → DWord

/-- The divisions of UOP (R57, R206, R229). -/
def udivRows : List UniRow := [
  ⟨.udivN64, false, fun a b => if b = 0 then -1 else BitVec.ofNat 64 (a.toNat / b.toNat)⟩,
  ⟨.uremN64, false, fun a b => if b = 0 then a else BitVec.ofNat 64 (a.toNat % b.toNat)⟩,
  ⟨.udivI64, true, fun a b => if b = 0 then -1 else BitVec.ofInt 64 (a.toInt.tdiv b.toInt)⟩,
  ⟨.uremI64, true, fun a b => if b = 0 then a else BitVec.ofInt 64 (a.toInt - b.toInt * a.toInt.tdiv b.toInt)⟩]

/-- UOP (R229). -/
def uopRows : List UniRow := [
  ⟨.uadd, true, (· + ·)⟩, ⟨.usub, true, (· - ·)⟩, ⟨.umul, true, (· * ·)⟩,
  ⟨.uand, false, (· &&& ·)⟩, ⟨.uor, false, (· ||| ·)⟩, ⟨.uxor, false, (· ^^^ ·)⟩,
  ⟨.ushl, false, fun a b => if 64 ≤ b.toNat then 0 else a <<< b.toNat⟩,
  ⟨.ushrN64, false, fun a b => if 64 ≤ b.toNat then 0 else a >>> b.toNat⟩,
  ⟨.ushrI64, false, fun a b => if 64 ≤ b.toNat then (if a.msb then -1 else 0) else a.sshiftRight b.toNat⟩,
  ⟨.uminI64, true, fun a b => BitVec.ofInt 64 (min a.toInt b.toInt)⟩,
  ⟨.umaxI64, true, fun a b => BitVec.ofInt 64 (max a.toInt b.toInt)⟩,
  ⟨.uminN64, false, fun a b => BitVec.ofNat 64 (min a.toNat b.toNat)⟩,
  ⟨.umaxN64, false, fun a b => BitVec.ofNat 64 (max a.toNat b.toNat)⟩,
  ⟨.umov, false, fun _ b => b⟩] ++ udivRows

/-- UCMP (R230). -/
def ucmpRows : List UniRow := [
  ⟨.ucmpEq, true, fun a b => if a = b then 1 else 0⟩,
  ⟨.ucmpNe, true, fun a b => if a = b then 0 else 1⟩,
  ⟨.ucmpLtI64, true, fun a b => if a.toInt < b.toInt then 1 else 0⟩,
  ⟨.ucmpGeI64, true, fun a b => if a.toInt < b.toInt then 0 else 1⟩,
  ⟨.ucmpLtN64, false, fun a b => if a.toNat < b.toNat then 1 else 0⟩,
  ⟨.ucmpGeN64, false, fun a b => if a.toNat < b.toNat then 0 else 1⟩]

/-- The operations of UGET by F[3:0] (R234). -/
noncomputable def ugets : List ((BitVec 6 → BitVec 8 → BitVec 1 → Instr) × BitVec 4) := [
  (.ugetFirst, 0), (.ugetAdd, 1), (.ugetMinI, 2), (.ugetMaxI, 3), (.ugetMinN, 4), (.ugetMaxN, 5), (.ugetAnd, 6),
  (.ugetOr, 7), (.ugetXor, 8), (.ugetAny, 9), (.ugetAll, 10), (.ugetCount, 11)]

/-- A source that the Lectern accepts in a UGET (R139, R141 to R143, R234). -/
structure UGetSource (s : State) (x : BitVec 8) (w : BitVec 1) : Prop where
  last : 96 ≤ codeOf x → lastOf x = false
  reg : codeOf x < 96 → codeOf x < (s.gridOf s.issueBlock).launch.regMax
  pair : codeOf x < 96 → w = 1 → codeOf x % 2 = 0 ∧ codeOf x + 1 < (s.gridOf s.issueBlock).launch.regMax

/-- Every member of the bundle stands at its written entry, no span open, no counter at its limit, and at a POST no write of its group
outstanding (R174, R286, R389). -/
structure AtEntries (s : State) : Prop where
  runs : Runs s .base
  handler : s.inHandler = false
  hints : NoBlk s
  spans : ∀ k ∈ s.issue.members, (s.thread k).span = none
  entries : ∀ k ∈ s.issue.members, ∃ e, entryOf s k = some e ∧ e.addr = s.issue.pc ∧ e.kind ≠ .copy ∧ e.kind ≠ .matrix
  posts : ∀ k ∈ s.issue.members, ∀ e, entryOf s k = some e → e.posts = true → drained s (grpOf k) = true

/-- The members have consumed their entries (R174, R411): each stands where its entry records, one uniform position on, and
its idempotent region starts there; registers, flags and memory stand. -/
structure Passed (s t : State) : Prop where
  pc : ∀ k, s.issues k → (t.thread k).pc =
    match entryOf s k with
    | some e => if e.taken then e.next else (s.thread k).pc + 4
    | none => (s.thread k).pc
  upos : ∀ k, s.issues k → (t.thread k).upos = (s.thread k).upos + 1
  region : ∀ k, s.issues k → (t.thread k).rentry = (t.thread k).pc ∧ (t.thread k).rcount = (s.thread k).rcount + 1 ∧
    (t.thread k).rgen = (s.thread k).gen
  regs : ∀ k, (t.thread k).v = (s.thread k).v ∧ (t.thread k).p = (s.thread k).p ∧ (t.thread k).gen = (s.thread k).gen
  others : ∀ k, k ∉ s.issue.members → tabGet t.threads k = tabGet s.threads k
  groups : t.groups = s.groups
  mem : t.mem = s.mem

end Sys2Proof.Machine.Claim

/-- R226 to R230: the Lectern executes BRU, every UOP and every UCMP, with or without a LIT on the last two: it writes one
entry, the register's new value in it, and goes on at the next word or, for a BRU whose condition holds, at the target.
Completion is stated of: bru, uadd, usub, umul, uand, uor, uxor, ushl, ushrN64, ushrI64, uminI64, umaxI64, uminN64, umaxN64,
umov, udivN64, uremN64, udivI64, uremI64, ucmpEq, ucmpNe, ucmpLtI64, ucmpGeI64, ucmpLtN64, ucmpGeN64. -/
def Obligations.LecternBranchesAndOperations : Prop :=
  ∀ s : State, Claim.LectRuns s →
    (∀ e ∈ Claim.uopRows ++ Claim.ucmpRows, ∀ (d a b : BitVec 6) (i : BitVec 1),
      let x := e.x (Claim.q s a.toNat) (Claim.second s b i e.sext)
      ∃ t, exec (e.form d a b i) s = .next t ∧
        Claim.Entered s t { Claim.entry s with wq := some (d.toNat, some x) } (Claim.qWith s d.toNat x) false) ∧
    (Claim.LectNoLit s → ∀ (g : BitVec 6) (n : BitVec 1) (o : BitVec 16),
      let taken := (g = 0 || Claim.q s g.toNat != 0) != (n == 1)
      ∃ t, exec (.bru g n o) s = .next t ∧
        Claim.Entered s t
          { Claim.entry s with
            taken := taken, next := if taken then s.issue.pc + 4 + 4 * o.signExtend 64 else s.issue.pc + 4 }
          (Claim.q s) false)

/-- R57, R206, R229: the divisions of UOP, signed and unsigned: the quotient truncates toward zero and the remainder is
a − b × quotient; a zero divisor gives all ones and a; −2^63 by −1 gives −2^63 and 0; no case traps. -/
def Claims.UniformDivision : Prop :=
  (∀ s : State, Claim.LectRuns s → ∀ e ∈ Claim.udivRows, ∀ (d a b : BitVec 6) (i : BitVec 1),
    let x := e.x (Claim.q s a.toNat) (Claim.second s b i e.sext)
    ∃ t, exec (e.form d a b i) s = .next t ∧
      Claim.Entered s t { Claim.entry s with wq := some (d.toNat, some x) } (Claim.qWith s d.toNat x) false) ∧
  (Claim.udivRows.map fun e => e.x 0x8000000000000000 0xFFFFFFFFFFFFFFFF).drop 2 = [0x8000000000000000, 0]

/-- R231, R233: ULD reads its size at q(QA) + offset, aligned down, through the block's address space, extended as the form
says; a fault is a block trap, CODE 0x0012, whose INFO1 is the reason and INFO2 is 4. That a free value says whether the threads stop
with the Lectern (R405) or not (R233) is the model's choice (log 65). -/
def Claims.UniformLoads : Prop :=
  ∀ (s : State) (d a b : BitVec 6) (sg : BitVec 1) (z : BitVec 2), Claim.LectRuns s → ¬(sg = 1 ∧ z = 3) →
    let size := 2 ^ z.toNat
    let off : DWord := match s.lect.hints.bind (·.lit) with
      | none => b.setWidth 64
      | some l => (l ++ b : BitVec 30).signExtend 64
    let va := (Claim.q s a.toNat + off * BitVec.ofNat 64 size) &&& ~~~BitVec.ofNat 64 (size - 1)
    (∀ x, readClean s (s.asidOf s.issueBlock) va .load size = .ok x →
      let v : DWord := if sg = 1 then
          (if z = 0 then (BitVec.ofNat 8 x).signExtend 64 else if z = 1 then (BitVec.ofNat 16 x).signExtend 64
            else (BitVec.ofNat 32 x).signExtend 64)
        else BitVec.ofNat 64 x
      ∃ t, exec (.uld d a b sg z) s = .next t ∧
        Claim.Entered (meets s (s.asidOf s.issueBlock) .load [(va, size)]) t { Claim.entry s with wq := some (d.toNat, some v) } (Claim.qWith s d.toNat v) false) ∧
    (∀ x r, readClean s (s.asidOf s.issueBlock) va .load size = .error (x, r) → r ≠ poisonReason →
      exec (.uld d a b sg z) s = .next (uldTrap s s.issueBlock 0x0012 true s.issue.pc va
        [s.issue.word.setWidth 64, BitVec.ofNat 64 r, 4]))

/-- R176, R219, R234, R235: at UGET and POST the Lectern writes the entry's address and waits there; ARRSET puts the new
array register into its entry and into the Lectern's own copy. -/
def Claims.LecternGetsAndPosts : Prop :=
  ∀ s : State, Claim.LectRuns s → Claim.LectNoLit s →
    (∀ e ∈ Claim.ugets, ∀ (d : BitVec 6) (x : BitVec 8) (w : BitVec 1), s.issue.members = [] → Claim.UGetSource s x w →
      ∃ t, exec (e.1 d x w) s = .next t ∧
        Claim.Entered s t { Claim.entry s with kind := .uget e.2 (w = 1), wq := some (d.toNat, none) } (Claim.q s) true) ∧
    (∀ d a b : BitVec 6, ∃ t, exec (.post d a b) s = .next t ∧ Claim.Entered s t
      { Claim.entry s with
        kind := .post (Claim.q s a.toNat) (Claim.q s b.toNat) false, wq := some (d.toNat, none) } (Claim.q s) true) ∧
    (∀ d a : BitVec 6, ∃ t, exec (.postSelf d a) s = .next t ∧ Claim.Entered s t
      { Claim.entry s with
        kind := .post (Claim.q s a.toNat) (Claim.q s 0) true, wq := some (d.toNat, none) } (Claim.q s) true) ∧
    (∀ (n : BitVec 4) (a f : BitVec 6), f ≠ 1 → f.toNat < 6 →
      let old := tabGetD s.lect.a n.toNat {}
      let x := Claim.q s a.toNat
      let new : ArrayReg := if f = 0 then { old with base := x.setWidth 57 } else if f = 2 then { old with extent := x.setWidth 31 }
        else if f = 3 then { old with esize := x.setWidth 2 } else if f = 4 then { old with mode := x.getLsbD 0 }
        else { old with pclass := x.setWidth 2 }
      ∃ t, exec (.arrset n a f) s = .next t ∧
        Claim.Entered s t { Claim.entry s with wa := some (n.toNat, new) } (Claim.q s) false ∧
        tabGetD t.lect.a n.toNat {} = new)

/-- R174, R234: threads at a BRU, UOP, UCMP, ULD, ARRSET, POST or UGET whose entry names the word consume the entry and execute
nothing in its place; at a UGET each adds its value, under its linear index, to the entry that is still to be written. -/
def Claims.ThreadsConsumeEntries : Prop :=
  ∀ s : State, Claim.AtEntries s →
    (∀ e ∈ Claim.uopRows ++ Claim.ucmpRows, ∀ (d a b : BitVec 6) (i : BitVec 1),
      ∃ t, exec (e.form d a b i) s = .next t ∧ Claim.Passed s t) ∧
    (NoLit s →
      (∀ (g : BitVec 6) (n : BitVec 1) (o : BitVec 16), ∃ t, exec (.bru g n o) s = .next t ∧ Claim.Passed s t) ∧
      (∀ d a b : BitVec 6, ∃ t, exec (.post d a b) s = .next t ∧ Claim.Passed s t) ∧
      (∀ d a : BitVec 6, ∃ t, exec (.postSelf d a) s = .next t ∧ Claim.Passed s t) ∧
      (∀ (n : BitVec 4) (a f : BitVec 6), f ≠ 1 → f.toNat < 6 →
        ∃ t, exec (.arrset n a f) s = .next t ∧ Claim.Passed s t) ∧
      (∀ e ∈ Claim.ugets, ∀ (d : BitVec 6) (x : BitVec 8) (w : BitVec 1), SrcOk s x (w == 1) → lastOf x = false →
        ∃ t, exec (e.1 d x w) s = .next t ∧ Claim.Passed s t ∧
          ∀ (b pos i : Nat) (y : DqEntry) (n : Nat), i + (s.block b).dqBase = pos → (s.block b).dq[i]? = some y →
            y.wq = some (n, none) → (∀ k ∈ s.issue.members, (s.group (grpOf k)).blk = b ∧ (s.thread k).upos = pos) →
            ∃ j, j + (t.block b).dqBase = pos ∧ (t.block b).dq[j]? = some { y with
              contrib := y.contrib ++ s.issue.members.map fun k =>
                ((s.thread k).lin, srcValue s k (s.thread k) (w == 1) (codeOf x)) })) ∧
    (∀ (d a b : BitVec 6) (sg : BitVec 1) (z : BitVec 2), ¬(sg = 1 ∧ z = 3) →
      ∃ t, exec (.uld d a b sg z) s = .next t ∧ Claim.Passed s t)

/-- R156, R174, R226: a thread with an open span at a BRU, UOP, UCMP, ULD, ARRSET or POST raises reason 8; one whose entry names
another word raises the uniform-order trap, CODE 0x000A. -/
def Claims.UniformOrderTraps : Prop :=
  ∀ s : State, Runs s .base → s.inHandler = false → NoBlk s → NoLit s →
    let traps := fun i : Instr =>
      ((∃ k ∈ s.issue.members, (s.thread k).span.isSome) →
        exec i s = .next (illegal s (s.issue.members.filter fun k => (s.thread k).span.isSome) 8)) ∧
      ((∀ k ∈ s.issue.members, (s.thread k).span = none) → disordered s ≠ [] →
        exec i s = .next (bundleTrap s (disordered s) 0x000A false fun x =>
          let k := ((disordered s).filter fun k => grpOf k == x).headD 0
          (0, [s.issue.word.setWidth 64, BitVec.ofNat 64 (s.thread k).upos,
               match entryOf s k with | some e => e.addr | none => 0xFFFFFFFFFFFFFFFF])))
    (∀ (g : BitVec 6) (n : BitVec 1) (o : BitVec 16), traps (.bru g n o)) ∧
    (∀ e ∈ Claim.uopRows ++ Claim.ucmpRows, ∀ (d a b : BitVec 6) (i : BitVec 1), traps (e.form d a b i)) ∧
    (∀ d a b : BitVec 6, traps (.post d a b) ∧ traps (.postSelf d a)) ∧
    (∀ (n : BitVec 4) (a f : BitVec 6), f ≠ 1 → f.toNat < 6 → traps (.arrset n a f)) ∧
    (∀ (d a b : BitVec 6) (sg : BitVec 1) (z : BitVec 2), ¬(sg = 1 ∧ z = 3) → traps (.uld d a b sg z))

/-- R176, R234, R235: when every live thread has issued the UGET or POST at which the Lectern waits, the Lectern writes the
combined value, or the status, into q(QD), and goes on. -/
def Claims.LecternWaitsEnd : Prop :=
  ∀ (s : State) (b pos d : Nat) (e : DqEntry), waitEntry s b = some (pos, e) → allPassed s b pos = true →
    s.lectStopped b = false → e.wq = some (d, none) →
    (∀ op w, e.kind = .uget op w → ∃ t, exec (.ugetCombine b) s = .next t ∧
      tabGetD (t.block b).lect.q d 0 = combine op w e.contrib ∧ (t.block b).lect.wait = .none ∧
      t.mem = s.mem ∧ t.threads = s.threads) ∧
    (∀ qa qb self, e.kind = .post qa qb self → ∃ t, exec (.postAct b) s = .next t ∧
      tabGetD (t.block b).lect.q d 0 = (postCard s b qa qb self e.hb).2 ∧ (t.block b).lect.wait = .none ∧
      t.mem = s.mem ∧ t.threads = s.threads)

/-- R234: when every live thread has issued the UGET at which the Lectern waits, q(QD) takes the value that the operation gives over the
values contributed, each under its own linear index: the first, the sum modulo 2^64, an extreme, a bitwise combination, any, all, or
the count of those that are not zero; 32-bit values read signed or unsigned as the operation does. -/
def Claims.UGetResults : Prop :=
  ∀ (s : State) (b pos d : Nat) (e : DqEntry) (op : BitVec 4) (w : Bool), waitEntry s b = some (pos, e) →
    allPassed s b pos = true → s.lectStopped b = false → e.wq = some (d, none) → e.kind = .uget op w →
    e.contrib ≠ [] → (e.contrib.map (·.1)).Nodup → op.toNat < 12 →
    let val := fun x : Nat × DWord => if w then x.2 else x.2 &&& 0xFFFFFFFF
    let int := fun x : Nat × DWord => if w then x.2.toInt else (x.2.setWidth 32 : Word).toInt
    ∃ t, exec (.ugetCombine b) s = .next t ∧
      let r := tabGetD (t.block b).lect.q d 0
      (op = 0 → ∀ x ∈ e.contrib, (∀ y ∈ e.contrib, x.1 ≤ y.1) → r = val x) ∧
      (op = 1 → r = BitVec.ofInt 64 (e.contrib.map int).sum) ∧
      (op = 2 → (∃ x ∈ e.contrib, r = BitVec.ofInt 64 (int x)) ∧ ∀ x ∈ e.contrib, r.toInt ≤ int x) ∧
      (op = 3 → (∃ x ∈ e.contrib, r = BitVec.ofInt 64 (int x)) ∧ ∀ x ∈ e.contrib, int x ≤ r.toInt) ∧
      (op = 4 → (∃ x ∈ e.contrib, r = val x) ∧ ∀ x ∈ e.contrib, r ≤ val x) ∧
      (op = 5 → (∃ x ∈ e.contrib, r = val x) ∧ ∀ x ∈ e.contrib, val x ≤ r) ∧
      (op = 6 → ∀ i < 64, r.getLsbD i = e.contrib.all fun x => (val x).getLsbD i) ∧
      (op = 7 → ∀ i < 64, r.getLsbD i = e.contrib.any fun x => (val x).getLsbD i) ∧
      (op = 8 → ∀ i < 64, r.getLsbD i = decide ((e.contrib.countP fun x => (val x).getLsbD i) % 2 = 1)) ∧
      (op = 9 → r = if e.contrib.any fun x => val x != 0 then 1 else 0) ∧
      (op = 10 → r = if e.contrib.all fun x => val x != 0 then 1 else 0) ∧
      (op = 11 → r = BitVec.ofNat 64 (e.contrib.countP fun x => val x != 0))

/-- R235: when every live thread has issued the POST at which the Lectern waits, q(QD) takes its status: 3 for a card address that is
zero or misplaced, 2 for a core that the die lacks or that is out of service, 1 where its local queue has no free slot, else 0; only
then is a card placed, behind those that wait there. -/
def Claims.PostStatuses : Prop :=
  ∀ (s : State) (b pos n : Nat) (e : DqEntry) (card target : DWord) (self : Bool), waitEntry s b = some (pos, e) →
    allPassed s b pos = true → s.lectStopped b = false → e.wq = some (n, none) → e.kind = .post card target self →
    let d := Config.dieOfCore (coreOfB b)
    let c := if self then Config.coreInDie (coreOfB b) else target.toNat % 2 ^ 32
    let g := Config.globalCore d c
    let cards := (s.core g).queue.cards
    ∃ t, exec (.postAct b) s = .next t ∧
      let q := tabGetD (t.block b).lect.q n 0
      if card = 0 ∨ card.toNat % 256 ≠ 0 ∨ 2 ^ 57 ≤ card.toNat then q = 3 ∧ t.cores = s.cores
      else if Config.coresOf d ≤ c ∨ (s.die d).coreOff.getLsbD c = true then q = 2 ∧ t.cores = s.cores
      else if 16 ≤ cards.length then q = 1 ∧ t.cores = s.cores
      else q = 0 ∧ (∀ o, o ≠ g → t.core o = s.core o) ∧ ∃ x : Card, (t.core g).queue.cards = cards ++ [x] ∧ x.addr = card ∧
        x.asid = s.asidOf b ∧ x.poster = coreOfB b

/-! ## Memory -/

namespace Sys2Proof.Machine.Claim

/-- The members of a bundle have passed a memory or synchronisation instruction: their program counters have moved on, no
register but the released ones has changed, nor any predicate, generator or flag; their idempotent region closes where
`closes` (R403). -/
structure Moved (s t : State) (closes : Bool) (freed : List Nat) : Prop where
  pc : ∀ k, s.issues k → (t.thread k).pc = (s.thread k).pc + 4
  regs : ∀ k, s.issues k → ∀ n, n ∉ freed → (t.thread k).reg n = (s.thread k).reg n
  others : ∀ k, k ∉ s.issue.members → tabGet t.threads k = tabGet s.threads k
  quiet : Quiet s t
  region : ∀ k, s.issues k → (t.thread k).rentry = (if closes then (s.thread k).pc + 4 else (s.thread k).rentry) ∧
    (t.thread k).rcount = if closes then (s.thread k).rcount + 1 else (s.thread k).rcount

/-- The accesses of a bundle's lanes that pass every check of R275 in a state without races, faults of the hardware, bank
commands still to execute, or an acquire that has not returned (R389). -/
structure Clear (s : State) (ls : List LaneAcc) (size : Nat) (acc : Access) (wrote : Bool) (atomic : LaneAcc → Option Inst)
    (o : Order) : Prop where
  bounds : ∀ l ∈ ls, l.bounds = none
  aligned : ∀ l ∈ ls, l.masked = false → l.addr.toNat % size = 0
  mapped : ∀ l ∈ ls, l.masked = false → ∀ va, l.place = .virt va → va.toNat < 2 ^ 57 ∧
    ∃ pa, translate s (s.asidOf (s.group (grpOf l.k)).blk) va acc = .ok pa
  blocks : ∀ l ∈ ls, ∀ b off, l.place = .shared b off → (tabGet s.blocks b).isSome
  races : ∀ a ∈ raceAccs s ls acc size wrote atomic, racesOf s o a = []
  clean : s.poison = [] ∧ s.weak = []
  banks : ∀ e ∈ s.banks, e.2.queue = []
  holds : acquiring s = false

/-- A field that LDG and STG accept for their address (R281): a pair, a latch, a q register, `%args` or `%vault`. -/
structure AddrOk (s : State) (a : BitVec 8) : Prop where
  field : SrcOk s a true
  special : codeOf a < 116 ∨ codeOf a = 123 ∨ codeOf a = 124

/-- The values of a bundle's load are on their way to its groups: lane, register and value of each enabled lane (R168,
R274), and stand in the latches (R143); memory and shared memory are unchanged. `acq`: later accesses wait for them (R389). -/
structure Loading (s t : State) (d : BitVec 7) (w : BitVec 1) (wide : Bool) (vals : List (Nat × DWord))
    (freed : List Nat) (acq : Bool := false) : Prop where
  moved : Moved s t false freed
  mem : t.mem = s.mem ∧ t.blocks = s.blocks
  latch : Latches s t w fun k v => v = ((vals.find? fun x => x.1 == k).map (·.2)).getD 0
  loads : ∀ k ∈ s.enabled, (tabGet s.groups (grpOf k)).isSome → (t.group (grpOf k)).loads = (s.group (grpOf k)).loads ++
    if w = 1 then [] else [(vals.filter fun v => grpOf v.1 == grpOf k).map fun v =>
      { lane := laneOf v.1, reg := d.toNat, wide := wide, value := v.2, born := s.tick, acq := acq }]

/-- What a lane's load returns: zero for a masked lane (R201), else the place's bytes, extended (R278). -/
def loaded (s : State) (signed : Bool) (size : Nat) (l : LaneAcc) : DWord :=
  if l.masked then 0 else
  let x := readPlace s l .load size
  if signed then (if size = 1 then (BitVec.ofNat 8 x).signExtend 32 else (BitVec.ofNat 16 x).signExtend 32 : Word).setWidth 64
  else BitVec.ofNat 64 x

/-- Where a lane writes: physical memory or a block's shared memory, and the byte there; nothing for a masked lane. -/
def target (s : State) (l : LaneAcc) : Option (Option Nat × Nat) :=
  if l.masked then none else match l.place with
  | .virt va => some (none, physOf s l.k .store va)
  | .shared b off => some (some b, off)
  | .phys pa => some (none, pa)

/-- Physical memory, or the shared memory of a block. -/
def space (s : State) : Option Nat → Bytes
  | none => s.mem
  | some b => (s.block b).shared

/-- Each byte outside the words that the lanes name is unchanged; a lane whose word no other lane touches gets `f` of its
old value where that is something. -/
structure Wrote (s t : State) (ls : List LaneAcc) (size : Nat) (f : LaneAcc → Nat → Option Nat) : Prop where
  frame : ∀ r a, (∀ l ∈ ls, ∀ p, target s l = some (r, p) → a < p ∨ p + size ≤ a) →
    byteAt (space t r) a = byteAt (space s r) a
  alone : ∀ pre l post r p, ls = pre ++ l :: post → target s l = some (r, p) →
    (∀ m ∈ pre ++ post, ∀ q, target s m = some (r, q) → q + size ≤ p ∨ p + size ≤ q) →
    bytesAt (space t r) p size = match f l (bytesAt (space s r) p size) with
      | some x => x % 256 ^ size
      | none => bytesAt (space s r) p size

/-- Where lanes of a store share bytes, the highest lane's value stands (R276). -/
def LastWins (s t : State) (ls : List LaneAcc) (size : Nat) (data : LaneAcc → Nat) : Prop :=
  ∀ pre l post r p, ls = pre ++ l :: post → target s l = some (r, p) →
    (∀ m ∈ post, ∀ q, target s m = some (r, q) → q + size ≤ p ∨ p + size ≤ q) →
    bytesAt (space t r) p size = data l % 256 ^ size

/-- Every write bundle is counted once in the gather counter of each group with a lane that is not masked (R277). -/
def Gathered (s t : State) (ls : List LaneAcc) : Prop :=
  ∀ g, (tabGet s.groups g).isSome → (t.group g).nGather =
    (s.group g).nGather + if ls.any fun l => !l.masked && grpOf l.k == g then 1 else 0

/-- Byte stores in canonical form: physical memory and every shared memory. -/
def StoresWf (s : State) : Prop := memoryWf s.mem ∧ ∀ b, memoryWf (s.block b).shared

/-- No group of an enabled member is at the limit of its gather counter (R277). -/
def GatherRoom (s : State) : Prop := ∀ k ∈ s.enabled, (s.group (grpOf k)).nGather < 63

/-- A load of format M: size, width, sign, space (R278, R280). -/
noncomputable def loadsM : List ((BitVec 7 → BitVec 1 → BitVec 8 → BitVec 4 → BitVec 4 → Instr) × Nat × Bool × Bool × Bool) := [
  (.ldN8, 1, false, false, false), (.ldI8, 1, false, true, false), (.ldN16, 2, false, false, false),
  (.ldI16, 2, false, true, false), (.ld32, 4, false, false, false), (.ld64, 8, true, false, false),
  (.lds32, 4, false, false, true), (.lds64, 8, true, false, true)]

/-- A store of format M: size, width, space (R278, R280). -/
noncomputable def storesM : List ((BitVec 7 → BitVec 1 → BitVec 8 → BitVec 4 → BitVec 4 → Instr) × Nat × Bool × Bool) := [
  (.st8, 1, false, false), (.st16, 2, false, false), (.st32, 4, false, false), (.st64, 8, true, false),
  (.sts32, 4, false, true), (.sts64, 8, true, true)]

end Sys2Proof.Machine.Claim

/-- R201, R274 to R281: every load through an array register and by address: with its checks passed, each enabled lane's
value is read at issue, zero-extended or sign-extended, zero for a masked lane, and travels to the destination; memory is
unchanged. -/
def Claims.Loads : Prop :=
  ∀ (s : State) (d : BitVec 7) (w : BitVec 1), Runs s .base → NoBlk s →
    (∀ e ∈ Claim.loadsM, ∀ (x : BitVec 8) (a o : BitVec 4), DstOk s d w e.2.2.1 → SrcOk s x false →
      let ls := lanesM x a o e.2.1 e.2.2.2.2 s
      Claim.Clear s ls e.2.1 .load false (fun _ => none) s.order →
      ∃ t, exec (e.1 d w x a o) s = .next t ∧
        Claim.Loading s t d w e.2.2.1 (ls.map fun l => (l.k, Claim.loaded s e.2.2.2.1 e.2.1 l)) (freedRegs x false)) ∧
    (∀ e ∈ [(Instr.ldg32, 4, false), (Instr.ldg64, 8, true)], ∀ a i : BitVec 8, DstOk s d w e.2.2 → Claim.AddrOk s a →
      let ls := s.enabled.map fun k =>
        ({ k := k, addr := s.dword a k + Claim.immDword s i, place := .virt (s.dword a k + Claim.immDword s i) } : LaneAcc)
      Claim.Clear s ls e.2.1 .load false (fun _ => none) s.order →
      ∃ t, exec (e.1 d w a i) s = .next t ∧
        Claim.Loading s t d w e.2.2 (ls.map fun l => (l.k, Claim.loaded s false e.2.1 l)) (freedRegs a true))

/-- R272, R273, R279: LDRO: each 4-byte element is memory's or one that the core's read-only cache holds. -/
def Claims.ReadOnlyLoads : Prop :=
  ∀ (s : State) (d : BitVec 7) (w : BitVec 1), Runs s .base → NoBlk s →
    ∀ e ∈ [(Instr.ldro32, 4, false), (Instr.ldro64, 8, true)], ∀ (x : BitVec 8) (a o : BitVec 4),
      DstOk s d w e.2.2 → SrcOk s x false →
      let ls := lanesM x a o e.2.1 false s
      Claim.Clear s ls e.2.1 .load false (fun _ => none) s.order →
      ∃ t vals, exec (e.1 d w x a o) s = .next t ∧ Claim.Loading s t d w e.2.2 vals (freedRegs x false) ∧
        vals.map (·.1) = ls.map (·.k) ∧ ∀ v ∈ vals, ∃ l ∈ ls, l.k = v.1 ∧ (l.masked = true → v.2 = 0) ∧
          ∀ va, l.masked = false → l.place = .virt va → ∀ j < e.2.1 / 4,
            let pa := physOf s l.k .load va + 4 * j
            let y : Word := (v.2 >>> (32 * j)).setWidth 32
            y = BitVec.ofNat 32 (bytesAt s.mem pa 4) ∨ tabGet (s.core (coreOfG (grpOf l.k))).ro (pa / 4) = some y

/-- R274 to R281: every store through an array register and by address: with its checks passed, each lane's bytes are written
in lane order, the higher lane last; no other byte changes; the gather counter rises by one. Completion is stated of: st8,
st16, st32, st64, sts32, sts64, stg32, stg64. -/
def Obligations.Stores : Prop :=
  ∀ (s : State) (d : BitVec 7) (l : BitVec 1), Runs s .base → NoBlk s → Claim.StoresWf s → Claim.GatherRoom s →
    (∀ e ∈ Claim.storesM, ∀ (x : BitVec 8) (a o : BitVec 4), SrcOk s (dataField d l) e.2.2.1 → SrcOk s x false →
      let ls := lanesM x a o e.2.1 e.2.2.2 s
      let data := fun l : LaneAcc => (srcValue s l.k (s.thread l.k) e.2.2.1 d.toNat).toNat
      Claim.Clear s ls e.2.1 .store true (fun _ => none) s.order →
      ∃ t, exec (e.1 d l x a o) s = .next t ∧ Claim.Wrote s t ls e.2.1 (fun l _ => some (data l)) ∧
        Claim.LastWins s t ls e.2.1 data ∧ Claim.Gathered s t ls ∧
        Claim.Moved s t false (freedRegs (dataField d l) e.2.2.1 ++ freedRegs x false)) ∧
    (∀ e ∈ [(Instr.stg32, 4, false), (Instr.stg64, 8, true)], ∀ a i : BitVec 8, SrcOk s (dataField d l) e.2.2 →
      Claim.AddrOk s a →
      let ls := s.enabled.map fun k =>
        ({ k := k, addr := s.dword a k + Claim.immDword s i, place := .virt (s.dword a k + Claim.immDword s i) } : LaneAcc)
      let data := fun l : LaneAcc => (srcValue s l.k (s.thread l.k) e.2.2 d.toNat).toNat
      Claim.Clear s ls e.2.1 .store true (fun _ => none) s.order →
      ∃ t, exec (e.1 d l a i) s = .next t ∧ Claim.Wrote s t ls e.2.1 (fun l _ => some (data l)) ∧
        Claim.LastWins s t ls e.2.1 data ∧ Claim.Gathered s t ls ∧
        Claim.Moved s t false (freedRegs (dataField d l) e.2.2 ++ freedRegs a true))

/-- R270, R283, R284: LDT and STT on a ready tile, DSLD and DSST on ranks that have started. Completion is stated of: ldt,
stt, dsld, dsst. -/
def Obligations.TileAndRankAccesses : Prop :=
  ∀ (s : State) (d : BitVec 7) (w : BitVec 1) (a : BitVec 8) (z : BitVec 1), Runs s .base → NoBlk s → NoLit s →
    SrcOk s a false →
    let wide := z == 1
    let size := if z = 1 then 8 else 4
    let b := (s.group s.leadGroup).blk
    let data := fun l : LaneAcc => (srcValue s l.k (s.thread l.k) wide d.toNat).toNat
    (∀ n : BitVec 6, n.toNat < (s.gridOf b).launch.nTile → (s.tile b n.toNat).state = .ready →
      leaving s s.enabled n.toNat = false →
      let ls := lanesT a n.toNat size s
      (DstOk s d w wide → Claim.Clear s ls size .load false (fun _ => none) s.order →
        ∃ t, exec (.ldt d w a z n) s = .next t ∧
          Claim.Loading s t d w wide (ls.map fun l => (l.k, Claim.loaded s false size l)) (freedRegs a false)) ∧
      (SrcOk s (dataField d w) wide → Claim.StoresWf s → Claim.GatherRoom s →
        Claim.Clear s ls size .store true (fun _ => none) s.order →
        ∃ t, exec (.stt d w a z n) s = .next t ∧ Claim.Wrote s t ls size (fun l _ => some (data l)) ∧
          Claim.LastWins s t ls size data ∧ Claim.Gathered s t ls ∧
          Claim.Moved s t false (freedRegs (dataField d w) wide ++ freedRegs a false))) ∧
    (∀ (c : BitVec 1) (r : BitVec 4), rankWaits a c r s = false →
      let ls := lanesR a c r size s
      (DstOk s d w wide → Claim.Clear s ls size .load false (fun _ => none) s.order →
        ∃ t, exec (.dsld d w a z c r) s = .next t ∧
          Claim.Loading s t d w wide (ls.map fun l => (l.k, Claim.loaded s false size l)) (freedRegs a false)) ∧
      (SrcOk s (dataField d w) wide → Claim.StoresWf s → Claim.GatherRoom s →
        Claim.Clear s ls size .store true (fun _ => none) s.order →
        ∃ t, exec (.dsst d w a z c r) s = .next t ∧ Claim.Wrote s t ls size (fun l _ => some (data l)) ∧
          Claim.LastWins s t ls size data ∧ Claim.Gathered s t ls ∧
          Claim.Moved s t false (freedRegs (dataField d w) wide ++ freedRegs a false)))

namespace Sys2Proof.Machine.Claim

/-- The translation of a lane's address fails (R126, R129). -/
def unmapped (s : State) (acc : Access) (l : LaneAcc) : Option Nat :=
  match l.masked, l.place with
  | false, .virt va => match translate s (s.asidOf (s.group (grpOf l.k)).blk) va acc with
    | .error r => some r
    | .ok _ => none
  | _, _ => none

/-- The lowest address of a group's lanes among `bad`. -/
def Lowest (bad : List LaneAcc) (g : Nat) (a : DWord) : Prop :=
  (∃ l ∈ bad, grpOf l.k = g ∧ l.addr = a) ∧ ∀ l ∈ bad, grpOf l.k = g → a.toNat ≤ l.addr.toNat

/-- `run` is one resumable trap of the lanes `bad`, if there are any, and of no others, with CODE `code`; `rec g a info` holds of ADDR
and the trap-specific fields of each group's record. Nothing but event counters has changed before it. -/
def TrapsLanes (s : State) (run : Res) (bad : List LaneAcc) (code : Nat) (rec : Nat → DWord → List DWord → Prop) : Prop :=
  bad ≠ [] → ∃ s1 f, { s1 with cores := s.cores } = s ∧ run = .next (bundleTrap s1 (bad.map (·.k)) code true f) ∧
    ∀ l ∈ bad, rec (grpOf l.k) (f (grpOf l.k)).1 (f (grpOf l.k)).2

/-- The checks of R275 in their order, each with its lanes and its record (R129, R201, R409). -/
def Checks (s : State) (ls : List LaneAcc) (size : Nat) (acc : Access) (kind : Nat) (run : Res) : Prop :=
  let word : DWord := s.issue.word.setWidth 64
  let on := ls.filter fun l => !l.masked
  let out := ls.filter fun l => l.bounds.isSome
  let odd := on.filter fun l => l.addr.toNat % size != 0
  let high := on.filter fun l => match l.place with | .virt va => decide (2 ^ 57 ≤ va.toNat) | _ => false
  let bad := ls.filter fun l => (unmapped s acc l).isSome
  TrapsLanes s run out 0x0010 (fun g a info => ∃ l i1 i2, out.find? (fun l => grpOf l.k == g) = some l ∧
    l.bounds = some (a, i1, i2) ∧ info = [word, i1, i2]) ∧
  (out = [] → TrapsLanes s run odd 0x0011 fun g a info => Lowest odd g a ∧ info = [word, BitVec.ofNat 64 size]) ∧
  (out = [] → odd = [] → TrapsLanes s run high 0x0012 fun g a info => Lowest high g a ∧
    info = [word, 0, BitVec.ofNat 64 kind]) ∧
  (out = [] → odd = [] → high = [] → s.poison = [] → TrapsLanes s run bad 0x0012 fun g a info => Lowest bad g a ∧
    ∃ l ∈ bad, ∃ r, grpOf l.k = g ∧ l.addr = a ∧ unmapped s acc l = some r ∧
      info = [word, BitVec.ofNat 64 r, BitVec.ofNat 64 kind])

end Sys2Proof.Machine.Claim

/-- R129, R201, R275, R409: loads and stores check bounds, alignment and translation in that order; the first kind that an enabled
lane meets is one resumable trap, CODE 0x0010, 0x0011 or 0x0012, of exactly the lanes that meet it; ADDR is the lowest faulting
address of a group, and a page fault's reason is that lane's. -/
def Claims.AccessChecks : Prop :=
  ∀ s : State, Runs s .base → NoBlk s → acquiring s = false →
    (∀ (d : BitVec 7) (w : BitVec 1), ∀ e ∈ Claim.loadsM, ∀ (x : BitVec 8) (a o : BitVec 4), DstOk s d w e.2.2.1 → SrcOk s x false →
      Claim.Checks s (lanesM x a o e.2.1 e.2.2.2.2 s) e.2.1 .load 0 (exec (e.1 d w x a o) s)) ∧
    (∀ (d : BitVec 7) (w : BitVec 1), ∀ e ∈ [(Instr.ldg32, 4, false), (Instr.ldg64, 8, true)], ∀ a i : BitVec 8,
      DstOk s d w e.2.2 → Claim.AddrOk s a → Claim.Checks s (s.enabled.map fun k =>
          ({ k := k, addr := s.dword a k + Claim.immDword s i, place := .virt (s.dword a k + Claim.immDword s i) } : LaneAcc))
        e.2.1 .load 0 (exec (e.1 d w a i) s)) ∧
    (Claim.GatherRoom s → ∀ (d : BitVec 7) (l : BitVec 1),
      (∀ e ∈ Claim.storesM, ∀ (x : BitVec 8) (a o : BitVec 4), SrcOk s (dataField d l) e.2.2.1 → SrcOk s x false →
        Claim.Checks s (lanesM x a o e.2.1 e.2.2.2 s) e.2.1 .store 1 (exec (e.1 d l x a o) s)) ∧
      (∀ e ∈ [(Instr.stg32, 4, false), (Instr.stg64, 8, true)], ∀ a i : BitVec 8, SrcOk s (dataField d l) e.2.2 →
        Claim.AddrOk s a → Claim.Checks s (s.enabled.map fun k =>
            ({ k := k, addr := s.dword a k + Claim.immDword s i, place := .virt (s.dword a k + Claim.immDword s i) } : LaneAcc))
          e.2.1 .store 1 (exec (e.1 d l a i) s)))

/-- R115 to R117, R195, R196, R282: SPILL stores each enabled thread's register in its own scratch slice and the shadow's
ends beside the slices of lanes 0 and 1; FILL takes the register back. -/
def Claims.SpillAndFill : Prop :=
  ∀ (s : State) (k : BitVec 8), Runs s .base → s.inHandler = false → NoBlk s → NoLit s → k.toNat < 96 → s.poison = [] →
    acquiring s = false →
    (∀ a : BitVec 8, codeOf a < 96 → SrcOk s a false → Claim.GatherRoom s → memoryWf s.mem →
      ∃ t, exec (.spill a k) s = .next t ∧ Claim.Moved s t false (freedRegs a false) ∧ t.blocks = s.blocks ∧
        (∀ m ∈ s.enabled, bytesAt t.mem (groupSlice (grpOf m) (laneOf m) (8 * k.toNat)) 4 =
          ((s.thread m).reg (codeOf a)).toNat) ∧
        (∀ m ∈ s.enabled,
          bytesAt t.mem (groupSlice (grpOf m) 0 (8 * k.toNat + 4)) 4 =
            (BitVec.ofInt 32 ((s.group (grpOf m)).shadow (codeOf a)).lo).toNat ∧
          bytesAt t.mem (groupSlice (grpOf m) 1 (8 * k.toNat + 4)) 4 =
            (BitVec.ofInt 32 ((s.group (grpOf m)).shadow (codeOf a)).hi).toNat) ∧
        ∀ p, (∀ m ∈ s.enabled, ∀ o ∈ [groupSlice (grpOf m) (laneOf m) (8 * k.toNat),
            groupSlice (grpOf m) 0 (8 * k.toNat + 4), groupSlice (grpOf m) 1 (8 * k.toNat + 4)],
          p < o ∨ o + 4 ≤ p) → byteAt t.mem p = byteAt s.mem p) ∧
    (∀ d : BitVec 7, DstOk s d 0 false → ∃ t, exec (.fill d k) s = .next t ∧ Quiet s t ∧
      Completed s t (dstRegs d 0 false) [] ∧
      Gives s t d 0 fun m => BitVec.ofNat 32 (bytesAt s.mem (groupSlice (grpOf m) (laneOf m) (8 * k.toNat)) 4))

/-! ## Synchronisation -/

namespace Sys2Proof.Machine.Claim

/-- A format A instruction passes the checks of R387 and R388, and its release, if it is one, need not wait (R389). -/
structure AtomicReady (s : State) (sc : BitVec 3) (i : BitVec 7) (rel : Bool) : Prop where
  runs : Runs s .base
  blk : NoBlk s
  scope : sc.toNat < 6
  lit : litA s.lead < 16
  index : SrcOk s ((0 : BitVec 1) ++ i) false
  drained : rel = true → ∀ k ∈ s.enabled, (s.group (grpOf k)).nGather = 0 ∧ (s.group (grpOf k)).atomics = []

/-- The order that an atomic's lanes leave, each reading what the one before it wrote (R389, R391). -/
def acquired (s : State) (ls : List LaneAcc) (size sc : Nat) (acq rel : Bool) (f : Nat → Nat → Option Nat) : Order :=
  (performLanes s (ls.map (resolve s .store)) size sc acq rel f).1.order

/-- The old values of an atomic are on their way to the register `d` (R391), later accesses waiting for them if it is an acquire
(R389); a lane whose word no other lane touches gets what the word held. -/
structure Returning (s t : State) (ls : List LaneAcc) (size : Nat) (d : BitVec 7) (acq : Bool) : Prop where
  values : ∃ vals : List (Nat × DWord), vals.map (·.1) = ls.map (·.k) ∧
    (∀ k ∈ s.enabled, (tabGet s.groups (grpOf k)).isSome → (t.group (grpOf k)).atomics = (s.group (grpOf k)).atomics ++
      [(vals.filter fun v => grpOf v.1 == grpOf k).map fun v =>
        { lane := laneOf v.1, reg := d.toNat, wide := size == 8, value := v.2, born := s.tick, acq := acq }]) ∧
    (Latches s t 0 fun k v => v = ((vals.find? fun x => x.1 == k).map (·.2)).getD 0) ∧
    ∀ pre l post, ls = pre ++ l :: post → (l.masked = true → (l.k, 0) ∈ vals) ∧
      ∀ r p, target s l = some (r, p) →
        (∀ m ∈ pre ++ post, ∀ q, target s m = some (r, q) → q + size ≤ p ∨ p + size ≤ q) →
        (l.k, BitVec.ofNat 64 (bytesAt (space s r) p size)) ∈ vals

end Sys2Proof.Machine.Claim

/-- R387 to R392, R403: ATOM and CAS: the word is read, replaced in lane order, and its old value returned; the region
closes. -/
def Claims.AtomicsReturnOldValues : Prop :=
  ∀ (s : State) (d : BitVec 7) (sc : BitVec 3) (i : BitVec 7) (a : BitVec 4),
    let acq := ordAcq s.lead
    let rel := ordRel s.lead
    Claim.AtomicReady s sc i rel → Claim.StoresWf s →
    ∀ size, size = 4 ∨ size = 8 →
      let wide := size == 8
      let ls := lanesA i a size s
      let reg := fun (k n : Nat) => (srcValue s k (s.thread k) wide n).toNat
      let clear := fun f => Claim.Clear s ls size .store true (fun l => some (instOf s l.k sc.toNat))
        (Claim.acquired s ls size sc.toNat acq rel f)
      (∀ (o : BitVec 3) (f : Nat → Nat → Nat), atomicFn o.toNat (litAlt s.lead) size = some f → d.toNat < 96 →
        DstOk s d 0 wide → clear (fun k old => some (f old (reg k d.toNat))) →
        ∃ t, exec (if size = 4 then .atom32 d sc o i a else .atom64 d sc o i a) s = .next t ∧
          Claim.Wrote s t ls size (fun l old => some (f old (reg l.k d.toNat))) ∧ Claim.Returning s t ls size d acq ∧
          Claim.Moved s t true []) ∧
      (litAlt s.lead = false → d.toNat % (size / 2) = 0 → d.toNat + size / 2 ≤ s.regMax → d.toNat + size / 2 ≤ 96 →
        (∀ j < size / 2, dstHeld s false (d.toNat + j) = false) →
        let swap := fun (k old : Nat) => if old = reg k d.toNat then some (reg k (d.toNat + size / 4)) else none
        clear swap →
        ∃ t, exec (if size = 4 then .cas32 d sc i a else .cas64 d sc i a) s = .next t ∧
          Claim.Wrote s t ls size (fun l old => swap l.k old) ∧
          Claim.Returning s t ls size d acq ∧ Claim.Moved s t true [])

/-- R377, R390 to R392, R395: RED and the signal-word writes: no result; a gather count of one; the region closes; the value
that stands is the operation's. -/
def Claims.ReductionsAndSignals : Prop :=
  ∀ s : State, Claim.StoresWf s → Claim.GatherRoom s →
    (∀ (d : BitVec 7) (sc o : BitVec 3) (i : BitVec 7) (a : BitVec 4) (size : Nat) (f : Nat → Nat → Nat),
      Claim.AtomicReady s sc i (ordRel s.lead) → size = 4 ∨ size = 8 → ordAcq s.lead = false →
      atomicFn o.toNat (litAlt s.lead) size = some f → SrcOk s ((0 : BitVec 1) ++ d) (size == 8) →
      let ls := lanesA i a size s
      let give := fun (k old : Nat) => some (f old (srcValue s k (s.thread k) (size == 8) d.toNat).toNat)
      Claim.Clear s ls size .store true (fun l => some (instOf s l.k sc.toNat))
        (Claim.acquired s ls size sc.toNat false (ordRel s.lead) give) →
      ∃ t, exec (if size = 4 then .red32 d sc o i a else .red64 d sc o i a) s = .next t ∧
        Claim.Wrote s t ls size (fun l old => give l.k old) ∧ Claim.Gathered s t ls ∧ Claim.Moved s t true []) ∧
    (∀ e ∈ [(Instr.sigwSt, fun _ n : Nat => n), (Instr.sigwAdd, fun o n => (o + n) % 2 ^ 64), (Instr.sigwMax, max)],
      ∀ v x : BitVec 8, Runs s .base → NoBlk s → NoLit s → SrcOk s v true → SrcOk s x true →
      (∀ k ∈ s.enabled, (s.group (grpOf k)).nGather = 0 ∧ (s.group (grpOf k)).atomics = []) →
      (∀ g ∈ s.grids, g.2.stage ≠ .waiting) →
      let ls := s.enabled.map fun k => ({ k := k, addr := s.dword x k, place := .virt (s.dword x k) } : LaneAcc)
      let give := fun (k old : Nat) => some (e.2 old (s.dword v k).toNat)
      Claim.Clear s ls 8 .store true (fun l => some (instOf s l.k 4)) (Claim.acquired s ls 8 4 false true give) →
      ∃ t, exec (e.1 v x) s = .next t ∧ Claim.Wrote s t ls 8 (fun l old => give l.k old) ∧ Claim.Gathered s t ls ∧
        Claim.Moved s t true (freedRegs v true ++ freedRegs x true))

/-- R389, R394, R403: LDACQ loads with an acquire; STREL stores once the group's earlier writes are complete, and closes the
region. -/
def Claims.AcquireAndRelease : Prop :=
  ∀ (s : State) (d : BitVec 7) (sc : BitVec 3) (z : BitVec 1) (i : BitVec 7) (a : BitVec 4), litA s.lead % 8 = 0 →
    let wide := z == 1
    let size := if z = 1 then 8 else 4
    let ls := lanesA i a size s
    let data := fun l : LaneAcc => (srcValue s l.k (s.thread l.k) wide d.toNat).toNat
    (Claim.AtomicReady s sc i false → d.toNat < 96 → DstOk s d 0 wide →
      Claim.Clear s ls size .load false (fun _ => none) (acquireLanes s (ls.map (resolve s .load)) size sc.toNat) →
      ∃ t, exec (.ldacq d sc z i a) s = .next t ∧
        Claim.Loading s t d 0 wide (ls.map fun l => (l.k, Claim.loaded s false size l)) [] true) ∧
    (Claim.AtomicReady s sc i true → SrcOk s ((0 : BitVec 1) ++ d) wide → Claim.StoresWf s → Claim.GatherRoom s →
      Claim.Clear s ls size .store true (fun _ => none) s.order →
      ∃ t, exec (.strel d sc z i a) s = .next t ∧ Claim.Wrote s t ls size (fun l _ => some (data l)) ∧
        Claim.LastWins s t ls size data ∧ Claim.Gathered s t ls ∧ Claim.Moved s t true [])

/-- R375, R396, R397: FENCE passes once its threads' writes are complete and waits otherwise; WAIT passes where each group's
counter is at most n, and changes nothing while it is not. -/
def Claims.FencesAndWaits : Prop :=
  ∀ s : State, Runs s .base → NoBlk s → NoLit s →
    (∀ sc : BitVec 3, sc.toNat < 6 →
      let done := ∀ k ∈ s.enabled, (s.group (grpOf k)).nGather = 0 ∧ (s.group (grpOf k)).atomics = []
      (done → ∃ t, exec (.fence sc) s = .next t ∧ Claim.Moved s t false [] ∧ t.mem = s.mem ∧ t.blocks = s.blocks ∧
        t.groups = s.groups) ∧ (¬done → exec (.fence sc) s = .next s)) ∧
    (∀ e ∈ [(Instr.waitCopy, fun g : Group => g.nCopy), (Instr.waitMatrix, fun g => g.nMatrix),
        (Instr.waitGather, fun g => g.nGather), (Instr.waitNearBank, fun g => g.nBank),
        (Instr.waitCollective, fun g => g.nColl)], ∀ n : BitVec 6,
      let done := ∀ k ∈ s.enabled, e.2 (s.group (grpOf k)) ≤ n.toNat
      (done → ∃ t, exec (e.1 n) s = .next t ∧ Claim.Moved s t false [] ∧ t.mem = s.mem ∧ t.blocks = s.blocks ∧
        t.groups = s.groups) ∧ (¬done → exec (e.1 n) s = .next s))

/-- R389, R398 to R403: a barrier whose arrivals bring no fault: an enabled thread of BAR and CBAR waits at the instruction, one of
BARA and CBARA passes and its group counts the arrival; every region closes. It waits while a write of its threads is
outstanding. -/
def Claims.Barriers : Prop :=
  ∀ (s : State) (n : BitVec 10) (x : BitVec 8), Runs s .base → s.inHandler = false → NoBlk s → NoLit s →
    100 ≤ codeOf x → SrcOk s x false →
    let b := (s.group s.leadGroup).blk
    let r := (s.gridOf b).launch
    ∀ e ∈ [(Instr.bar, false, true), (Instr.bara, false, false), (Instr.cbar, true, true), (Instr.cbara, true, false)],
      n.toNat < (if e.2.1 then r.nCBar else r.nBar) →
      let done := ∀ k ∈ s.enabled, (s.group (grpOf k)).nGather = 0 ∧ (s.group (grpOf k)).atomics = []
      (¬done → exec (e.1 n x) s = .next s) ∧ (done →
      (arriveAll s b e.2.1 n.toNat s.enabled fun k => if codeOf x = 126 then none else some (s.word x k).toNat).2.2 = [] →
      (e.2.2 = false → ∀ k ∈ s.enabled, (s.group (grpOf k)).nColl < 63) →
      ∃ t, exec (e.1 n x) s = .next t ∧ t.mem = s.mem ∧ Quiet s t ∧
        (∀ k, k ∉ s.issue.members → tabGet t.threads k = tabGet s.threads k) ∧
        (∀ k, s.issues k → (t.thread k).v = (s.thread k).v ∧ (t.thread k).rentry = (s.thread k).pc + 4 ∧
          (t.thread k).rcount = (s.thread k).rcount + 1 ∧
          (e.2.2 = true → (s.thread k).enabled = true →
            (t.thread k).pc = (s.thread k).pc ∧ ∃ ph, (t.thread k).wait = .bar e.2.1 n.toNat ph) ∧
          (e.2.2 = false ∨ (s.thread k).enabled = false → (t.thread k).pc = (s.thread k).pc + 4)) ∧
        (e.2.2 = false → ∀ k ∈ s.enabled, (tabGet s.groups (grpOf k)).isSome →
          (t.group (grpOf k)).nColl = (s.group (grpOf k)).nColl + 1))

/-! ## Commands of the Lectern -/

namespace Sys2Proof.Machine.Claim

/-- A command that the word at hand issues; where SYNC is set it stands before its start (R285). -/
def command (s : State) (kind : CmdKind) (sync : Bool) : Cmd :=
  { kind := kind, state := if sync then .sync else .ready, word := s.issue.word, pc := s.issue.pc
    pos := (s.block s.issueBlock).dqBase + (s.block s.issueBlock).dq.length }

/-- The Lectern has written entry `e` and issued command `c`: both stand last in their queues; the tiles are `tiles`, the
Lectern has gone on, or waits where SYNC is set, and all else is unchanged (R173, R285). -/
structure Queued (s t : State) (e : DqEntry) (c : Cmd) (tiles : Nat → Tile) : Prop where
  dq : (t.block s.issueBlock).dq = (s.block s.issueBlock).dq ++ [e]
  cmds : (t.block s.issueBlock).cmds = (s.block s.issueBlock).cmds ++ [c]
  tiles : ∀ n, t.tile s.issueBlock n = tiles n
  pc : t.lect.pc = s.issue.pc + 4
  wait : t.lect.wait = if c.state = .sync then .entry c.pos else .none
  uniform : ∀ n, q t n = q s n
  shared : (t.block s.issueBlock).shared = (s.block s.issueBlock).shared
  others : ∀ b, b ≠ s.issueBlock → tabGet t.blocks b = tabGet s.blocks b
  rest : { t with blocks := [] } = { s with blocks := [] }

/-- Field X names q0 to q15 without a last use, an even one for a pair (R285). -/
def XOk (x : BitVec 8) (pair : Bool) : Prop :=
  lastOf x = false ∧ 100 ≤ codeOf x ∧ codeOf x < 116 ∧ (pair = true → codeOf x % 2 = 0)

/-- The value of X, and of the second member of its pair. -/
def x0 (s : State) (x : BitVec 8) : DWord := q s (codeOf x - 100)
def x1 (s : State) (x : BitVec 8) : DWord := q s (codeOf x - 99)

/-- The tiles of the issuing block, and the tiles with entry n replaced. -/
def tiles (s : State) (n : Nat) : Tile := s.tile s.issueBlock n
def tilesWith (s : State) (n : Nat) (x : Tile) (m : Nat) : Tile := if m = n then x else tiles s m

/-- A region, OFFSET in bits [15:0] and LEN in bits [31:16], that its space holds (R268, R289). -/
def RegionFits (s : State) (vault : Bool) (r : Nat) : Prop :=
  r < 2 ^ 32 ∧ 1 ≤ r / 2 ^ 16 ∧
    if vault then r % 2 ^ 16 + r / 2 ^ 16 ≤ 24576
    else (r % 2 ^ 16 + r / 2 ^ 16) * 256 ≤ (s.gridOf s.issueBlock).launch.sharedBytes

/-- The tile that a region makes. -/
def tileOf (st : TileState) (p : BitVec 1) (r : Nat) (id : Byte) : Tile :=
  { state := st, vault := p = 1, offset := BitVec.ofNat 16 r, len := BitVec.ofNat 16 (r / 2 ^ 16), tid := id }

/-- The block has taken the region of tile `x`, which its Cupboard then holds as `y`: where a released tile left bytes in the region,
they are unspecified to this acquisition (R290, log 44); nothing else changes. -/
structure Taken (s u : State) (x y : Tile) : Prop where
  clean : (∀ r ∈ s.released, r.1 + r.2.1 ≤ regionLoc s s.issueBlock x ∨ regionLoc s s.issueBlock x + x.bytes ≤ r.1) → u = s ∧ y = x
  met : (∃ r ∈ s.released, r.1 < regionLoc s s.issueBlock x + x.bytes ∧ regionLoc s s.issueBlock x < r.1 + r.2.1) →
    u = { s with fresh := s.fresh + 1 } ∧ y = { x with taken := s.fresh + 1 }

/-- Bytes of a tensor's box (R287). -/
def boxBytes (t : Tensor) : Nat := t.rb * t.rows

end Sys2Proof.Machine.Claim

/-- R268, R269, R289, R290: TACQ makes an empty tile ready, or filling with its fill command issued, of a region whose bytes are
unspecified only where a released tile left them; TREL waits for a filling
tile and issues the release or the drain of a ready one, before its start; a tile in another state raises the tile-state
trap, CODE 0x0014, of the block. -/
def Claims.TileCommands : Prop :=
  ∀ (s : State) (i x : BitVec 8) (p : BitVec 1) (n : BitVec 6), Claim.LectRuns s → Claim.LectNoLit s → Claim.StoresWf s →
    n.toNat < (s.gridOf s.issueBlock).launch.nTile →
    let b := s.issueBlock
    let now := Claim.tiles s n.toNat
    let r := (Claim.x0 s x).toNat
    let trap := blockTrap s b 0x0014 false s.issue.pc 0 [s.issue.word.setWidth 64, n.setWidth 64,
      (match now.state with | .empty => 0 | .filling => 1 | .ready => 2 | .draining => 3 : DWord),
      BitVec.ofNat 64 (s.block b).rank]
    (Claim.XOk x false → (now.state = .empty → Claim.RegionFits s (p = 1) r →
        ∃ t u y, exec (.tacq x p n) s = .next t ∧ Claim.Taken s u (Claim.tileOf .ready p r now.tid) y ∧
          Claim.Entered u t (Claim.entry s) (Claim.q s) false ∧ (t.block b).cmds = (s.block b).cmds ∧
          ∀ m, t.tile b m = Claim.tilesWith s n.toNat y m) ∧
      (now.state ≠ .empty → exec (.tacq x p n) s = .next trap)) ∧
    (∀ ten, Claim.XOk x true → tensorAt s b i.toNat = some ten → now.state = .empty → Claim.RegionFits s (p = 1) r →
      Claim.boxBytes ten ≤ r / 2 ^ 16 * 256 → ten.fits (Claim.x1 s x) = true →
      ∃ t u y, exec (.tacqFill i x p n) s = .next t ∧ Claim.Taken s u (Claim.tileOf .filling p r i) y ∧
        Claim.Queued u t { Claim.entry s with kind := .copy }
          { Claim.command s .fill false with src := i.toNat, dst := n.toNat, d0 := Claim.x1 s x }
          (Claim.tilesWith s n.toNat y)) ∧
    ((now.state = .ready → ∃ t, exec (.trel n) s = .next t ∧
        Claim.Queued s t (Claim.entry s) { Claim.command s .release true with dst := n.toNat } (Claim.tiles s)) ∧
      (now.state = .filling → exec (.trel n) s = .next s) ∧
      (now.state = .empty ∨ now.state = .draining → exec (.trel n) s = .next trap)) ∧
    (∀ ten, Claim.XOk x false → tensorAt s b i.toNat = some ten → now.state = .ready →
      Claim.boxBytes ten ≤ now.len.toNat * 256 → ten.fits (Claim.x0 s x) = true →
      ∃ t, exec (.trelWb i x n) s = .next t ∧
        Claim.Queued s t { Claim.entry s with kind := .copy }
          { Claim.command s .drain true with src := i.toNat, dst := n.toNat, d0 := Claim.x0 s x } (Claim.tiles s))

/-- R285, R286, R291 to R294, R310: COPY, COPYM, MCAST and MMAT issue their command, before its start where SYNC is set; PFX
writes its entry and changes no value; a tensor that does not exist is a block trap, CODE 0x0013. -/
def Claims.CopyAndMatrixCommands : Prop :=
  ∀ (s : State) (i x : BitVec 8) (y : BitVec 1), Claim.LectRuns s →
    let b := s.issueBlock
    (∀ (l : BitVec 24) (src dst : Tensor), s.lect.hints.bind (·.lit) = some l → l.toNat < 256 → Claim.XOk x true →
      tensorAt s b i.toNat = some src → tensorAt s b l.toNat = some dst →
      src.etype = dst.etype → src.fmt = dst.fmt → src.ndim = dst.ndim → src.ext = dst.ext →
      src.fits (Claim.x0 s x) = true → dst.fits (Claim.x1 s x) = true →
      let c := fun kind => { Claim.command s kind (y = 1) with
        src := i.toNat, dst := l.toNat, d0 := Claim.x0 s x, d1 := Claim.x1 s x }
      (∃ t, exec (.copy i x y) s = .next t ∧
        Claim.Queued s t { Claim.entry s with kind := .copy } (c .copy) (Claim.tiles s)) ∧
      (∀ w, readVirt s (s.asidOf b) (s.issue.pc + 4) .fetch 4 = .ok w → (w / 2 ^ 24 = 0xA4 ∨ w / 2 ^ 24 = 0xA6) →
        ∃ t, exec (.copym i x y) s = .next t ∧
          Claim.Queued s t { Claim.entry s with kind := .copy } (c .copym) (Claim.tiles s))) ∧
    (Claim.LectNoLit s → Claim.XOk x false →
      (∀ (n : BitVec 6) (ten : Tensor), n.toNat < (s.gridOf b).launch.nTile → tensorAt s b i.toNat = some ten →
        (∀ r < ranksOf s b, ∃ z, rankBlock s b r = some z ∧ (z = b ∨ (s.block z).started = true) ∧
          (s.tile z n.toNat).state = .ready ∧ (s.tile z n.toNat).vault = false ∧
          Claim.boxBytes ten ≤ (s.tile z n.toNat).len.toNat * 256) → ten.fits (Claim.x0 s x) = true →
        ∃ t, exec (.mcast i x y n) s = .next t ∧
          Claim.Queued s t { Claim.entry s with kind := .copy }
            { Claim.command s .mcast (y = 1) with src := i.toNat, dst := n.toNat, d0 := Claim.x0 s x } (Claim.tiles s)) ∧
      ((tensorAt s b i.toNat).isSome → ∀ f ∈ [Instr.pfxL2, Instr.pfxVault], ∃ t, exec (f i x) s = .next t ∧
        Claim.Entered s t (Claim.entry s) (Claim.q s) false ∧ (t.block b).cmds = (s.block b).cmds ∧
        (t.block b).tiles = (s.block b).tiles) ∧
      (tensorAt s b i.toNat = none → ∀ f ∈ [Instr.pfxL2, Instr.pfxVault], exec (f i x) s =
        .next (blockTrap s b 0x0013 false s.issue.pc 0 [s.issue.word.setWidth 64, i.setWidth 64])) ∧
      (∀ (zc nb na : BitVec 1) (p : BitVec 2),
        ∀ f ∈ [(Instr.mmat, Class.base, 0xA4), (Instr.mmatNf, Class.narrow, 0xA6)],
        f.2.1.onDie (Config.dieOfCore s.issue.core) = true → descTilesBad (s.gridOf b).launch.nTile (Claim.x0 s x).toNat = false →
        ∃ t, exec (f.1 i x zc nb na p y) s = .next t ∧
          ∃ c, Claim.Queued s t { Claim.entry s with kind := .matrix } c (Claim.tiles s) ∧ c.matrix = true ∧
            c.state = (Claim.command s .mmat (y = 1)).state ∧ c.pos = (Claim.command s .mmat (y = 1)).pos ∧
            c.mmatOp = { opc := f.2.2, idB := i.toNat, desc := (Claim.x0 s x).toNat, ranks := p.toNat + 1,
                         na := na = 1, nb := nb = 1, zc := zc = 1, j0 := 0 }))

/-- R321, R334, R336 to R338, R342 to R344: the attention commands of the Lectern: SLSET binds or unbinds kN; SLAPP, SLGROW,
SBSEND, SBMRG, PSEL, KVPK and KVUNP issue their command, which starts as with SYNC; an SBSEND of a later round stalls. -/
def Claims.AttentionCommands : Prop :=
  ∀ (s : State) (x : BitVec 8), Claim.LectRuns s → Claim.LectNoLit s →
    Class.attention.onDie (Config.dieOfCore s.issue.core) = true →
    let b := s.issueBlock
    let v := Claim.x0 s x
    let copies := fun t c => Claim.Queued s t { Claim.entry s with kind := .copy } c (Claim.tiles s)
    let ready := fun n bytes => (Claim.tiles s n).state = .ready ∧ bytes ≤ (Claim.tiles s n).len.toNat * 256 ∧
      n < (s.gridOf b).launch.nTile
    (∀ n : BitVec 4,
      (Claim.XOk x false → v.toNat % 64 = 0 → v.toNat < 2 ^ 57 → ∃ t, exec (.slset n x) s = .next t ∧
        Claim.Queued s t { Claim.entry s with wk := some (n.toNat, some v) } (Claim.command s .slset true) (Claim.tiles s) ∧
        tabGet t.lect.k n.toNat = some v) ∧
      (codeOf x = 127 → lastOf x = false → ∃ t, exec (.slset n x) s = .next t ∧
        Claim.Queued s t { Claim.entry s with wk := some (n.toNat, none) } (Claim.command s .slset true) (Claim.tiles s) ∧
        tabGet t.lect.k n.toNat = none)) ∧
    (∀ (n : BitVec 4) (d : BitVec 6) (a : DWord), Claim.XOk x false → tabGet s.lect.k n.toNat = some a →
      let c := fun kind => { Claim.command s kind true with src := n.toNat, slab := a, d0 := v, dst := d.toNat }
      let e := { Claim.entry s with wq := some (d.toNat, none) }
      (v.toNat < 2 ^ 32 → ∃ t, exec (.slapp n x d) s = .next t ∧ Claim.Queued s t e (c .slapp) (Claim.tiles s)) ∧
      (v.toNat % 16 = 0 → ∃ t, exec (.slgrow n x d) s = .next t ∧ Claim.Queued s t e (c .slgrow) (Claim.tiles s))) ∧
    (∀ (n : BitVec 6) (nr dv : Nat) (ch : Channel), Claim.XOk x false → sideShape v = some (nr, dv) →
      (clusterOf s b).channel = some ch → ready n.toNat (8 * nr + 4 * nr * dv) →
      ((s.block b).sbSent ≤ ch.round → ∃ t, exec (.sbsend n x) s = .next t ∧
        copies t { Claim.command s .sbsend true with dst := n.toNat, d0 := v } ∧
        (t.block b).sbSent = (s.block b).sbSent + 1) ∧
      (ch.round < (s.block b).sbSent → exec (.sbsend n x) s = .next s) ∧
      ((s.block b).rank = 0 → ∀ m : BitVec 1, ∃ t, exec (.sbmrg n x m) s = .next t ∧
        copies t { Claim.command s .sbmrg true with dst := n.toNat, d0 := v, flag := m = 1 })) ∧
    (∀ (n : BitVec 4) (a : DWord), Claim.XOk x true → tabGet s.lect.k n.toNat = some a →
      (∀ cq co k p0 np, pselArgs v (Claim.x1 s x) = some (cq, co, k, p0, np) → ready cq 0 → ready co (8 * k) →
        ∃ t, exec (.psel n x) s = .next t ∧
          copies t { Claim.command s .psel true with
            src := cq, dst := co, slab := a, d0 := v, d1 := Claim.x1 s x }) ∧
      (∀ c bf cnt tok, kvArgs v (Claim.x1 s x) = some (c, bf, cnt, tok) → ready c 0 →
        ∀ f ∈ [(Instr.kvpk, CmdKind.kvpk), (Instr.kvunp, CmdKind.kvunp)], ∃ t, exec (f.1 n x) s = .next t ∧
          copies t { Claim.command s f.2 true with
            src := n.toNat, dst := c, slab := a, d0 := v, d1 := Claim.x1 s x }))

/-! ## Attention and matrix instructions of threads -/

namespace Sys2Proof.Machine.Claim

/-- The token that a lane names. -/
def token (s : State) (a : BitVec 8) (k : Nat) : Nat := (s.word a k).toNat

/-- The fields that OSM's and OSMN's registers must satisfy (R340, R341): `size` registers from `r`, a pair from `m`,
no result on its way to them. -/
def StateRegs (s : State) (r m : BitVec 7) (size : Nat) : Prop :=
  m.toNat % 2 = 0 ∧ m.toNat + 2 ≤ 96 ∧ m.toNat + 2 ≤ s.regMax ∧ r.toNat + size ≤ 96 ∧ r.toNat + size ≤ s.regMax ∧
    (size = 2 → r.toNat % 2 = 0) ∧ (r.toNat + size ≤ m.toNat ∨ m.toNat + 2 ≤ r.toNat) ∧
    srcHeld s true m.toNat = false ∧ dstHeld s true m.toNat = false ∧ dstHeld s (size == 2) r.toNat = false

/-- FSTAT of every group gains the flags of its enabled members, and only those (R62). -/
def Flagged (s t : State) (f : Nat → BitVec 6) : Prop :=
  ∀ g, (tabGet s.groups g).isSome → (t.group g).fstat =
    (s.enabled.filter fun k => grpOf k == g).foldl (fun x k => x ||| (f k).setWidth 32) (s.group g).fstat

/-- Members have passed an instruction that closes their region and writes at most `dst` and the released registers. -/
structure Closed (s t : State) (dst : List Nat) : Prop where
  pc : ∀ k, s.issues k → (t.thread k).pc = (s.thread k).pc + 4
  region : ∀ k, s.issues k → (t.thread k).rentry = (s.thread k).pc + 4 ∧ (t.thread k).rcount = (s.thread k).rcount + 1 ∧
    (t.thread k).rgen = (s.thread k).gen
  regs : ∀ k, s.issues k → ∀ n, n ∉ dst → (t.thread k).reg n = (s.thread k).reg n
  others : ∀ k, k ∉ s.issue.members → tabGet t.threads k = tabGet s.threads k
  gens : SameGens s t
  preds : SamePreds s t
  mem : t.mem = s.mem ∧ t.blocks = s.blocks

/-- Row and page offsets of a slot (R323). -/
def slabOffset (r : Slab) (page : Bool) (x : Nat) : Nat :=
  if page then x / 64 * Slab.pgb r
  else if Slab.paged r then x / 64 * Slab.pgb r + 6 * Slab.ch r + x % 64 * Slab.rb r else x * Slab.tstr r

end Sys2Proof.Machine.Claim

/-- R322, R323, R328, R339: SLXL gives each enabled lane the address of its token's row, SLXL.pg that of its page, through
the record that its kN names, where a slot and a base exist for every lane. -/
def Claims.SlabAddresses : Prop :=
  ∀ (s : State) (d : BitVec 7) (w : BitVec 1) (a : BitVec 8) (n : BitVec 4) (addr : Nat → DWord) (r : Nat → Slab)
    (slot base : Nat → Nat),
    Runs s .attention → NoBlk s → NoLit s → DstOk s d w true → SrcOk s a false → acquiring s = false →
    ∀ f ∈ [(Instr.slxl, false), (Instr.slxlPg, true)],
    (∀ k ∈ s.enabled, (s.blockOf (grpOf k)).kView (viewPos s k (s.thread k)) n.toNat = some (addr k) ∧
      readSlab s (s.asidOf (s.group (grpOf k)).blk) (addr k) = .ok (r k) ∧ Slab.bad (r k) = none ∧
      Slab.slot (r k) (Claim.token s a k) = some (slot k) ∧ Slab.baseFor (r k) (slot k) = some (base k) ∧
      (f.2 = true → Slab.paged (r k) = true)) →
      let u := slxlReads s n.toNat
      ∃ t, exec (f.1 d w a n) s = .next t ∧ Quiet u t ∧ Completed u t (dstRegs d w true) (freedRegs a false) ∧
        GivesPair u t d w fun k => BitVec.ofNat 64 (base k + Claim.slabOffset (r k) f.2 (slot k))

/-- R322, R337, R339: the slot of a token: the token itself in a retrieval head, where a token of 2^CAPL or above has none; in a
streaming head the token itself below S and S + (t mod W) from S on, so that every token has one. SLXL and SLXL.pg read each
lane's token as an unsigned 32-bit value; where the records can be read and hold, lanes whose token has no slot raise the
slab-range fault, CODE 0x0041, which is resumable. -/
def Claims.SlabSlots : Prop :=
  (∀ (r : Slab) (t : Nat),
    (Slab.streaming r = false → t < 2 ^ Slab.capl r → Slab.slot r t = some t) ∧
    (Slab.streaming r = false → 2 ^ Slab.capl r ≤ t → Slab.slot r t = none) ∧
    (Slab.streaming r = true → t < Slab.sink r → Slab.slot r t = some t) ∧
    (Slab.streaming r = true → Slab.sink r ≤ t → Slab.slot r t = some (Slab.sink r + t % 2 ^ Slab.wl r))) ∧
  ∀ (s : State) (d : BitVec 7) (w : BitVec 1) (a : BitVec 8) (n : BitVec 4) (addr : Nat → DWord) (r : Nat → Slab),
    Runs s .attention → NoBlk s → NoLit s → DstOk s d w true → SrcOk s a false →
    ∀ f ∈ [(Instr.slxl, false), (Instr.slxlPg, true)],
    (∀ k ∈ s.enabled, (s.blockOf (grpOf k)).kView (viewPos s k (s.thread k)) n.toNat = some (addr k) ∧
      readSlab s (s.asidOf (s.group (grpOf k)).blk) (addr k) = .ok (r k) ∧ Slab.bad (r k) = none ∧
      (f.2 = true → Slab.paged (r k) = true)) →
    let out := s.enabled.filter fun k => (Slab.slot (r k) (Claim.token s a k)).isNone
    (out ≠ [] → ∃ info, exec (f.1 d w a n) s = .next (bundleTrap s out 0x0041 true info))

/-- R331: the weight E(x, m) of FP32 values with x ≤ m, as OSM and the Sideboard use it. -/
def Claims.SoftmaxWeight : Prop :=
  ∀ x m : Nat, let vx := f32.decode x
    let vm := f32.decode m
    vx.isNan = false → vm.isNan = false → vx.cmp vm ≠ 1 →
    (vm = .inf true → softWeight x m = 0) ∧
    (vm ≠ .inf true → vx.cmp vm = 0 → softWeight x m = 0x3F800000) ∧
    (vm ≠ .inf true → vx.cmp vm ≠ 0 → (vm = .inf false ∨ vx = .inf true) → softWeight x m = 0) ∧
    (vm ≠ .inf true → vx.cmp vm ≠ 0 → vm ≠ .inf false → vx ≠ .inf true →
      let diff := f32.round .rn 0 (vx.add .rn vm.neg)
      softWeight x m = FunOp.run f32 .ex2 (f32.round .rn 0 ((f32.decode diff).mul (f32.decode 0x3FB8AA3B))))

/-- R331 to R333, R340, R341: OSM and OSM.mrg put m and l of the merge into the state pair and its two weights into the
result pair; OSMN writes the normalised accumulator; the flags of the lanes go to their groups. The core's results pass their
residue check (R456). -/
def Claims.SoftmaxSteps : Prop :=
  ∀ (s : State) (r m : BitVec 7) (x : BitVec 8), Runs s .attention → NoBlk s → NoLit s →
    tabGetD s.upsets s.issue.core 0 = 0 →
    let reg := fun k n => ((s.thread k).reg n).toNat
    (Claim.StateRegs s r m 2 →
      (∀ f ∈ [(Instr.osm, false, fun v : DWord => (v.toNat % 2 ^ 32, 0x3F800000)),
          (Instr.osmMrg, true, fun v => (v.toNat % 2 ^ 32, v.toNat / 2 ^ 32))],
        SrcOk s x f.2.1 →
        let y := fun k => f.2.2 (if f.2.1 then s.dword x k else (s.word x k).setWidth 64)
        let g := fun k => softMerge (reg k m.toNat) (reg k (m.toNat + 1)) (y k).1 (y k).2
        ∃ t, exec (f.1 r x m) s = .next t ∧
          Claim.Closed s t ([r.toNat, r.toNat + 1, m.toNat, m.toNat + 1] ++ freedRegs x f.2.1) ∧
          Claim.Flagged s t (fun k => (g k).flags) ∧
          ∀ k, s.issues k → (s.thread k).enabled = true →
            (t.thread k).reg m.toNat = BitVec.ofNat 32 (g k).m ∧ (t.thread k).reg (m.toNat + 1) = BitVec.ofNat 32 (g k).l ∧
            (t.thread k).reg r.toNat = BitVec.ofNat 32 (g k).a1 ∧
            (t.thread k).reg (r.toNat + 1) = BitVec.ofNat 32 (g k).a2)) ∧
    (Claim.StateRegs s r m 1 → SrcOk s x false →
      let y := fun k => normalise (s.word x k).toNat (reg k m.toNat) (reg k (m.toNat + 1))
      ∃ t, exec (.osmn r x m) s = .next t ∧ SameGens s t ∧ SamePreds s t ∧
        Claim.Flagged s t (fun k => (y k).2) ∧ Completed s t [r.toNat] (freedRegs x false) ∧
        ∀ k, s.issues k → (s.thread k).enabled = true → (t.thread k).reg r.toNat = BitVec.ofNat 32 (y k).1)

namespace Sys2Proof.Machine.Claim

/-- The whole bundle can start an MMA (R305, R306): no span is open, it holds every live thread of its groups, no MMA of
theirs is in flight, and no fault of the hardware is to come. -/
structure MmaReady (s : State) : Prop where
  handler : s.inHandler = false
  blk : NoBlk s
  spans : ∀ k ∈ s.issue.members, (s.thread k).span = none
  whole : ∀ k ∈ s.issue.members, grpOf k ∈ wholeGroups s ∧ (s.group (grpOf k)).mma = none
  clean : s.poison = [] ∧ s.weak = [] ∧ ∀ k ∈ s.issue.members, tabGetD s.upsets (coreOfG (grpOf k)) 0 = 0

/-- An MMA has issued for the groups of the bundle (R304 to R306, R309): each holds its command with the results that it
will land; no register changes yet. -/
structure MmaIssued (s t : State) (o : Nat → MmaOp) (ten : Nat → Tensor) : Prop where
  closed : Closed s t []
  runs : ∀ k ∈ s.issue.members, (tabGet s.groups (grpOf k)).isSome → ∃ r, (t.group (grpOf k)).mma = some r ∧
    let g := grpOf k
    r.dreg = 16 * (o g).db ∧ r.areg = (o g).areg ∧ r.anum = 16 * (o g).nkb ∧ r.lastA = (o g).lastA ∧
    r.stages = mmaStages s g (s.group g).blk (o g) (ten g) ((kBlock (o g).opc (ten g).etype (ten g).fmt).getD 1)

/-- Every group of the bundle names a valid tensor and passes the checks of R307. -/
def MmaPasses (s : State) (o : Nat → MmaOp) (ten : Nat → Tensor) : Prop :=
  ∀ g ∈ s.issue.members.map grpOf, tensorAt s (s.group g).blk (o g).id = some (ten g) ∧
    mmaCheck s (s.group g).blk (s.liveOf g) (o g) = .pass

/-- The ranges that order 1 of R307 admits: A and D within v0 to v95 and below REGMAX, and apart; no result is on its way to
them (R168). -/
def RangesOk (s : State) (areg nkb db : Nat) : Prop :=
  areg % 16 = 0 ∧ areg + 16 * nkb ≤ 96 ∧ 16 * db + 64 ≤ 96 ∧ areg + 16 * nkb ≤ s.regMax ∧ 16 * db + 64 ≤ s.regMax ∧
    (areg + 16 * nkb ≤ 16 * db ∨ 16 * db + 64 ≤ areg) ∧
    ∀ k ∈ s.issue.members, (s.group (grpOf k)).onWayIn areg (16 * nkb) = false ∧
      (s.group (grpOf k)).onWayIn (16 * db) 64 = false

/-- The LIT that an MMA admits (R302, R307): required by the tile form, no bit above 10, its tile below NTILE, its q
register there. -/
def MmaLit (s : State) (t : BitVec 1) : Prop :=
  (t = 1 → s.lead.lit.isSome) ∧ ∀ l, s.lead.lit = some l →
    l.toNat < 2 ^ 11 ∧ (t = 1 → l.toNat / 32 < (s.gridOf (s.group s.leadGroup).blk).launch.nTile) ∧
    (l.getLsbD 4 = true → ∀ k ∈ s.issue.members,
      ((s.blockOf (grpOf k)).qView (viewPos s k (s.thread k)) (l.toNat % 16)).isSome)

/-- An exact sum of products of integers, as the matrix array holds its terms (R298, R299). -/
def intTerm (x : Int) : Term := { v := flOfInt x 0 false, nan := false }

end Sys2Proof.Machine.Claim

/-- R302 to R309: MMA in its three classes, with its ranges and checks passed for each group, issues for every group of the
bundle, each at its own first row, and goes on in a new region; the threads of a bundle that holds no group whole wait at the
word. -/
def Claims.MatrixIssue : Prop :=
  ∀ (s : State) (i x : BitVec 8) (t z b a h : BitVec 1) (d : BitVec 2),
    ∀ f ∈ [(Instr.mma, Class.base, 0xA0), (Instr.mmaNf, Class.narrow, 0xA1), (Instr.mmaF64, Class.double, 0xA2)],
    Runs s f.2.1 →
    let o := mmaOp f.2.2 i x t z b a h d s
    (Claim.RangesOk s (codeOf x) (h.toNat + 1) d.toNat → Claim.MmaLit s t → Claim.MmaReady s → ∀ ten, Claim.MmaPasses s o ten →
      ∃ t', exec (f.1 i x t z b a h d) s = .next t' ∧ Claim.MmaIssued s t' o ten) ∧
    (s.inHandler = false → (∀ k ∈ s.issue.members, grpOf k ∉ wholeGroups s) →
      ∃ t', exec (f.1 i x t z b a h d) s = .next t' ∧ t'.mem = s.mem ∧ t'.groups = s.groups ∧
        ∀ k, s.issues k → (t'.thread k).wait = .whole (s.thread k).pc ∧ (t'.thread k).pc = (s.thread k).pc ∧
          (t'.thread k).v = (s.thread k).v ∧ (t'.thread k).run = none)

/-- R316, R317: MMA.CONT issues for each group of the bundle the command that the continuation block at its q(X) names, from the
block's NEXTKB; MMAT.CONT issues the matrix command of its block at the Lectern, before its start where the block's FBYTE has SYNC
set; a misaligned block address is the alignment
fault, CODE 0x0011. -/
def Claims.MatrixContinuations : Prop :=
  (∀ (s : State) (x : BitVec 8), Runs s .base → NoLit s → Claim.UniOk s x → Claim.MmaReady s →
    (∀ k ∈ s.issue.members, (s.group (grpOf k)).loads = [] ∧ (s.group (grpOf k)).atomics = []) →
    let va := fun g => s.dword x ((s.liveOf g).headD 0)
    (∀ (v : Nat → Nat) (ten : Nat → Tensor),
      let c := fun g => (contOf (v g)).1
      let o := fun g => mmaOfCont (c g)
      (∀ g ∈ s.issue.members.map grpOf, (va g).toNat % 32 = 0 ∧
        readVirt s (s.asidOf (s.group g).blk) (va g) .load 32 = .ok (v g) ∧
        (classOf (c g).opc.toNat).onDie (Config.dieOfCore (coreOfB (s.group g).blk)) = true ∧
        mmaContBad (contOf (v g)).2 (c g) = false ∧ mmaContReason s (s.group g).blk (c g) = none) →
      Claim.MmaPasses s o ten →
      ∃ t, exec (.mmaCont x) s = .next t ∧ Claim.MmaIssued s t o ten ∧
        ∀ g, (o g).opc = v g % 256 ∧ (o g).j0 = v g / 2 ^ 32 % 256) ∧
    (∀ g, (∀ k ∈ s.issue.members, grpOf k = g ∧ (s.thread k).run = none) → (s.core (coreOfG g)).runs = [] →
      (va g).toNat % 32 ≠ 0 →
      let u := bundleTrap s (s.liveOf g) 0x0011 true fun _ => (va g, [s.issue.word.setWidth 64, 32])
      exec (.mmaCont x) s = .next { u with issue := { u.issue with members := s.issue.members } })) ∧
  (∀ (s : State) (x : BitVec 8), Claim.LectRuns s → Claim.LectNoLit s → Claim.XOk x false →
    let b := s.issueBlock
    let va := Claim.x0 s x
    (va.toNat % 32 = 0 → s.weak = [] → ∀ v, readClean s (s.asidOf b) va .load 32 = .ok v →
      let c := (contOf v).1
      (classOf c.opc.toNat).onDie (Config.dieOfCore s.issue.core) = true →
      descTilesBad (s.gridOf b).launch.nTile c.qval.toNat = false → mmatContBad s b (contOf v).2 c = false →
      ∃ t m, exec (.mmatCont x) s = .next t ∧
        (t.block b).dq = (s.block b).dq ++ [{ Claim.entry s with kind := .matrix }] ∧ t.mem = s.mem ∧
        (t.block b).cmds.getLast? = some m ∧ m.mmatOp = (mmatCmdOf c).mmatOp ∧ m.pc = c.pc ∧
        m.state = (if c.fbyte.getLsbD 0 then .sync else .ready) ∧ m.matrix = true) ∧
    (va.toNat % 32 ≠ 0 → exec (.mmatCont x) s =
      .next (blockTrap s b 0x0011 true s.issue.pc va [s.issue.word.setWidth 64, 32])))

/-- R76, R299, R304: one k-block over integer elements adds the exact sum of its products to the accumulator, modulo 2^32,
and sets no flag. -/
def Claims.IntegerMatrixSums : Prop :=
  ∀ (c : DWord) (xs ys : List Int), xs.length = ys.length →
    accumulate .int c (blockSum (xs.map Claim.intTerm) (ys.map fun y => some (Claim.intTerm y))) =
      (((c.setWidth 32 + BitVec.ofInt 32 (List.zipWith (· * ·) xs ys).sum : Word).setWidth 64), false)

/-- R142, R304, R306: at its completion an MMA lands its last results in its lanes, releases the A range on last use, sets
INV where a NaN was made, and frees the group's array; a group with none in flight is unchanged. -/
def Claims.MatrixCompletion : Prop :=
  ∀ (s : State) (g : Nat),
    ((s.group g).mma = none → exec (.mmaComplete g) s = .next s) ∧
    (∀ r, (s.group g).mma = some r → ∃ t, exec (.mmaComplete g) s = .next t ∧ (t.group g).mma = none ∧
      t.mem = s.mem ∧ t.blocks = s.blocks ∧
      (∀ k, grpOf k ≠ g → tabGet t.threads k = tabGet s.threads k) ∧
      (∀ h, h ≠ g → tabGet t.groups h = tabGet s.groups h) ∧
      (t.group g).fstat = (s.group g).fstat ||| (if r.stages.any (·.2) then 1 else 0) ∧
      ∀ k, grpOf k = g → (tabGet s.threads k).isSome → (t.thread k).pc = (s.thread k).pc ∧
        ∀ n, (t.thread k).reg n =
          if r.lastA = true ∧ r.areg ≤ n ∧ n < r.areg + r.anum then 0
          else match r.stages.getLast? with
            | none => (s.thread k).reg n
            | some x => tabGetD ((x.1.filter fun l => tKey g l.lane == k).foldl
                (fun v l => putReg v l.reg l.wide l.value) (s.thread k).v) n 0)

/-! ## Engines -/

namespace Sys2Proof.Machine.Claim

/-- Nothing but one block has changed. -/
structure OnlyBlock (s t : State) (b : Nat) : Prop where
  others : ∀ x, x ≠ b → tabGet t.blocks x = tabGet s.blocks x
  rest : { t with blocks := [] } = { s with blocks := [] }

/-- The commands of a block with those at a position changed, and without them. -/
def cmdsWith (s : State) (b pos : Nat) (f : Cmd → Cmd) : List Cmd :=
  (s.block b).cmds.map fun d => if d.pos == pos then f d else d
def cmdsBut (s : State) (b pos : Nat) : List Cmd := (s.block b).cmds.filter fun d => d.pos != pos

/-- The status of SLGROW (R338): the first that applies. -/
def growStatus (r : Slab) (count size : Nat) : Nat :=
  if Slab.moving r then 1 else if Slab.streaming r then 2 else if Slab.capl r = 24 then 3 else if count = 0 then 4
  else if size < Slab.regionBytes r (Slab.capl r + 1) then 5 else 0

end Sys2Proof.Machine.Claim

/-- R269, R285, R290, R293, R335, R338: a command starts after its SYNC once every live thread of the block has passed its entry
and their writes are complete: a copy or matrix command becomes ready and the Lectern goes on (an MCAST where every rank's tile is
ready in shared memory), a drain makes its tile draining, a release makes it empty and leaves every byte where it is, SLSET ends; a
withdrawn SBSEND is executed again. That it is sent where its tile is still ready and large enough, and that its command stands
for the Lectern's word, is the model's choice (log 46). -/
def Claims.SyncStarts : Prop :=
  ∀ (s : State) (b : Nat), (syncReady s b = none → exec (.syncCommandStart b) s = .next s) ∧
    ∀ c, syncReady s b = some c →
      s.lectStopped b = false ∧
      (c.state = .sync → (∀ k ∈ s.liveOfBlock b, c.pos < (s.thread k).upos) ∧
        ∀ g ∈ s.groupsOf b, (s.group g).nGather = 0 ∧ (s.group g).atomics = []) ∧
      let goes := fun t : State => Claim.OnlyBlock s t b ∧ (t.block b).lect.wait =
        if (s.block b).lect.wait = .entry c.pos then .none else (s.block b).lect.wait
      let ready := Claim.cmdsWith s b c.pos fun d => { d with state := .ready }
      let starts := ∃ t, exec (.syncCommandStart b) s = .next t ∧ goes t ∧ (t.block b).tiles = (s.block b).tiles ∧
        (t.block b).shared = (s.block b).shared ∧ (t.block b).cmds = ready
      (c.kind ∈ [.copy, .copym, .mmat, .kvpk, .kvunp, .psel, .sbmrg] → starts) ∧
      (c.kind = .sbsend → c.state = .sync → starts) ∧
      (c.kind = .sbsend → c.state = .withdrawn → (clusterOf s b).channel.isSome → ∀ nr dv, sideShape c.d0 = some (nr, dv) →
        (s.tile b c.dst).state = .ready → partialBytes nr dv ≤ (s.tile b c.dst).bytes → starts) ∧
      (c.kind = .mcast → ranksStarted s b (ranksOf s b) = true → mcastBad s b c.dst Tile.noCast = none →
        (∀ ten, tensorAt s b c.src = some ten → mcastBad s b c.dst (fun t => decide (t.bytes < ten.rb * ten.rows)) = none) → starts) ∧
      (c.kind = .drain → ∃ t, exec (.syncCommandStart b) s = .next t ∧ goes t ∧ (t.block b).cmds = ready ∧
        ∀ n, t.tile b n = if n = c.dst then
          { s.tile b c.dst with state := .draining, tid := BitVec.ofNat 8 c.src } else s.tile b n) ∧
      (c.kind = .slset → ∃ t, exec (.syncCommandStart b) s = .next t ∧ goes t ∧
        (t.block b).cmds = Claim.cmdsBut s b c.pos) ∧
      (c.kind = .release → ∃ t, exec (.syncCommandStart b) s = .next t ∧
        goes { t with released := s.released } ∧
        t.released = (regionLoc s b (s.tile b c.dst), (s.tile b c.dst).bytes, s.fresh) :: s.released ∧
        (t.block b).shared = (s.block b).shared ∧ (t.block b).cmds = Claim.cmdsBut s b c.pos ∧
        ∀ n, t.tile b n = if n = c.dst then { s.tile b c.dst with state := .empty } else s.tile b n)

/-- R325, R326, R338: SLAPP at its start gives q(QD) the old LEN and writes the record with LEN + n, or all ones and no change
where a retrieval head is full; SLGROW gives the first status that applies, the statuses of the record itself without a read of the
pool, and starts a relocation with status 0 only. -/
def Claims.SlabUpdates : Prop :=
  ∀ (s : State) (b d : Nat) (c : Cmd) (e : DqEntry) (r : Slab), syncReady s b = some c →
    (s.block b).dq[c.pos - (s.block b).dqBase]? = some e → e.wq = some (d, none) →
    readSlab s (s.asidOf b) c.slab = .ok r → Slab.bad r = none → s.weak = [] → s.poison = [] →
    let asid := s.asidOf b
    let ends := fun (t : State) (v : DWord) => tabGetD (t.block b).lect.q d 0 = v ∧ (t.block b).lect.wait = .none ∧
      (t.block b).cmds = Claim.cmdsBut s b c.pos ∧ t.threads = s.threads
    (c.kind = .slapp →
      let full := Slab.streaming r = false ∧ 2 ^ Slab.capl r < Slab.len r + c.d0.toNat
      (full → ∃ t, exec (.syncCommandStart b) s = .next t ∧ ends t (-1) ∧ t.mem = s.mem) ∧
      (¬full → ∀ s1, writeVirt s asid c.slab .store 64 (putBits r 128 64 (Slab.len r + c.d0.toNat)) = .ok s1 →
        ∃ t, exec (.syncCommandStart b) s = .next t ∧ ends t (BitVec.ofNat 64 (Slab.len r)) ∧ t.mem = s1.mem)) ∧
    (c.kind = .slgrow → ∀ st ∈ [1, 2, 3], (∀ count size, Claim.growStatus r count size = st) →
      ∃ t, exec (.syncCommandStart b) s = .next t ∧ ends t (BitVec.ofNat 64 st) ∧ t.mem = s.mem ∧ t.relocs = s.relocs) ∧
    (c.kind = .slgrow → ∀ count size, readClean s asid c.d0 .load 4 = .ok count →
      readClean s asid (c.d0 + 8) .load 8 = .ok size →
      let st := Claim.growStatus r count size
      (st ≠ 0 → ∃ t, exec (.syncCommandStart b) s = .next t ∧ ends t (BitVec.ofNat 64 st) ∧ t.mem = s.mem ∧
        t.relocs = s.relocs) ∧
      (st = 0 → ∀ region s1 s2,
        readClean s asid (c.d0 + BitVec.ofNat 64 (16 + 8 * (count - 1))) .load 8 = .ok region →
        writeVirt s asid c.d0 .store 4 (count - 1) = .ok s1 →
        writeVirt s1 asid c.slab .store 64 (Slab.grown r region) = .ok s2 →
        ∃ t, exec (.syncCommandStart b) s = .next t ∧ ends t 0 ∧ t.mem = s2.mem ∧
          t.relocs = s.relocs ++ [{ core := coreOfB b, asid := asid, record := c.slab, chunk := 0 }]))

/-- R269, R286, R287, R289: the bytes of a fill into shared memory land row after row in the tile's region, and the tile becomes
ready; no other byte of shared memory and no byte of memory changes. -/
def Claims.TileFills : Prop :=
  ∀ (s : State) (b n : Nat) (c : Cmd) (ten : Tensor), tileMove s b n .fill = some c → Claim.StoresWf s →
    tensorAt s b c.src = some ten → (s.tile b n).vault = false → ten.empty = false → s.weak = [] →
    ∀ row : Nat → Nat, (∀ i < ten.rows, readSegs s (s.asidOf b) (ten.segs c.d0 i) = .ok (row i)) →
      let lo := (s.tile b n).offset.toNat * 256
      ∃ t, exec (.tileFillLanded b n) s = .next t ∧ (t.tile b n).state = .ready ∧ t.mem = s.mem ∧
        t.threads = s.threads ∧
        (t.block b).cmds = Claim.cmdsWith s b c.pos (fun d => { d with state := .moved }) ∧
        (∀ i < ten.rows, bytesAt (t.block b).shared (lo + ten.rb * i) ten.rb = row i % 256 ^ ten.rb) ∧
        ∀ a, (a < lo ∨ lo + ten.rb * ten.rows ≤ a) → byteAt (t.block b).shared a = byteAt (s.block b).shared a

/-- R286 to R288, R292, R293, R342 to R344: a moved command completes when no earlier copy command is left, and its groups' counters fall; a drain's end empties its tile; a movement
that faults leaves what has moved, fails its command, empties a fill's tile and traps the block at the command; in a block that was
killed the command is abandoned. -/
def Claims.CopyMovements : Prop :=
  ∀ (s : State) (b : Nat),
    (∀ c rest, nextMove s b = none → (s.block b).cmds = c :: rest → c.kind.copies = true → c.state = .moved →
      c.matrix = false → (∀ d, rest.find? (fun x => x.kind.copies && x.state != .withdrawn) = some d → d.state ≠ .moved) → c.counted.Nodup →
      (∀ slot ∈ c.counted, slot < 65) → (s.core (coreOfB b)).hats = [] →
      ∃ t, exec (.copyCommandComplete b) s = .next t ∧ t.mem = s.mem ∧ t.threads = s.threads ∧
        (t.block b).cmds = rest.filter (fun d => d.pos != c.pos) ∧
        ∀ g, (tabGet s.groups g).isSome → (t.group g).nCopy =
          (s.group g).nCopy - if coreOfG g = coreOfB b ∧ slotOfG g ∈ c.counted then 1 else 0) ∧
    (∀ n c s1 f, tileMove s b n .drain = some c → carryCmd s b c = .done s1 f →
      ∃ t, exec (.tileDrainDone b n) s = .next t ∧ (t.tile b n).state = .empty ∧ t.mem = s1.mem) ∧
    (∀ n, tileMove s b n .fill = none → exec (.tileFillLanded b n) s = .next s) ∧
    (∀ n, tileMove s b n .drain = none → exec (.tileDrainDone b n) s = .next s) ∧
    (∀ c s1 code res addr info, nextMove s b = some c → carryCmd s b c = .fault s1 code res addr info →
      (s.block b).killed = false → ∃ u, exec (.copyFault b) s = .next (blockTrap u b code res c.pc addr (c.word.setWidth 64 :: info)) ∧
        u.mem = s1.mem ∧ u.threads = s1.threads ∧
        (u.block b).cmds = Claim.cmdsWith s1 b c.pos (fun d => { d with state := .failed }) ∧
        (c.kind = .fill → (tabGet s1.blocks b).isSome → (u.tile b c.dst).state = .empty)) ∧
    (∀ c s1 code res addr info, nextMove s b = some c → carryCmd s b c = .fault s1 code res addr info →
      (s.block b).killed = true → c.counted = [] → (tabGet s1.blocks b).isSome →
      ∃ t, exec (.copyFault b) s = .next t ∧ t.mem = s1.mem ∧ t.threads = s1.threads ∧
        ∀ d ∈ (t.block b).cmds, d.pos ≠ c.pos) ∧
    (nextMove s b = none → exec (.copyFault b) s = .next s)

/-- R312, R313: an MMAT starts once no earlier copy or matrix command of its block is left and its checks pass; a failed check
is a block trap of the issuing block with the code of its kind; at its end the results stand in its D tiles, its flags go to
the groups that counted it, and it leaves the stream. -/
def Claims.MatrixCommandRuns : Prop :=
  ∀ (s : State) (b : Nat),
    (mmatNext s b = none → exec (.mmatStart b) s = .next s) ∧
    (∀ c, mmatNext s b = some c →
      (mmatCheck s b c.mmatOp = .pass → ∃ t, exec (.mmatStart b) s = .next t ∧ Claim.OnlyBlock s t b ∧
        (t.block b).cmds = Claim.cmdsWith s b c.pos (fun d => { d with state := .moved, split := false })) ∧
      (mmatCheck s b c.mmatOp = .wait → exec (.mmatStart b) s = .next s) ∧
      (∀ code res, (code, res) ∈ (match mmatCheck s b c.mmatOp with
          | .pass => [] | .wait => [] | .tensor _ => [(0x0013, false)] | .descriptor _ _ => [(0x0031, false)]
          | .tileState _ _ _ => [(0x0014, false)] | .placement _ _ => [(0x0030, true)] | .page _ _ => [(0x0012, true)]) →
        ∃ u addr info, exec (.mmatStart b) s = .next (blockTrap u b code res c.pc addr (c.word.setWidth 64 :: info)) ∧
          u.mem = s.mem ∧ (u.block b).cmds = Claim.cmdsWith s b c.pos fun d => { d with state := .failed })) ∧
    (mmatRunning s b = none → exec (.mmatComplete b) s = .next s) ∧
    (∀ c, mmatRunning s b = some c → s.poison = [] → s.weak = [] → tabGetD s.upsets (coreOfB b) 0 = 0 →
      let n := (mmatBlocks s b c.mmatOp).getD 0
      let r := runMmat (countCore s (coreOfB b) 12 (n - c.from_)) b c.mmatOp n
      ∃ t, exec (.mmatComplete b) s = .next t ∧ t.mem = r.1.mem ∧
        (t.block b).cmds = Claim.cmdsBut s b c.pos ∧ (∀ x, (t.block x).shared = (r.1.block x).shared) ∧
        ∀ slot ∈ c.counted, slot < 65 → (s.group (gKey (coreOfB b) slot)).blk = b →
          (tabGet s.groups (gKey (coreOfB b) slot)).isSome → (t.group (gKey (coreOfB b) slot)).fstat =
            (s.group (gKey (coreOfB b) slot)).fstat ||| (if r.2 then 1 else 0))

/-- R174, R286, R313: a thread that passes the entry of a copy or matrix command first of its group raises the group's copy or
matrix counter by one, whatever the number of its fellows in the bundle. -/
def Claims.CommandsCountInGroups : Prop :=
  ∀ (s : State) (i x : BitVec 8) (y z nb na : BitVec 1) (p : BitVec 2) (n : BitVec 6) (b pos : Nat) (c : Cmd),
    Runs s .base → s.inHandler = false → s.lect.stuck = false → NoBlk s → NoLit s → Claim.XOk x false →
    n.toNat < (s.gridOf s.issueBlock).launch.nTile → (s.block b).cmds.find? (fun d => d.pos == pos) = some c →
    (∀ k ∈ s.issue.members, (s.thread k).span = none ∧ (s.thread k).upos = pos ∧ (tabGet s.groups (grpOf k)).isSome ∧
      (s.group (grpOf k)).blk = b ∧ coreOfG (grpOf k) = coreOfB b ∧ slotOfG (grpOf k) ∉ c.counted ∧
      (s.group (grpOf k)).nCopy < 63 ∧ (s.group (grpOf k)).nMatrix < 63 ∧
      ∃ e, entryOf s k = some e ∧ e.addr = s.issue.pc ∧ e.taken = false ∧ e.kind = if c.matrix then .matrix else .copy) →
    ∀ f ∈ [Instr.trelWb i x n, Instr.mcast i x y n, Instr.mmat i x z nb na p y], ∃ t, exec f s = .next t ∧
      t.mem = s.mem ∧
      (∀ k, s.issues k → (t.thread k).pc = (s.thread k).pc + 4 ∧ (t.thread k).upos = pos + 1 ∧
        (t.thread k).v = (s.thread k).v ∧ (t.thread k).rentry = (s.thread k).pc + 4) ∧
      ∀ k ∈ s.issue.members,
        (t.group (grpOf k)).nCopy = (s.group (grpOf k)).nCopy + (if c.matrix then 0 else 1) ∧
        (t.group (grpOf k)).nMatrix = (s.group (grpOf k)).nMatrix + if c.matrix then 1 else 0

/-! ## Near-bank arithmetic -/

namespace Sys2Proof.Machine.Claim

/-- The steps of a lane's run in increasing t (R354): bank, granule and t, for a run whose first granule lies at `pa`; in
all-bank mode each step runs on the 16 banks of the pseudo-channel. -/
def bankSteps (s : State) (run : Nat) (allBank : Bool) (pa : Nat) : List (Nat × Nat × Nat) :=
  (List.range run).flatMap fun t =>
    let p := pa + 32 * t
    if allBank then (List.range 16).map fun i => (16 * pcOf s.mgmt p + i, p - p / 2 ^ 10 % 16 * 2 ^ 10 + 2 ^ 10 * i, t)
    else [(bankOfAddr s.mgmt p, p, t)]

/-- What a bank operation sends for a step, from the lane's steps. -/
abbrev StepOp := Nat → List (Nat × Nat × Nat) → Nat × Nat × Nat → BankOp

/-- The operations that a bundle sends to one bank, lane after lane, with the group that counts each. -/
def sentTo (s : State) (run : Nat) (pa : Nat → Nat) (op : StepOp) (bank : Nat) : List BankCmd :=
  s.enabled.flatMap fun k =>
    let g := s.group (grpOf k)
    let steps := bankSteps s run (g.nbm.getLsbD 0) (pa k)
    (steps.filter fun e => e.1 == bank).map fun e =>
      { op := op k steps e, bf := g.nbm.getLsbD 1, grp := grpOf k, tag := s.fresh, asid := (asidOfThread s k).toNat
        hb := allBefore s (s.enabled.filter fun j => grpOf j == grpOf k) }

/-- A bundle of a bank command has been sent (R354, R357, R359): each bank's queue has gained its commands in order, each
group with an enabled lane counts one, the regions close and memory is unchanged. -/
structure BankSent (s t : State) (run : Nat) (pa : Nat → Nat) (op : StepOp) (freed : List Nat) : Prop where
  closed : Closed s t freed
  queues : ∀ b, (t.bank b).queue = (s.bank b).queue ++ sentTo s run pa op b
  units : ∀ b, (t.bank b).z = (s.bank b).z ∧ (t.bank b).w = (s.bank b).w
  counts : ∀ g, (tabGet s.groups g).isSome →
    (t.group g).nBank = (s.group g).nBank + if s.enabled.any fun k => grpOf k == g then 1 else 0

/-- Accumulator and scalar lane of step t of an NBMAC (R365). -/
def macAcc (adv : BitVec 1) (k : BitVec 3) (t : Nat) : Nat := if adv = 1 then (k.toNat + t) % 8 else k.toNat
def macLane (adv scalar : BitVec 1) (a : DWord) (t : Nat) : Option Nat :=
  if scalar = 1 then some (if adv = 1 then a.toNat % 16 else (a.toNat % 16 + t) % 16) else none

/-- Granules of a run of an NBRD, and the accumulator and part of step t (R366). -/
def rdRun (h : BitVec 1) (n : BitVec 3) : Nat := if h = 1 then n.toNat + 1 else 2 * (n.toNat + 1)
def rdAcc (h : BitVec 1) (k : BitVec 3) (t : Nat) : Nat := (k.toNat + if h = 1 then t else t / 2) % 8

/-- Half-word i of a granule. -/
def granuleHalf (s : State) (pa i : Nat) : Half := BitVec.ofNat 16 (bytesAt s.mem (pa + 2 * i) 2)

/-- One product added in FP32, each rounded once (R361). -/
def bankSum (bf : Bool) (z : Word) (x g : Half) : Word :=
  let f := if bf then bf16 else f16
  BitVec.ofNat 32 (f32.round .rn 0 ((f32.decode z.toNat).add .rn ((f.decode x.toNat).mul (f.decode g.toNat))))

end Sys2Proof.Machine.Claim

/-- R352 to R357, R359, R363 to R367: NBBC, NBLDW, NBMAC, NBRD and NBCLR, with the checks of R355 passed: every executing bank
receives, in increasing lane and t, one command for each of its granules. -/
def Claims.BankCommandsQueue : Prop :=
  ∀ (s : State) (x : BitVec 8) (pa : Nat → Nat), Runs s .base → s.inHandler = false → NoBlk s → NoLit s →
    SrcOk s x true → (∀ k ∈ s.enabled, (s.group (grpOf k)).nBank < 63) → acquiring s = false →
    let passes := fun f : BankForm => bankTrap s f (s.dword x) = none ∧
      ∀ k ∈ s.enabled, bankWalk s k f (s.dword x k) = .ok (pa k)
    let sends := fun (i : Instr) (run : Nat) (op : Claim.StepOp) =>
      ∃ t, exec i s = .next t ∧ Claim.BankSent s t run pa op (freedRegs x true)
    (passes {} →
      (∀ (b : BitVec 7) (i : BitVec 3), b.toNat ≤ 88 → b.toNat + 8 ≤ s.regMax →
        (∀ n < 8, srcHeld s false (b.toNat + n) = false) → sends (.nbbc b x i) 1 fun k _ _ =>
        .bc i.toNat ((List.range 16).map fun e =>
          let r := (s.thread k).reg (b.toNat + e / 2)
          if e % 2 = 0 then r.setWidth 16 else (r >>> 16).setWidth 16)) ∧
      (∀ i : BitVec 3, sends (.nbldw i x) 1 fun _ _ e => .ldw i.toNat e.2.1) ∧
      (∀ z w : BitVec 8, sends (.nbclr z x w) 1 fun _ _ _ => .clr z w)) ∧
    (∀ (i k : BitVec 3) (a z sc : BitVec 1) (n : BitVec 5), passes { run := n.toNat + 1, scalar := sc = 1 } →
      sends (.nbmac i k x a z sc n) (n.toNat + 1) fun l steps e =>
        .mac (Claim.macAcc a k e.2.2) i.toNat e.2.1 (Claim.macLane a sc (s.dword x l) e.2.2)
          (z = 1 && steps.all fun f => f.1 != e.1 || decide (e.2.2 ≤ f.2.2) ||
            Claim.macAcc a k f.2.2 != Claim.macAcc a k e.2.2)) ∧
    (∀ (k : BitVec 3) (c h : BitVec 1) (n : BitVec 3), passes { run := Claim.rdRun h n, writes := true } →
      sends (.nbrd k x c h n) (Claim.rdRun h n) fun _ steps e =>
        .rd (Claim.rdAcc h k e.2.2) e.2.1 (if h = 1 then .halves else if e.2.2 % 2 = 0 then .low else .high)
          (c = 1 && steps.all fun f => f.1 != e.1 || decide (f.2.2 ≤ e.2.2) ||
            Claim.rdAcc h k f.2.2 != Claim.rdAcc h k e.2.2))

/-- R357, R360 to R367: a bank executes the oldest command of its queue: NBBC and NBLDW fill w, NBMAC adds one product to each
lane of z, NBRD writes a granule and may clear z, NBCLR clears; an empty queue changes nothing. In a state without faults of the
hardware, which raise events of their own. -/
def Claims.BankExecution : Prop :=
  ∀ (s : State) (b : Nat), s.poison = [] → s.weak = [] → memoryWf s.mem →
    ((s.bank b).queue = [] → exec (.bankCommandExecute b) s = .next s) ∧
    ∀ c rest, (s.bank b).queue = c :: rest → ∃ t, exec (.bankCommandExecute b) s = .next t ∧
      (t.bank b).queue = rest ∧ t.threads = s.threads ∧ t.blocks = s.blocks ∧
      (∀ d, d ≠ b → tabGet t.banks d = tabGet s.banks d) ∧
      let w := fun i v => (t.bank b).wReg i = v
      let sameW := ∀ i, (t.bank b).wReg i = (s.bank b).wReg i
      let sameZ := ∀ i, (t.bank b).zReg i = (s.bank b).zReg i
      (∀ i v, c.op = .bc i v → w i v ∧ (∀ j, j ≠ i → w j ((s.bank b).wReg j)) ∧ sameZ ∧ t.mem = s.mem) ∧
      (∀ i pa, c.op = .ldw i pa → w i ((List.range 16).map (Claim.granuleHalf s pa)) ∧
        (∀ j, j ≠ i → w j ((s.bank b).wReg j)) ∧ sameZ ∧ t.mem = s.mem) ∧
      (∀ k i pa lane zc, c.op = .mac k i pa lane zc → sameW ∧ t.mem = s.mem ∧
        (∀ j, j ≠ k → (t.bank b).zReg j = (s.bank b).zReg j) ∧
        (t.bank b).zReg k = (List.range 16).map fun e =>
          Claim.bankSum c.bf (if zc then 0 else ((s.bank b).zReg k).getD e 0)
            (((s.bank b).wReg i).getD (lane.getD e) 0) (Claim.granuleHalf s pa e)) ∧
      (∀ k pa part clr, c.op = .rd k pa part clr → sameW ∧
        (∀ j, j ≠ k → (t.bank b).zReg j = (s.bank b).zReg j) ∧
        (t.bank b).zReg k = (if clr then List.replicate 16 0 else (s.bank b).zReg k) ∧
        (∀ a, (a < pa ∨ pa + 32 ≤ a) → byteAt t.mem a = byteAt s.mem a) ∧
        (((s.bank b).zReg k).length = 16 → ∀ e < 8,
          (part = .low → bytesAt t.mem (pa + 4 * e) 4 = (((s.bank b).zReg k).getD e 0).toNat) ∧
          (part = .high → bytesAt t.mem (pa + 4 * e) 4 = (((s.bank b).zReg k).getD (8 + e) 0).toNat)) ∧
        (((s.bank b).zReg k).length = 16 → part = .halves → ∀ e < 16, bytesAt t.mem (pa + 2 * e) 2 =
          (if c.bf then bf16 else f16).round .rn 0 (f32.decode (((s.bank b).zReg k).getD e 0).toNat) % 2 ^ 16)) ∧
      (∀ zm wm, c.op = .clr zm wm → t.mem = s.mem ∧ ∀ i < 8,
        (t.bank b).zReg i = (if zm.getLsbD i then List.replicate 16 0 else (s.bank b).zReg i) ∧
        w i (if wm.getLsbD i then List.replicate 16 0 else (s.bank b).wReg i))

/-- R351, R362, R368: NBMODE sets NBM of every group with an enabled thread, in a handler context too; FENCE.BANK passes when the
banks that its lanes name hold no command, and otherwise its threads wait for the bundles that stand in those queues. -/
def Claims.BankModeAndFence : Prop :=
  ∀ s : State, Runs s .base → NoBlk s → NoLit s →
    (∀ t b : BitVec 1, ∃ u, exec (.nbmode t b) s = .next u ∧ Claim.Moved s u false [] ∧ u.mem = s.mem ∧
      ∀ g, (tabGet s.groups g).isSome →
        (u.group g).nbm = if s.enabled.any fun k => grpOf k == g then t ++ b else (s.group g).nbm) ∧
    (∀ (x : BitVec 8) (sc : BitVec 2), s.inHandler = false → SrcOk s x true → (sc = 3 → x = 0x7F) →
      (sc ≠ 3 → bankTrap s { shape := false } (s.dword x) = none) → (∀ k ∈ s.enabled, (s.thread k).fence = none) →
      let names := fun k => fenceBanks s k sc.toNat (s.dword x k)
      ((∀ k ∈ s.enabled, ∀ b ∈ names k, (s.bank b).queue = []) →
        ∃ u, exec (.fenceBank x sc) s = .next u ∧ Claim.Moved s u false (freedRegs x true) ∧ u.mem = s.mem ∧
          u.banks = s.banks) ∧
      ((∃ k ∈ s.enabled, ∃ b ∈ names k, ∃ c ∈ (s.bank b).queue, c.tag ∈ bundlesOut s) →
        ∃ u, exec (.fenceBank x sc) s = .next u ∧ u.mem = s.mem ∧ u.banks = s.banks ∧
          ∀ k, s.issues k → (u.thread k).pc = (s.thread k).pc ∧ (u.thread k).v = (s.thread k).v ∧
            ((s.thread k).enabled = true → (u.thread k).fence = some (fenceReach s (names k)))))

/-- R350: a write of NBOWN sets ASID and EN; where they change, the queued commands of its 16 banks have run and every z and w
of them is +0; where they do not, no bank changes. -/
def Claims.BankOwnerWrites : Prop :=
  ∀ (s : State) (pc : Nat) (v : BitVec 32), pc < 768 → s.mgmt.devState ≠ .failed → ∃ t, exec (.nbownWrite pc v) s = .next t ∧
    let new := (v.setWidth 6, v.getLsbD 7)
    tabGetD t.host.nbown pc (0, false) = new ∧
    (∀ p, p ≠ pc → tabGetD s.host.nbown p (0, false) = tabGetD t.host.nbown p (0, false)) ∧
    (new ≠ tabGetD s.host.nbown pc (0, false) → ∀ i < 16, t.bank (16 * pc + i) = {}) ∧
    (new = tabGetD s.host.nbown pc (0, false) → t.banks = s.banks ∧ t.mem = s.mem)

/-! ## Traps -/

namespace Sys2Proof.Machine.Claim

/-- The trap area of a group's grid has room and takes a record (R52): the counts HEAD and ACK as read, no record of the area
pending and no word of memory in error, and the memory after the record and HEAD + 1 have been written. -/
structure AreaTakes (s : State) (r : Rec) (head ack : Nat) (after : State) : Prop where
  pending : pendingOf s (areaOf s r.gid) = []
  marks : s.poison = [] ∧ s.weak = []
  ackRead : readVirt s (s.grid r.gid).asid ((s.grid r.gid).launch.trapArea + 8) .load 8 = .ok ack
  headRead : readVirt s (s.grid r.gid).asid (s.grid r.gid).launch.trapArea .load 8 = .ok head
  room : (head + 2 ^ 64 - ack) % 2 ^ 64 < (s.grid r.gid).launch.trapN
  writes : ∃ s1, writeVirt s (s.grid r.gid).asid
      ((s.grid r.gid).launch.trapArea + BitVec.ofNat 64 (64 + 128 * (head % (s.grid r.gid).launch.trapN))) .store 128
      (r.bytes head) = .ok s1 ∧
    writeVirt s1 (s.grid r.gid).asid (s.grid r.gid).launch.trapArea .store 8 ((head + 1) % 2 ^ 64) = .ok after

/-- The record of a group trap (R53, R405, R406). -/
def groupRec (s : State) (g : Nat) (ks : List Nat) (code : Nat) (res : Bool) (pc addr : DWord) (info : List DWord) : Rec :=
  let b := s.blockOf g
  let t := s.thread (ks.headD 0)
  { code := code, resumable := res, host := code == 2 || code == 3 || (s.grid b.gid).launch.trapH == 0
    die := Config.dieOfCore (coreOfB (s.group g).blk), core := Config.coreInDie (coreOfB (s.group g).blk)
    slot := slotOfG g, gid := b.gid, grpNum := (s.group g).num, blkNum := b.num
    cluster := match b.cluster with | some c => BitVec.ofNat 32 c | none => 0xFFFFFFFF
    jobId := (s.grid b.gid).launch.jobId, lanes := laneMask (ks.map laneOf), pc := pc, rentry := t.rentry
    rcount := t.rcount, addr := addr, info := info, block := false }

/-- A group with nothing on its way, on a core without open latch runs. -/
def Still (s : State) (g : Nat) : Prop :=
  isHandler g = false ∧ (s.group g).loads = [] ∧ (s.group g).atomics = [] ∧ (s.core (coreOfG g)).runs = []

end Sys2Proof.Machine.Claim

/-- R52, R53, R153, R405 to R407: a group trap with room in the trap area: the record stands last among those without an answer
and in memory; the trapping threads will restart at their region entry, every other live thread of the group stands where it
stood, or, unless a save or a cut holds it already, at the first word of its hint group; the group is stopped. -/
def Claims.TakingAGroupTrap : Prop :=
  ∀ (s : State) (g : Nat) (ks : List Nat) (code : Nat) (res : Bool) (pc addr : DWord) (info : List DWord)
    (head ack : Nat) (after : State), Claim.Still s g → (∀ k ∈ ks, k ∈ s.liveOf g) →
    let r := Claim.groupRec s g ks code res pc addr info
    Claim.AreaTakes s r head ack after → r.host = false →
    let t := groupTrap s g ks code res pc addr info
    t.records = s.records ++ [{ r with seq := some head, raw := r.bytes head }] ∧ t.mem = after.mem ∧
      t.stopped g = true ∧ (∀ k, grpOf k ≠ g → tabGet t.threads k = tabGet s.threads k) ∧
      ∀ k ∈ s.liveOf g, t.thread k =
        if k ∈ ks ∨ (s.thread k).restart = true then { s.thread k with restart := true }
        else if (s.thread k).halt = .none then backToGroup (s.thread k) else s.thread k

/-- R405, R408: with no room in the area the record waits, with no number; a trap area that cannot be accessed kills the
grid. -/
def Claims.TrapAreaFullOrLost : Prop :=
  ∀ (s : State) (g : Nat) (ks : List Nat) (code : Nat) (res : Bool) (pc addr : DWord) (info : List DWord),
    Claim.Still s g →
    let r := Claim.groupRec s g ks code res pc addr info
    let gr := s.grid r.gid
    let t := groupTrap s g ks code res pc addr info
    pendingOf s (areaOf s r.gid) = [] → s.poison = [] → s.weak = [] →
    (∀ head ack, readVirt s gr.asid (gr.launch.trapArea + 8) .load 8 = .ok ack →
      readVirt s gr.asid gr.launch.trapArea .load 8 = .ok head →
      gr.launch.trapN ≤ (head + 2 ^ 64 - ack) % 2 ^ 64 → t.records = s.records ++ [r] ∧ t.mem = s.mem) ∧
    (∀ e, readVirt s gr.asid (gr.launch.trapArea + 8) .load 8 = .error e → (tabGet s.grids r.gid).isSome →
      (t.grid r.gid).stage = .killed)

/-- R149, R150, R156, R405, R421, R422: TRAP closes the regions of the enabled lanes at the next word and raises the user trap,
CODE 0x0001, with no span open there; BRK stops them at the next word and raises the debug stop, CODE 0x0003, of the block; a disabled lane
passes. -/
def Claims.TrapAndBreak : Prop :=
  ∀ s : State, Runs s .base → s.inHandler = false → NoBlk s → NoLit s →
    (∀ c : BitVec 16,
      (s.enabled = [] → ∃ t, exec (.trap c) s = .next t ∧ Quiet s t ∧ Completed s t [] []) ∧
      (s.enabled ≠ [] → ∃ u, exec (.trap c) s = .next (bundleTrap u s.enabled 0x0001 true
          fun _ => (0, [s.issue.word.setWidth 64, c.setWidth 64])) ∧
        { u with threads := [] } = { s with threads := [] } ∧
        ∀ k, s.issues k →
          ((s.thread k).enabled = true → (u.thread k).pc = (s.thread k).pc ∧
            (u.thread k).rentry = (s.thread k).pc + 4 ∧ (u.thread k).rcount = (s.thread k).rcount + 1 ∧
            (u.thread k).rgen = (s.thread k).gen ∧ (u.thread k).rspan = none ∧ (u.thread k).v = (s.thread k).v) ∧
          ((s.thread k).enabled = false → (u.thread k).pc = (s.thread k).pc + 4))) ∧
    (s.enabled = [] → ∃ t, exec .brk s = .next t ∧ Quiet s t ∧ Completed s t [] []) ∧
    (s.enabled ≠ [] → ∃ u r, exec .brk s = .next (writeRecord u r) ∧ r.code = 3 ∧ r.resumable = true ∧ r.host = true ∧
      r.block = true ∧ ((∀ k ∈ s.issue.members, (s.thread k).pc = s.issue.pc) → r.pc = s.issue.pc) ∧ r.rentry = 0 ∧ r.rcount = 0 ∧ u.mem = s.mem ∧ u.records = s.records ∧
      ((∀ c, (s.core c).runs = []) → (∀ k ∈ s.issue.members, (s.thread k).run = none) →
        ∀ k, s.issues k → (s.thread k).enabled = true → (u.thread k).pc = (s.thread k).pc + 4 ∧
          (u.thread k).brk = true))

/-- R149, R150, R173, R226: a word that no entry allows raises the illegal-instruction trap with the reason of its row; that the
lowest of row 5's reasons is the one given is the model's choice (log 11); at the Lectern a uniform-stream opcode stops the stream there and any other is stepped over; a fetch that faults is a page fault,
CODE 0x0012, of the bundle or of the block. -/
def Claims.WordsThatDoNotExecute : Prop :=
  ∀ s : State,
    (s.issue.agent = .threads → s.issue.members ≠ [] → s.inHandler = false → ∀ w : Word,
      let u := { s with issue := { s.issue with word := w } }
      let op := w.toNat / 2 ^ 24
      ((op = 0 ∨ op = 255) → exec (.illegalInstructionWord w) s = .next (illegal u s.issue.members 0)) ∧
      (op ≠ 0 → op ≠ 255 → assignedOpcode op = false →
        exec (.illegalInstructionWord w) s = .next (illegal u s.issue.members 1)) ∧
      (op ≠ 0 → op ≠ 255 → assignedOpcode op = true → handlerOpcode op = false →
        (classOf op).onDie (Config.dieOfCore (coreOfG s.leadGroup)) = true →
        exec (.illegalInstructionWord w) s = .next (illegal u s.issue.members (if badOperandField w then 4 else 3)))) ∧
    (s.issue.agent = .threads → s.issue.members ≠ [] → exec .fetchFault s =
      .next (bundleTrap s s.issue.members 0x0012 true fun _ =>
        (s.issue.pc, [0, BitVec.ofNat 64 (s.issue.fetchReason.getD 0), 3]))) ∧
    (s.issue.agent = .lectern →
      exec .fetchFault s = .next (blockTrap s s.issueBlock 0x0012 true s.issue.pc s.issue.pc
        [0, BitVec.ofNat 64 (s.issue.fetchReason.getD 0), 3]) ∧
      ((tabGet s.blocks s.issueBlock).isSome → ∀ w : Word,
        (uniformOpcode (w.toNat / 2 ^ 24) = true → ∃ t, exec (.illegalInstructionWord w) s = .next t ∧
          t.lect.stuck = true ∧ t.lect.pc = s.lect.pc) ∧
        (uniformOpcode (w.toNat / 2 ^ 24) = false → ∃ t, exec (.illegalInstructionWord w) s = .next t ∧
          t.lect.pc = s.lect.pc + 4)))

namespace Sys2Proof.Machine.Claim

/-- The handler context of a core executes an instruction, and works on record r (R416). -/
structure Handles (s : State) (core : Nat) (r : Rec) : Prop where
  runs : Runs s .base
  handler : s.inHandler = true
  onCore : coreOfG s.leadGroup = core
  only : ∀ k ∈ s.issue.members, k = tKey (gKey core 64) 0
  blk : NoBlk s
  lit : NoLit s
  record : currentRec s core = some r

/-- Selector fields (R418). -/
def selLane (s : State) (a : BitVec 8) (k : Nat) : Nat := (s.word a k).toNat / 2 ^ 8 % 32
def selReg (s : State) (a : BitVec 8) (k : Nat) : Nat := (s.word a k).toNat % 128

/-- The thread of a lane of the trapped group. -/
def trapped (r : Rec) (lane : Nat) : Nat := tKey (gKey (Config.globalCore r.die r.core) r.slot) lane

end Sys2Proof.Machine.Claim

/-- R408, R416: a free handler context starts at TRAPH, with registers and predicates zero, on the record with the lowest
number that waits for it; the same operation does nothing where none waits or the context runs, and no core above 303
exists. That a TRAPH which is no multiple of 4 is taken as it stands is the model's choice (log 75). -/
def Claims.HandlerStarts : Prop :=
  ∀ (s : State) (core : Nat), (304 ≤ core → exec (.handlerStart core) s = .fault .noSuchUnit) ∧
    (core < 304 → (handlerQueue s core = [] ∨ (s.core core).handling = true) →
      exec (.handlerStart core) s = .next s) ∧
    (∀ r rest, core < 304 → handlerQueue s core = r :: rest → (s.core core).handling = false →
      ∃ t, exec (.handlerStart core) s = .next t ∧ t.mem = s.mem ∧ t.blocks = s.blocks ∧
        (t.core core).handling = true ∧ { r with inHandler := true } ∈ t.records ∧
        let x := t.thread (tKey (gKey core 64) 0)
        (tabGet t.threads (tKey (gKey core 64) 0)).isSome ∧ x.pc = (s.grid r.gid).launch.trapH ∧ (∀ n, x.reg n = 0) ∧
          x.p = 1 ∧ (t.group (gKey core 64)).fstat = 0 ∧ ∀ n < 32, (t.group (gKey core 64)).shadow n = ⟨0, 0⟩)

/-- R418: TRRD reads the record's words and, for a lane of the trapped group, its registers, predicates, stopped position,
region entry and counter, and the group's shadows and FSTAT; a lane without a live thread, and every lane in a block trap,
reads 0. -/
def Claims.HandlerReads : Prop :=
  ∀ (s : State) (core : Nat) (r : Rec) (d : BitVec 7) (w : BitVec 1) (a : BitVec 8), Claim.Handles s core r →
    DstOk s d w false → SrcOk s a false →
    let g := gKey (Config.globalCore r.die r.core) r.slot
    let lane := fun k => Claim.trapped r (Claim.selLane s a k)
    let live := fun k => (tabGet s.threads (lane k)).isSome && !r.block
    let gives := fun (h : BitVec 1) (kind : BitVec 4) (x : Nat → Word) =>
      ∃ t, exec (.trrd d w a h kind) s = .next t ∧ Quiet s t ∧ Completed s t (dstRegs d w false) (freedRegs a false) ∧
        Gives s t d w x
    let half := fun (h : BitVec 1) (x : DWord) => if h = 1 then ((x >>> 32).setWidth 32 : Word) else x.setWidth 32
    gives 0 0 (fun k => let o := (s.word a k).toNat
      if 128 ≤ o then 0 else BitVec.ofNat 32 (r.raw / 2 ^ (8 * (o / 4 * 4)))) ∧
    gives 0 1 (fun k => if live k = true ∧ Claim.selReg s a k < s.regMaxOf g
      then (s.thread (lane k)).reg (Claim.selReg s a k) else 0) ∧
    gives 0 2 (fun k => let x := (s.group g).shadow ((s.word a k).toNat % 32)
      if (s.word a k).toNat % 32 < s.regMaxOf g then BitVec.ofInt 32 (if (s.word a k).getLsbD 8 then x.hi else x.lo) else 0) ∧
    gives 0 3 (fun k => if live k then half ((s.word a k).setWidth 1) (s.thread (lane k)).p else 0) ∧
    (∀ h : BitVec 1, gives h 4 (fun k => if live k then half h (s.thread (lane k)).pc else 0) ∧
      gives h 5 (fun k => if live k then half h (s.thread (lane k)).rentry else 0)) ∧
    gives 0 6 (fun k => if live k then (s.thread (lane k)).rcount else 0) ∧
    gives 0 7 (fun _ => (s.group g).fstat)

/-- R419: TRWR writes a register, widening its shadow, or a predicate word but for p0, of a live lane of the trapped group, or
FSTAT of the group; a write to a lane without a live thread or to n at or above REGMAX changes no register. -/
def Claims.HandlerWrites : Prop :=
  ∀ (s : State) (core : Nat) (r : Rec) (v : BitVec 7) (a : BitVec 8) (m : Nat), Claim.Handles s core r →
    SrcOk s ((0 : BitVec 1) ++ v) false → SrcOk s a false → s.enabled = [m] → r.slot < 64 →
    let g := gKey (Config.globalCore r.die r.core) r.slot
    let k := Claim.trapped r (Claim.selLane s a m)
    let n := Claim.selReg s a m
    let x := s.word ((0 : BitVec 1) ++ v) m
    let there := (tabGet s.threads k).isSome = true
    let frame := fun t : State => t.mem = s.mem ∧ (t.thread m).pc = (s.thread m).pc + 4 ∧
      ∀ j, j ≠ k → j ≠ m → tabGet t.threads j = tabGet s.threads j
    (∃ t, exec (.trwr v a 1) s = .next t ∧ frame t ∧
      (∀ j, (t.thread k).reg j = if there ∧ n < s.regMaxOf g ∧ j = n then x else (s.thread k).reg j) ∧
      (there → n < s.regMaxOf g → n < 32 → (tabGet s.groups g).isSome →
        (t.group g).shadow n = ((s.group g).shadow n).hull ⟨x.toInt, x.toInt⟩)) ∧
    (∃ t, exec (.trwr v a 3) s = .next t ∧ frame t ∧ (there → ∀ i : Nat, i < 64 →
      (t.thread k).p.getLsbD i = if i = 0 then (if (s.word a m).getLsbD 0 then (s.thread k).p.getLsbD 0 else true)
        else if decide (32 ≤ i) = (s.word a m).getLsbD 0 then x.getLsbD (i % 32) else (s.thread k).p.getLsbD i)) ∧
    (∃ t, exec (.trwr v a 7) s = .next t ∧ frame t ∧ ((tabGet s.groups g).isSome →
      (t.group g).fstat = ((s.group g).fstat &&& ~~~0x3F) ||| (x &&& 0x3F)))

/-- R414, R416, R420: TRET waits until the context's writes are complete; then the context ends and the record is answered, or
passed to the host with what the context releases. -/
def Claims.HandlerReturns : Prop :=
  ∀ (s : State) (core : Nat) (r : Rec), Claim.Handles s core r → s.enabled ≠ [] →
    let drained := (s.group (gKey core 64)).nGather = 0 ∧ (s.group (gKey core 64)).atomics = []
    let r1 := { r with inHandler := false }
    let ended := fun u : State => tabGet u.threads (tKey (gKey core 64) 0) = none ∧ (u.core core).handling = false ∧
      u.mem = s.mem ∧ u.blocks = s.blocks ∧ u.records = s.records.map fun x => if x == r then r1 else x
    (¬drained → ∀ i ∈ [Instr.tretResume, Instr.tretKill, Instr.tretKillgrid, Instr.tretHost], exec i s = .next s) ∧
    (drained →
      (∀ i ∈ [(Instr.tretResume, 0), (Instr.tretKill, 1), (Instr.tretKillgrid, 2)],
        ∃ u, exec i.1 s = .next (answer u r1 i.2) ∧ ended u) ∧
      (pendingOf s (areaOf s r.gid) = [] → ∃ t, exec .tretHost s = .next t ∧
        { r1 with toHost := true, hb := s.order.own (instOf s (tKey (gKey core 64) 0) 1) (tidOf s (tKey (gKey core 64) 0)) } ∈
          t.records ∧
        tabGet t.threads (tKey (gKey core 64) 0) = none ∧ (t.core core).handling = false))

/-- R172, R413, R414: an answer of resume to a resumable group trap, where no other record names the group: the threads that
were to restart stand at their region entry with the generator and span recorded there, the others where they were; an answer
of kill group removes every live thread of the group, where the Hatstand has room for what the group leaves. -/
def Claims.AnswersToGroupTraps : Prop :=
  ∀ (s : State) (r : Rec) (g : Nat), s.records = [r] → r.block = false → r.groups s = [g] → (s.liveOf g).Nodup →
    (r.resumable = true → let t := answer s r 0
      t.records = [] ∧ t.mem = s.mem ∧ t.stopped g = false ∧
        (∀ k, grpOf k ≠ g → tabGet t.threads k = tabGet s.threads k) ∧
        ∀ k ∈ s.liveOf g, t.thread k = if (s.thread k).restart then
            { s.thread k with
              pc := (s.thread k).rentry, gen := (s.thread k).rgen, span := (s.thread k).rspan, hints := none, run := none
              restart := false, wait := .none, fence := none, since := s.cycleOf k }
          else { s.thread k with brk := false, since := s.cycleOf k }) ∧
    (∀ action, action = 1 ∨ (action = 0 ∧ r.resumable = false) → hatFree s g = true →
      let t := answer s r action
      t.records = [] ∧ t.mem = s.mem ∧ t.liveOf g = [])

/-- R415: an action written to TRACT answers the record of the die that TAREA and TSEQ name, and clears ERR; where there is none
it sets ERR and changes nothing else. Threads that it resumes acquire, at the package, what the host had acquired, and what a TRET
released that passed the record to it (R420). -/
def Claims.HostAnswers : Prop :=
  ∀ (s : State) (d : Nat), ∀ i ∈ [(Instr.tractResume d, 0), (Instr.tractKillGroup d, 1), (Instr.tractKillGrid d, 2)],
    (8 ≤ d → exec i.1 s = .fault .noSuchUnit) ∧ (d < 8 → s.mgmt.devState = .failed → exec i.1 s = .next s) ∧
    let t := tabGetD s.host.tract d {}
    let named := fun r : Rec => r.die = d ∧ r.answer = none ∧ (s.grid r.gid).launch.trapArea = t.area ∧
      ∃ n, r.seq = some n ∧ BitVec.ofNat 64 (n + 1) = t.seq
    (d < 8 → s.mgmt.devState ≠ .failed → (∀ r ∈ s.records, ¬named r) → ∃ u, exec i.1 s = .next u ∧
      { u with host := {} } = { s with host := {} } ∧ tabGetD u.host.tract d {} = { t with err := true }) ∧
    (d < 8 → s.mgmt.devState ≠ .failed → ∀ r rest, s.records = r :: rest → named r → r.inHandler = false → (blockOfRec s r).isSome →
      ∃ u, exec i.1 s = .next (answer u r i.2) ∧
        { u with host := {}, order := {} } = { s with host := {}, order := {} } ∧
        u.order = (if i.2 = 0 then (resumedAcquire (resumedAcquire s r .package s.host.view) r
          (.block r.gid r.blkNum.toNat) r.hb).order else s.order) ∧
        tabGetD u.host.tract d {} = { t with err := false })

/-- R52: reading ACK again for an area with no pending record changes nothing; with one pending record and room, the record is
written with the number HEAD + 1. -/
def Claims.PendingRecordsAreWritten : Prop :=
  ∀ (s : State) (n : Nat) (r : Rec), s.records[n]? = some r → s.poison = [] → s.weak = [] →
    let area := areaOf s r.gid
    (pendingOf s area = [] → exec (.trapAckPoll n) s = .next s) ∧
    (∀ p head ack s1 after, pendingOf s area = [p] → p.host = false →
      readVirt s area.1 (area.2 + 8) .load 8 = .ok ack → readVirt s area.1 area.2 .load 8 = .ok head →
      (head + 2 ^ 64 - ack) % 2 ^ 64 < (s.grid p.gid).launch.trapN →
      writeVirt s area.1 (area.2 + BitVec.ofNat 64 (64 + 128 * (head % (s.grid p.gid).launch.trapN))) .store
        128 (p.bytes head) = .ok s1 →
      writeVirt s1 area.1 area.2 .store 8 ((head + 1) % 2 ^ 64) = .ok after →
      ∃ t, exec (.trapAckPoll n) s = .next t ∧ t.mem = after.mem ∧
        t.records = s.records.map fun x => if x == p then
          { p with seq := some head, raw := p.bytes head, toHost := false } else x)

/-! ## What completes by itself -/

namespace Sys2Proof.Machine.Claim

/-- Results have landed in the lanes of a group: each live thread holds those of its lane, in order; positions, memory and
shared memory are unchanged (R168, R274). -/
structure Landed (s t : State) (g : Nat) (l : List Landing) : Prop where
  values : ∀ k, grpOf k = g → (tabGet s.threads k).isSome →
    (t.thread k).v = (l.filter fun x => tKey g x.lane == k).foldl (fun v x => putReg v x.reg x.wide x.value) (s.thread k).v
  pc : ∀ k, (t.thread k).pc = (s.thread k).pc
  others : ∀ k, grpOf k ≠ g → tabGet t.threads k = tabGet s.threads k
  groups : ∀ h, h ≠ g → tabGet t.groups h = tabGet s.groups h
  mem : t.mem = s.mem ∧ t.blocks = s.blocks

/-- A waiting thread's JOIN condition (R182): every live lane of its mask is itself or waits at a JOIN at its address. -/
def JoinHolds (s : State) (g k : Nat) : Prop :=
  ∃ a m, (s.thread k).wait = .join a m ∧ (s.thread k).halt = .none ∧
    ∀ j ∈ s.liveOf g, j ≠ k → m.getLsbD (laneOf j) = true → ∃ n, joinOf (s.thread j) = some (a, n)

/-- A set of waiting threads of a group whose blockers all lie in it (R184). -/
def Deadlock (s : State) (g : Nat) (d : List Nat) : Prop :=
  ∀ k ∈ d, k ∈ s.liveOf g ∧ (joinOf (s.thread k)).isSome ∧ blockers s g k ≠ [] ∧ ∀ j ∈ blockers s g k, j ∈ d

end Sys2Proof.Machine.Claim

/-- R168, R274, R277, R376, R391, R450, R455: the n-th load or atomic under way lands its results and is no longer outstanding;
a load that met a poisoned word kills its grid; a write's completion lowers the gather counter of its group, or of the
Hatstand entry that took it over. That the entry's count of spills falls with it is the model's choice (log 58). -/
def Claims.Completions : Prop :=
  ∀ (s : State) (g n : Nat),
    ((s.group g).loads[n]? = none → exec (.loadComplete g n) s = .next s) ∧
    ((s.group g).atomics[n]? = none → exec (.atomicComplete g n) s = .next s) ∧
    (∀ l, (s.group g).loads[n]? = some l → (∀ x ∈ l, x.lane < 32) → (s.group g).bad = none →
      ∃ t, exec (.loadComplete g n) s = .next t ∧
      Claim.Landed s t g l ∧ (t.group g).loads = (s.group g).loads.eraseIdx n ∧
      (t.group g).atomics = (s.group g).atomics) ∧
    (∀ l, (s.group g).atomics[n]? = some l → (∀ x ∈ l, x.lane < 32) → (s.group g).bad = none →
      ∃ t, exec (.atomicComplete g n) s = .next t ∧
      Claim.Landed s t g l ∧ (t.group g).atomics = (s.group g).atomics.eraseIdx n ∧
      (t.group g).loads = (s.group g).loads) ∧
    (∀ l pa, (s.group g).loads[n]? = some l → (s.group g).bad = some pa →
      exec (.loadComplete g n) s = .next (poisonKill s (s.blockOf g).gid pa)) ∧
    ((∀ h ∈ (s.core (coreOfG g)).hats, h.slot = slotOfG g → h.gather = 0) → (tabGet s.groups g).isSome →
      ∃ t, exec (.writeComplete g) s = .next t ∧ t.mem = s.mem ∧ t.threads = s.threads ∧
        (t.group g).nGather = (s.group g).nGather - 1 ∧ ∀ h, h ≠ g → tabGet t.groups h = tabGet s.groups h) ∧
    (∀ h, (s.core (coreOfG g)).hats = [h] → h.slot = slotOfG g → h.gather ≠ 0 → ∃ t, exec (.writeComplete g) s = .next t ∧
      t.groups = s.groups ∧ t.mem = s.mem ∧ (t.core (coreOfG g)).hats =
        if h.copy + h.matrix + (h.gather - 1) + h.nbank = 0 then []
        else [{ h with gather := h.gather - 1, spill := h.spill - 1 }])

/-- R182, R305, R448: a group that no record stops: its threads whose JOIN condition holds enter the next word together and
the others stay; where all of them wait at one TAIL or MMA, they may issue it. -/
def Claims.JoinsPass : Prop :=
  ∀ (s : State) (g : Nat), (s.stopped g = true → exec (.joinPass g) s = .next s) ∧
    (s.stopped g = false → ∃ t, exec (.joinPass g) s = .next t ∧ { t with threads := [] } = { s with threads := [] } ∧
      (∀ k, grpOf k ≠ g → tabGet t.threads k = tabGet s.threads k) ∧
      (gathered s g = false → ∀ k ∈ s.liveOf g,
        (Claim.JoinHolds s g k →
          t.thread k = { s.thread k with wait := .none, pc := (s.thread k).pc + 4, since := s.cycleOf k }) ∧
        (¬Claim.JoinHolds s g k → t.thread k = s.thread k)) ∧
      (gathered s g = true → ∀ k ∈ s.liveOf g, t.thread k = { s.thread k with wait := .none, since := s.cycleOf k }))

/-- R184, R409: the set that the device finds is a join deadlock, and holds every other; it raises the join-deadlock trap,
CODE 0x000D, with the set as its lanes, at the JOIN; with no deadlock nothing happens. -/
def Claims.JoinDeadlocks : Prop :=
  ∀ (s : State) (g : Nat), (s.liveOf g).length ≤ 32 →
    Claim.Deadlock s g (deadlocked s g) ∧ (∀ d, Claim.Deadlock s g d → ∀ k ∈ d, k ∈ deadlocked s g) ∧
    (s.stopped g = true ∨ deadlocked s g = [] → exec (.joinDeadlockDetect g) s = .next s) ∧
    (s.stopped g = false → deadlocked s g ≠ [] → ∃ info, exec (.joinDeadlockDetect g) s =
      .next (groupTrap s g (deadlocked s g) 0x000D false (s.thread ((deadlocked s g).headD 0)).pc 0 info))

/-- R376, R399, R400: a barrier lets go every thread whose phase has completed, unless its group is stopped or a save or a cut
holds it; a group's collective counter falls in the order counted, by the additions at its head whose phases have completed; a
live-count phase in which every live thread has arrived ends first. -/
def Claims.BarrierPhases : Prop :=
  ∀ (s : State) (b n : Nat) (cl : Bool), (tabGet s.blocks b).isSome →
    let x := getBar s b cl n
    let ph := if x.full (barLive s b cl) then x.phase + 1 else x.phase
    let taking := fun g => ∃ y ∈ barBlocks s b cl, g ∈ s.groupsOf y
    let due := fun e : Phase => if e.cluster = cl ∧ e.bar = n then decide (e.phase < ph) else e.done
    ∃ t, exec (.barrierPhaseComplete b cl n) s = .next t ∧ t.mem = s.mem ∧ (getBar t b cl n).phase = ph ∧
      (∀ k p, taking (grpOf k) → (tabGet s.threads k).isSome → (s.thread k).wait = .bar cl n p → p < ph →
        (s.thread k).halt = .none → s.stopped (grpOf k) = false → t.thread k =
          { s.thread k with wait := .none, pc := (s.thread k).pc + 4, since := s.cycleOf k }) ∧
      (∀ k, (¬taking (grpOf k) ∨ s.stopped (grpOf k) = true ∨ (s.thread k).halt ≠ .none ∨
          ∀ p, (s.thread k).wait = .bar cl n p → ph ≤ p) → tabGet t.threads k = tabGet s.threads k) ∧
      (∀ g, taking g → (t.group g).nColl = ((s.group g).coll.dropWhile due).length)

/-- R332, R334: the Sideboard takes the next rank's partial in increasing rank order: rank 0's starts the round and fixes its
shape, a later one of that shape is merged row by row, one of another shape is a mismatch; the SBSEND has then moved; with
nothing to fold nothing happens. -/
def Claims.SideboardFolds : Prop :=
  ∀ (s : State) (gid cl : Nat), (foldNext s gid cl = none → exec (.sideboardFold gid cl) s = .next s) ∧
    ∀ ch b c nr dv, (tabGetD s.clusters (clKey gid cl) {}).channel = some ch → ch.mismatch = none →
      s.blockOfRank gid cl ch.nextRank = some b → openSend (s.block b) = some c → sideShape c.d0 = some (nr, dv) →
      s.poison = [] →
      let data := readTile s b (s.tile b c.dst) 0 (8 * nr + 4 * nr * dv)
      let channel := fun t : State => (tabGetD t.clusters (clKey gid cl) {}).channel
      let moved := fun t : State => (t.block b).cmds = Claim.cmdsWith s b c.pos fun d => { d with state := .moved }
      ∃ t, exec (.sideboardFold gid cl) s = .next t ∧ t.mem = s.mem ∧ t.threads = s.threads ∧
        (ch.nextRank = 0 → moved t ∧ channel t = some { ch with
          nextRank := 1, nr := nr, dv := dv, partialSum := bytesSet [] 0 (8 * nr + 4 * nr * dv) data }) ∧
        (ch.nextRank ≠ 0 → nr = ch.nr → dv = ch.dv → moved t ∧ channel t = some { ch with
          nextRank := ch.nextRank + 1
          partialSum := bytesSet [] 0 (8 * nr + 4 * nr * dv) (foldPartial nr dv ch.value data).1 }) ∧
        (ch.nextRank ≠ 0 → (nr ≠ ch.nr ∨ dv ≠ ch.dv) →
          t.blocks = s.blocks ∧ channel t = some { ch with mismatch := some ch.nextRank })

/-- R326 to R330: a relocation locks its next chunk in the record, then copies the chunk, moves WMARK past it and unlocks it;
with the last chunk MOVING becomes 0, the slab-grown event is sent and the relocation is over; a page fault marks the chunk
for its retry, with an event the first time. Between retries SLAB_CHUNK_MOVE does not touch it; on a die out of service nothing
moves (R457). -/
def Claims.SlabRelocation : Prop :=
  ∀ (s : State) (n : Nat), (s.relocs[n]? = none → ∀ i ∈ [Instr.slabChunkMove n, Instr.slabMoveRetry n],
      exec i s = .next s) ∧
    ∀ x, s.relocs[n]? = some x →
      (x.runs s = false → ∀ i ∈ [Instr.slabChunkMove n, Instr.slabMoveRetry n], exec i s = .next s) ∧
      (x.retry = true → exec (.slabChunkMove n) s = .next s) ∧ (x.retry = false → exec (.slabMoveRetry n) s = .next s) ∧
      let i := if x.retry then Instr.slabMoveRetry n else Instr.slabChunkMove n
      let die := Config.dieOfCore x.core
      let core := Config.coreInDie x.core
      (x.runs s = true → s.poison = [] → s.weak = [] → ∀ r, readVirt s x.asid x.record .load 64 = .ok r →
        (∀ s1, x.locked = false → writeVirt s x.asid x.record .store 64 (putBits r 224 32 (64 * x.chunk)) = .ok s1 →
          ∃ t, exec i s = .next t ∧ t.mem = s1.mem ∧ t.threads = s.threads ∧
            t.relocs = s.relocs.set n { x with locked := true, retry := false }) ∧
        (∀ s1 s2, x.locked = true → x.chunk + 1 < 2 ^ (Slab.ocapl r - 6) →
          movePieces x.asid (chunkPieces r x.chunk) s = .ok s1 →
          writeVirt s1 x.asid x.record .store 64
            (putBits (putBits r 192 32 (64 * x.chunk + 64)) 224 32 0xFFFFFFFF) = .ok s2 →
          ∃ t, exec i s = .next t ∧ t.mem = s2.mem ∧ t.threads = s.threads ∧
            t.relocs = s.relocs.set n { x with chunk := x.chunk + 1, locked := false, retry := false }) ∧
        (∀ s1 s2, x.locked = true → 2 ^ (Slab.ocapl r - 6) ≤ x.chunk + 1 →
          movePieces x.asid (chunkPieces r x.chunk) s = .ok s1 →
          writeVirt s1 x.asid x.record .store 64
            (putBits (putBits (putBits r 192 32 (64 * x.chunk + 64)) 224 32 0xFFFFFFFF) 273 1 0) = .ok s2 →
          ∃ u, exec i s = .next (sendEvent u 0x0008 die core x.record (BitVec.ofNat 64 (Slab.oldBase r)) 0) ∧
            u.mem = s2.mem ∧ u.relocs = s.relocs.eraseIdx n)) ∧
      (x.runs s = true → ∀ a e, readVirt s x.asid x.record .load 64 = .error (a, e) → ∃ t, exec i s = .next t ∧
        t.relocs = s.relocs.set n { x with retry := true } ∧ (x.retry = true → t.mem = s.mem))

/-! ## The host's side -/

namespace Sys2Proof.Machine.Claim

/-- The bits that a write sets and a read returns of the plain read-write words of the control BAR (R27, R95, R122, R123,
R134, R415), by offset; none elsewhere. -/
def plainBits (off : Nat) : Option Word :=
  if off % 4 ≠ 0 then none
  else if 0x1000000 ≤ off ∧ off < 0x1800000 then
    let o := off % 0x100000
    if o < 0x1000 then (match o % 0x40 with | 0 => some 0xFFFFF000 | 4 => some 0x000FFFFF | 8 => some 0x1F | _ => none)
    else if o < 0x1100 then some 0x3F else none
  else if 0x800000 ≤ off ∧ off < 0x800800 then
    (match off % 0x20 with | 0 => some 0xFFFFF000 | 4 => some 0x000FFFFF | _ => none)
  else if 0xA00000 ≤ off ∧ off < 0xA00180 then
    (match off % 0x20 with
      | 0 => some 0xFFFFFFFF | 4 => some 0x000FFFFF | 8 => some 0xFFFF | 12 => some 0xFFFF | _ => none)
  else if off = 0xA00180 then some 0xFFFFFFF1
  else if off = 0xB00000 then some 0xFFFFF000
  else if off = 0xB00004 then some 0x000FFFFF
  else if off = 0xB00014 then some 0xFFFFFFFF
  else if off = 0xB00104 then some 0x000FFFFF
  else none

/-- Two ranges of bytes do not meet. -/
def Apart (lo n hi m : Nat) : Prop := lo + n ≤ hi ∨ hi + m ≤ lo

/-- The dependence of a waiting head is evaluated (R105): met, not met, or a word that cannot be read; no word of memory is in
error. -/
structure Evaluated (s t : State) (gid : Nat) (g : Grid) : Prop where
  none : g.launch.waitAddr = 0 → t = s.setGrid gid { g with stage := .eligible }
  met : ∀ v, g.launch.waitAddr ≠ 0 → readVirt s g.asid g.launch.waitAddr .load 8 = .ok v → g.launch.waitVal.toNat ≤ v →
    t.mem = s.mem ∧ t.queues = s.queues ∧ (t.grid gid).stage = .eligible ∧ (t.grid gid).launch = g.launch ∧
      (t.grid gid).since = s.tick
  unmet : ∀ v, g.launch.waitAddr ≠ 0 → readVirt s g.asid g.launch.waitAddr .load 8 = .ok v →
    v < g.launch.waitVal.toNat → t = s
  fault : ∀ e, g.launch.waitAddr ≠ 0 → readVirt s g.asid g.launch.waitAddr .load 8 = .error e →
    t = rejectGrid s gid 0x90 ∧ tabGet t.grids gid = Option.none

end Sys2Proof.Machine.Claim

/-- R2, R25: a write of a plain word of the control BAR reads back as its writable bits; in state 3 of R470 a write outside the
registers of R26 and R474 is ignored and a read gives 0; a write that is not an aligned word or double word changes
nothing. That such a write changes nothing (log 32), and which registers state 3 serves (log 57), are the model's choices. -/
def Claims.ControlWords : Prop :=
  ∀ (s : State) (off : Nat) (v : BitVec 64),
    (∀ bits, s.mgmt.devState ≠ .failed → s.mgmt.legal = true → Claim.plainBits off = some bits →
      ∃ t, exec (.registerWrite off 4 v) s = .next t ∧ regRead t off = v.setWidth 32 &&& bits ∧ t.threads = s.threads) ∧
    (s.mgmt.devState = .failed → off % 4 = 0 → off < 0xF00000 → off ≠ 0xE00300 →
      exec (.registerWrite off 4 v) s = .next s ∧ regRead s off = 0) ∧
    (∀ size, (size = 4 → off % 4 ≠ 0) → (size = 8 → off % 8 ≠ 0) → exec (.registerWrite off size v) s = .next s)

/-- R25: an aperture access of up to 8 bytes reaches HBM and vaults outside their scratch part: a read returns the bytes, a
write sets them and no others; elsewhere a read returns all ones and a write changes nothing. -/
def Claims.ApertureAccesses : Prop :=
  ∀ (s : State) (x size : Nat) (v : BitVec 64), x + size ≤ 2 ^ 32 → size ≤ 8 →
    let pa := s.host.apBase.toNat * 2 ^ 32 + x
    (apertureReaches s x size = true → s.poison = [] → s.weak = [] →
      (∃ t, exec (.apertureRead x size) s = .next t ∧ t.mem = s.mem ∧
        t.host.apRead = BitVec.ofNat 64 (bytesAt s.mem pa size)) ∧
      (memoryWf s.mem → ∃ t, exec (.apertureWrite x size v) s = .next t ∧
        bytesAt t.mem pa size = v.toNat % 256 ^ size ∧
        ∀ a, (a < pa ∨ pa + size ≤ a) → byteAt t.mem a = byteAt s.mem a)) ∧
    (apertureReaches s x size = false →
      (∃ t, exec (.apertureRead x size) s = .next t ∧ t.host.apRead = BitVec.ofNat 64 (2 ^ (8 * size) - 1) ∧
        { t with host := {} } = { s with host := {} }) ∧
      exec (.apertureWrite x size v) s = .next s)

/-- R26, R27, R28: a clock ceiling is taken in steps of 50 MHz between 1,100 and 3,300; clearing EVMASK over records that wait
raises the vector, which is held back while the limit of 2 us runs and raised once at its end. That state 3 ignores the write
of EVMASK is the model's choice (log 57). Completion is stated of: clkceilWrite, evmaskClear, msixDelayedInterrupt. -/
def Obligations.CeilingsAndInterrupts : Prop :=
  ∀ (s : State), s.mgmt.legal = true →
    (∀ (d : Nat) (v : BitVec 32), (8 ≤ d → exec (.clkceilWrite d v) s = .fault .noSuchUnit) ∧
      (d < 8 → ∃ t, exec (.clkceilWrite d v) s = .next t ∧ t.mem = s.mem ∧ t.threads = s.threads ∧
        (∀ e, e ≠ d → t.die e = s.die e) ∧
        let x := v.toNat % 2 ^ 16
        t.die d = { s.die d with clkCeil := if x < 1100 then 1100 else if 3300 ≤ x then 3300 else x - x % 50 })) ∧
    (∀ v : BitVec 32, s.mgmt.devState = .failed → exec (.evmaskClear v) s = .next s) ∧
    (∀ v : BitVec 32, s.mgmt.devState ≠ .failed → ∃ t, exec (.evmaskClear v) s = .next t ∧
      let r := s.host.ring
      let u := t.host.ring
      { t with host := {} } = { s with host := {} } ∧ u.head = r.head ∧ u.tail = r.tail ∧ u.base = r.base ∧
        u.size = v.setWidth 5 ∧ u.en = v.getLsbD 8 ∧ u.mask = v.getLsbD 9 ∧ u.ovf = (r.ovf && !v.getLsbD 31) ∧
        u.raised = r.raised + if r.mask = true ∧ v.getLsbD 9 = false ∧ r.head ≠ r.tail ∧ r.limit = false then 1 else 0) ∧
    (∃ t, exec .msixDelayedInterrupt s = .next t ∧
      let r := s.host.ring
      let u := t.host.ring
      { t with host := {} } = { s with host := {} } ∧ u.head = r.head ∧ u.held = false ∧
        u.raised = r.raised + if r.limit = true ∧ r.held = true ∧ r.mask = false then 1 else 0)

/-- R122, R127, R128, R130: after a miss of a core's TLB the die's TLB, or a walk that fills both, fills it, and an entry that
is not valid fills none, which is the model's choice of what a miss does to the TLBs (log 34); INVGO starts an invalidation
with its size, which a running one keeps; it completes once no bank command of the address space is left, and then no cache
holds a translation of an address in its range. Completion is stated of: translationWalk, invgo, invalidationComplete. -/
def Obligations.TranslationCaches : Prop :=
  ∀ s : State,
    (∀ (core : Nat) (asid : BitVec 6) (va : BitVec 64), Config.cores ≤ core →
      exec (.translationWalk asid (core, va)) s = .fault .noSuchUnit) ∧
    (∀ (core : Nat) (asid : BitVec 6) (va : BitVec 64), core < Config.cores →
      let own : TlbOwner := .core core
      let shared : TlbOwner := .die (Config.dieOfCore core)
      ((heldBy s own asid va.toNat).isSome → exec (.translationWalk asid (core, va)) s = .next s) ∧
      (∀ e, heldBy s own asid va.toNat = none → heldBy s shared asid va.toNat = none →
        walkTables s asid va.toNat = .error e → exec (.translationWalk asid (core, va)) s = .next s) ∧
      (∀ e, heldBy s own asid va.toNat = none → heldBy s shared asid va.toNat = some e → ∃ t,
        exec (.translationWalk asid (core, va)) s = .next t ∧ { t with tlb := [] } = { s with tlb := [] } ∧
        heldBy t own asid va.toNat = some { e with owner := own }) ∧
      (∀ l, heldBy s own asid va.toNat = none → heldBy s shared asid va.toNat = none →
        walkTables s asid va.toNat = .ok l → ∃ t,
        exec (.translationWalk asid (core, va)) s = .next t ∧ { t with tlb := [] } = { s with tlb := [] } ∧
        ∀ o, (o = own ∨ o = shared) → ∃ e, heldBy t o asid va.toNat = some e ∧
          e.entry = l.entry ∧ e.log = l.log ∧ e.slot = l.slot)) ∧
    (∀ (a : Nat) (v : BitVec 32), 64 ≤ a → exec (.invgo a v) s = .fault .noSuchUnit) ∧
    (∀ (a : Nat) (v : BitVec 32), a < 64 → s.mgmt.devState ≠ .failed → ∃ t, exec (.invgo a v) s = .next t ∧ t.mem = s.mem ∧ t.tlb = s.tlb ∧
      let x := s.space a
      t.space a = { x with
        invSz := if x.invGo then x.invSz else v.setWidth 2, en := v.getLsbD 30, invGo := x.invGo || v.getLsbD 31 }) ∧
    (∀ a, ((s.space a).invGo = false ∨ banksHold s a = true) → exec (.invalidationComplete a) s = .next s) ∧
    (∀ a, a < 64 → (s.space a).invGo = true → banksHold s a = false → ∃ t,
      exec (.invalidationComplete a) s = .next t ∧ t.mem = s.mem ∧
      t.threads = s.threads ∧ t.space a = { s.space a with invGo := false } ∧
      (∀ o va, (invRange (s.space a)).1 ≤ va → va < (invRange (s.space a)).1 + (invRange (s.space a)).2 →
        heldBy t o (BitVec.ofNat 6 a) va = none) ∧
      ∀ e ∈ s.tlb, e.asid ≠ a → e ∈ t.tlb)

/-- R131, R132, R134: the placer's epoch chooses at most PLMAX pages, each as the samples ask, and starts new samples. The next
chosen page takes a free frame of the stack it goes to; the move then ends: where its entry still stands as it was, the old frame's
bytes stand at the new one, the entry names it, the list of the stack it leaves grows by the old frame, the event goes out, no
other byte changes and no cache holds a translation of the page; where software has changed the entry the new frame returns to its
list and no other byte changes. While the placer is disabled no page begins to move. No word of memory is in error. That a move is
two steps, its frame locked within the second, is the model's choice (log 73). -/
def Claims.PagePlacement : Prop :=
  ∀ s : State, s.poison = [] → s.weak = [] →
    (placerRuns s = false → exec .placerEpoch s = .next s) ∧
    (placerRuns s = true → ∃ t, exec .placerEpoch s = .next t ∧ t.samples = [] ∧ t.mem = s.mem ∧
      t.mgmt.placer.moves.length ≤ s.mgmt.placer.plMax.toNat ∧
      ∀ x ∈ t.mgmt.placer.moves, ∃ n, moveFor s x.1 x.2.1 = some (n, x) ∧ s.mgmt.placer.plMin.toNat ≤ n) ∧
    (s.mgmt.placer.moving = none → s.mgmt.placer.moves = [] → exec .pageMove s = .next s) ∧
    (∀ a va k rest, s.mgmt.placer.moving = none → s.mgmt.placer.moves = (a, va, k) :: rest → ∃ t,
      exec .pageMove s = .next t ∧ t.mgmt.placer.moves = rest ∧ t.mem = s.mem ∧ t.threads = s.threads ∧ t.tlb = s.tlb ∧
      (placerRuns s = false → t.mgmt.placer.moving = none) ∧
      (∀ l, placerRuns s = true → walkTables s (BitVec.ofNat 6 a) va = .ok l → movable s.mgmt l = true →
        s.mgmt.legal = true → k < 12 → l.page / 2 ^ 36 ≠ k → (s.stack k).frCount ≠ 0 →
        (s.stack (l.page / 2 ^ 36)).frCount < (s.stack (l.page / 2 ^ 36)).frCap →
        (t.stack k).frCount = (s.stack k).frCount - 1 ∧ ∃ m, t.mgmt.placer.moving = some m ∧
          m.asid = a ∧ m.va = va ∧ m.entry = l.entry ∧ m.slot = l.slot ∧ m.stack = k ∧
          m.frame = bytesAt s.mem ((s.stack k).frBase.toNat + 8 * ((s.stack k).frCount.toNat - 1)) 8)) ∧
    (∀ m, s.mgmt.placer.moving = some m → ∃ t, exec .pageMove s = .next t ∧ t.mgmt.placer.moving = none ∧
      t.mgmt.placer.moves = s.mgmt.placer.moves ∧ t.threads = s.threads ∧
      (bytesAt s.mem m.slot 8 = m.entry → s.mgmt.legal = true → m.page / 2 ^ 36 < 12 → memoryWf s.mem →
        let size := 2 ^ 21
        let list := (s.stack (m.page / 2 ^ 36)).frBase.toNat + 8 * (s.stack (m.page / 2 ^ 36)).frCount.toNat
        let sent := fun u => sendEvent u 0x0007 0xFF 0xFF (BitVec.ofNat 64 (m.asid * 2 ^ 57 + m.va)) (BitVec.ofNat 64 m.page)
          (BitVec.ofNat 64 m.frame)
        (t.stack (m.page / 2 ^ 36)).frCount = (s.stack (m.page / 2 ^ 36)).frCount + 1 ∧
        (∀ e ∈ t.tlb, e.asid = m.asid → sharesByte e.va e.log m.va size = false) ∧
        (Claim.Apart m.page size m.frame size → Claim.Apart m.slot 8 m.frame size → Claim.Apart list 8 m.frame size →
          Claim.Apart list 8 m.slot 8 → ∃ u, t.mem = (sent u).mem ∧ t.host.ring = (sent u).host.ring ∧ u.host = s.host ∧
            (∀ i < size, byteAt u.mem (m.frame + i) = byteAt s.mem (m.page + i)) ∧
            bytesAt u.mem m.slot 8 = (m.entry - m.page + m.frame) % 2 ^ 64 ∧ bytesAt u.mem list 8 = m.page % 2 ^ 64 ∧
            ∀ a, (a < m.frame ∨ m.frame + size ≤ a) → (a < m.slot ∨ m.slot + 8 ≤ a) → (a < list ∨ list + 8 ≤ a) →
              byteAt u.mem a = byteAt s.mem a)) ∧
      (bytesAt s.mem m.slot 8 ≠ m.entry → s.mgmt.legal = true → m.stack < 12 → memoryWf s.mem →
        t.tlb = s.tlb ∧ (t.stack m.stack).frCount = (s.stack m.stack).frCount + 1 ∧
        let slot := (s.stack m.stack).frBase.toNat + 8 * (s.stack m.stack).frCount.toNat
        bytesAt t.mem slot 8 = m.frame % 2 ^ 64 ∧
        ∀ p, (p < slot ∨ slot + 8 ≤ p) → byteAt t.mem p = byteAt s.mem p))

/-- R132: the bytes of a frame stand at its new place, and no byte outside it changes. -/
def Claims.FrameCopies : Prop :=
  ∀ (m : Bytes) (src dst n : Nat), memoryWf m → (src + n ≤ dst ∨ dst + n ≤ src) →
    memoryWf (bytesCopy m src dst n) ∧ (∀ i < n, byteAt (bytesCopy m src dst n) (dst + i) = byteAt m (src + i)) ∧
      ∀ a, (a < dst ∨ dst + n ≤ a) → byteAt (bytesCopy m src dst n) a = byteAt m a

/-- R96, R97, R105: a doorbell sets QTAIL; an entry whose record passes every check becomes the head of its queue with a new
grid; one that fails is taken and a launch-rejected event goes out; a dependence is evaluated on POKE and by the poll while the die
of its dispatcher serves. No word of memory is in error. -/
def Claims.QueueEntries : Prop :=
  ∀ (s : State) (d q : Nat), d < 8 → q < 64 → s.poison = [] → s.weak = [] →
    (∀ v : BitVec 32, s.mgmt.devState ≠ .failed → ∃ t, exec (.qtailDoorbell d q v) s = .next t ∧ (t.queue d q).tail = v ∧
      (t.queue d q).head = (s.queue d q).head ∧ t.mem = s.mem ∧ t.grids = s.grids) ∧
    (takeDue s d q = false → exec (.queueEntryTake d q) s = .next s) ∧
    (takeDue s d q = true →
      let x := s.queue d q
      let entry := BitVec.ofNat 64 (bytesAt s.mem (x.base.toNat + 8 * (x.head.toNat % 2 ^ x.size.toNat)) 8)
      (readRecord s x.asid entry = none → ∃ t, exec (.queueEntryTake d q) s = .next t ∧
        t.mem = (rejected s d 0 0xFFFF entry).mem ∧ t.host = (rejected s d 0 0xFFFF entry).host ∧ t.grids = s.grids ∧
        (t.queue d q).head = x.head + 1 ∧ (t.queue d q).cur = x.cur) ∧
      (∀ raw f fs, readRecord s x.asid entry = some raw → allFails s x.asid (.die d q) raw = f :: fs →
        let u := rejected s d ((launchOf raw).jobId.setWidth 64) (fs.foldl min f) entry
        ∃ t, exec (.queueEntryTake d q) s = .next t ∧ t.mem = u.mem ∧ t.host = u.host ∧ t.grids = s.grids ∧
          (t.queue d q).head = x.head + 1) ∧
      (∀ raw, readRecord s x.asid entry = some raw → allFails s x.asid (.die d q) raw = [] →
        (launchOf raw).waitAddr = 0 → ∃ t, exec (.queueEntryTake d q) s = .next t ∧ t.mem = s.mem ∧
          (t.queue d q).head = x.head ∧ (t.queue d q).cur = some s.nextGrid ∧ t.nextGrid = s.nextGrid + 1 ∧
          (t.grid s.nextGrid).launch = launchOf raw ∧ (t.grid s.nextGrid).stage = .eligible ∧
          (t.grid s.nextGrid).addr = entry ∧ (t.grid s.nextGrid).asid = x.asid)) ∧
    (∀ gid g, tabGet s.grids gid = some g → g.stage = .waiting →
      (dieServes s g.origin.die? = false → exec (.dependencePoll gid) s = .next s) ∧
      (dieServes s g.origin.die? = true → ∃ t, exec (.dependencePoll gid) s = .next t ∧ Claim.Evaluated s t gid g) ∧
      (dieServes s g.origin.die? = true → s.mgmt.devState ≠ .failed → (s.queue d q).cur = some gid → ∃ t, exec (.poke d q) s = .next t ∧ Claim.Evaluated s t gid g)) ∧
    ((s.queue d q).cur = none → exec (.poke d q) s = .next s)

/-- R95, R96, R98, R105: the control word of a queue sets EN and EVT, reports a ring that cannot be served (R96: reason 0xFFFE), and
then does what ABORT and POKE do where their bits are set; an ABORT discards every entry of which no block has been placed and moves QHEAD to QTAIL, at once unless the head has placed
blocks. -/
def Claims.QueueControl : Prop :=
  ∀ (s : State) (d q : Nat), d < 8 → q < 64 → s.mgmt.devState ≠ .failed →
    let x := s.queue d q
    (∀ (v : BitVec 32) (s1 s2 : State), exec (.queueEnable d q (v &&& 0xFFFFFFF9)) s = .next s1 →
      (if v.getLsbD 1 then exec (.abort d q) s1 else .next s1) = .next s2 →
      exec (.queueEnable d q v) s = if v.getLsbD 2 then exec (.poke d q) s2 else .next s2) ∧
    (∀ v : BitVec 32, v.getLsbD 1 = false → v.getLsbD 2 = false → ∃ t, exec (.queueEnable d q v) s = .next t ∧
      t.queue d q = { x with en := v.getLsbD 0, evt := v.getLsbD 3 } ∧ t.grids = s.grids ∧
      ((v.getLsbD 0 = false ∨ ringOk s.mgmt x = true) → t.mem = s.mem ∧ t.host = s.host) ∧
      (v.getLsbD 0 = true → ringOk s.mgmt x = false →
        t.mem = (rejected s d 0 0xFFFE x.base).mem ∧ t.host = (rejected s d 0 0xFFFE x.base).host)) ∧
    (headFresh s x = true → ∃ t, exec (.abort d q) s = .next t ∧ (t.queue d q).head = x.tail ∧
      (t.queue d q).cur = none ∧ (t.queue d q).tail = x.tail ∧ ∀ g, x.cur = some g → tabGet t.grids g = none) ∧
    (headFresh s x = false → ∃ t, exec (.abort d q) s = .next t ∧ (t.queue d q).head = x.head ∧
      (t.queue d q).cur = x.cur ∧ (t.queue d q).abortTo = some x.tail ∧ t.grids = s.grids)

/-- R99, R101: the oldest card of a core in service whose record passes its checks becomes the head of the local queue with a
new grid; one that fails leaves the queue; while a head stands, or the core is out of service, nothing happens. -/
def Claims.LocalCards : Prop :=
  ∀ (s : State) (g : Nat), s.poison = [] → s.weak = [] →
    let c := s.core g
    (c.queue.cards = [] ∨ c.queue.cur.isSome ∨ coreServes s g = false → exec (.localCardCheck g) s = .next s) ∧
    (∀ card rest, c.queue.cards = card :: rest → c.queue.cur = none → coreServes s g = true →
      (∀ raw, readRecord s card.asid card.addr = some raw → allFails s card.asid (.core g) raw = [] →
        (launchOf raw).waitAddr = 0 → ∃ t, exec (.localCardCheck g) s = .next t ∧ t.mem = s.mem ∧
          (t.core g).queue = { cards := card :: rest, cur := some s.nextGrid } ∧ t.nextGrid = s.nextGrid + 1 ∧
          (t.grid s.nextGrid).launch = launchOf raw ∧ (t.grid s.nextGrid).stage = .eligible ∧
          (t.grid s.nextGrid).poster = card.poster) ∧
      (∀ raw f fs, readRecord s card.asid card.addr = some raw → allFails s card.asid (.core g) raw = f :: fs →
        ∃ t, exec (.localCardCheck g) s = .next t ∧ (t.core g).queue = { cards := rest, cur := none } ∧
          t.grids = s.grids ∧
          t.mem = (rejected s (Config.dieOfCore g) ((launchOf raw).jobId.setWidth 64) (fs.foldl min f) card.addr).mem))

/-! ## Placement and completion -/

namespace Sys2Proof.Machine.Claim

/-- The context and the slots that a block of a record takes on a core (R112, R117). -/
def ctxOn (s : State) (core : Nat) : Nat := (lowestFree ((blocksOnCore s core).map (· % 16)) 16).headD 0
def slotsOn (s : State) (r : Launch) (core : Nat) : List Nat := (lowestFree (slotsHeld s core) 64).take r.groups

/-- A block stands fresh on a core (R41, R46, R48, R74, R166): its number, its uniform and array registers, its groups and its
threads, each at the entry with its own generator state. -/
structure Placed (s t : State) (gid core d : Nat) (num : Word) (cluster : Option Nat) (rank : Nat) : Prop where
  block : t.block (bKey core (ctxOn s core)) = newBlock s gid num cluster rank d (slotsOn s (s.grid gid).launch core)
  thread : ∀ i sl, i < (s.grid gid).launch.threads → (slotsOn s (s.grid gid).launch core)[i / 32]? = some sl →
    t.thread (tKey (gKey core sl) (i % 32)) = newThread ((s.grid gid).launch.codeFor d) num (s.core core).cycle i
  group : ∀ n sl, (slotsOn s (s.grid gid).launch core)[n]? = some sl →
    t.group (gKey core sl) = { blk := bKey core (ctxOn s core), num := n }

end Sys2Proof.Machine.Claim

/-- R15: a CD7 die has 40 cores and a CD6 die 32, 304 in all; the global core index of core c of die d, which names the core's
die and its number there, and the indices run from 0 to 303 without gaps. -/
def Claims.GlobalCoreIndices : Prop :=
  (∀ d, d < 6 → Config.coresOf d = 40) ∧ (∀ d, 6 ≤ d → d < 8 → Config.coresOf d = 32) ∧ Config.cores = 304 ∧
  (∀ d c, d < 8 → c < Config.coresOf d →
    Config.globalCore d c = (if d ≤ 5 then 40 * d + c else 240 + 32 * (d - 6) + c) ∧ Config.globalCore d c < 304 ∧
      Config.dieOfCore (Config.globalCore d c) = d ∧ Config.coreInDie (Config.globalCore d c) = c) ∧
  ∀ g, g < 304 → Config.dieOfCore g < 8 ∧ Config.coreInDie g < Config.coresOf (Config.dieOfCore g) ∧
    Config.globalCore (Config.dieOfCore g) (Config.coreInDie g) = g

/-- R41, R74, R102, R112, R166, R272: the dispatcher's next decision places the next block of a head on a core, in its lowest free
slots; that the context is the lowest free one is the model's choice (log 83); the grid's next block number rises by one; the core's read-only cache is invalidated where no other block
of the grid is resident; no other block and no memory but the scratch slices of the slots taken changes. -/
def Claims.BlockPlacement : Prop :=
  ∀ (s : State) (core gid d : Nat), nextPlacement s = some (.head gid, d, [core]) → (s.grid gid).launch.kind ≠ 1 →
    (∃ t, exec (.blockPlace core) s = .next t ∧
      Claim.Placed s t gid core d (BitVec.ofNat 32 (s.grid gid).nextBlock) none 0 ∧
      t.grid gid = { s.grid gid with nextBlock := (s.grid gid).nextBlock + 1 } ∧
      (∀ b, b ≠ bKey core (Claim.ctxOn s core) → t.block b = s.block b) ∧
      ((∀ b ∈ blocksOnCore s core, (s.block b).gid ≠ gid) → (t.core core).ro = []) ∧
      t.mem = clearSlices s.mem core (Claim.slotsOn s (s.grid gid).launch core)) ∧
    ∀ c, c ≠ core → exec (.blockPlace c) s = .next s

/-- R103, R118: the next decision places a whole cluster on a die, a block on each of its cores by rank; a cluster grid at the
head asks for the nearest die that it may use, the lower one of two at the same distance; on a die where no reservation stands
one of the clusters that wait there takes it, in the order of R102, and one that stands keeps it. -/
def Claims.ClusterPlacement : Prop :=
  (∀ (s : State) (d gid : Nat) (cores : List Nat), nextPlacement s = some (.head gid, d, cores) →
    (s.grid gid).launch.kind = 1 → cores.Nodup →
    let g := s.grid gid
    (∃ t, exec (.clusterPlace d) s = .next t ∧ t.grid gid = { g with nextBlock := g.nextBlock + 1 } ∧
      (tabGetD t.clusters (clKey gid g.nextBlock) {}).die = d ∧ (∀ r ∈ t.reservations, r.gid ≠ gid) ∧
      ∀ rank core, cores[rank]? = some core → ∃ b, coreOfB b = core ∧ (t.block b).gid = gid ∧
        (t.block b).cluster = some g.nextBlock ∧ (t.block b).rank = rank ∧
        (t.block b).num = BitVec.ofNat 32 (g.nextBlock * g.launch.clSize + rank)) ∧
    ∀ e, e ≠ d → exec (.clusterPlace e) s = .next s) ∧
  (∀ (s : State) (gid : Nat), (tabGet s.grids gid).isSome → headReady s gid = true → (s.grid gid).launch.kind = 1 →
    (∀ r ∈ s.reservations, r.gid ≠ gid) →
    ∀ d, d < 8 → (s.grid gid).launch.allows d = true →
      let far := Config.hops (s.grid gid).origin.die?
      (∀ e, e < 8 → (s.grid gid).launch.allows e = true → far d < far e ∨ (far d = far e ∧ d ≤ e)) →
      exec (.clusterReservation gid) s =
        .next (grantReservations { s with reservations := s.reservations ++ [{ gid := gid, die := d }] })) ∧
  (∀ s : State, let t := grantReservations s
    { t with reservations := [] } = { s with reservations := [] } ∧
    ∀ d, d < 8 →
      let here := s.reservations.filter fun r => r.die == d
      ((∃ r ∈ here, r.stands = true) → (t.reservations.filter fun r => r.die == d) = here) ∧
      ((∀ r ∈ here, r.stands = false) → here ≠ [] → ∃ r ∈ here,
        (∀ q ∈ here, keyLess (candKey s (.head q.gid)) (candKey s (.head r.gid)) = false) ∧
        (t.reservations.filter fun r => r.die == d) = here.map fun x => if x = r then { x with stands := true } else x))

/-- R107, R108, R451, R453: a block that is done leaves its context and counts for its grid; a grid whose blocks are all done
writes its completion signal, stored or added, and is gone; a killed grid writes none; before that nothing happens. Completion
is stated of: blockComplete, gridComplete. -/
def Obligations.Completion : Prop :=
  (∀ (s : State) (b : Nat),
    (blockDone s b = false → exec (.blockComplete b) s = .next s) ∧
    (blockDone s b = true → ∃ t, exec (.blockComplete b) s = .next t ∧ tabGet t.blocks b = none ∧
      (∀ c, c ≠ b → t.block c = s.block c) ∧ t.threads = s.threads ∧
      ((tabGet s.grids (s.block b).gid).isSome → (t.grid (s.block b).gid).done = (s.grid (s.block b).gid).done + 1))) ∧
  (∀ (s : State) (gid : Nat),
    let g := s.grid gid
    (gridDone s gid = false → exec (.gridComplete gid) s = .next s) ∧
    (gridDone s gid = true → ∃ t, exec (.gridComplete gid) s = .next t ∧ tabGet t.grids gid = none ∧
      t.threads = s.threads ∧ t.blocks = s.blocks ∧
      (g.stage = .killed → t.mem = s.mem) ∧
      (∀ pa, g.stage = .eligible → g.launch.sigAddr ≠ 0 → translate s g.asid g.launch.sigAddr .store = .ok pa →
        memoryWf s.mem → s.poison = [] → s.weak = [] → (∀ e ∈ s.grids, e.2.stage ≠ .waiting) →
        (match g.origin with | .die d q => (s.queue d q).evt = false | .core _ => True) →
        bytesAt t.mem pa 8 = (if g.launch.sigOp = 0 then g.launch.sigVal.toNat
          else (bytesAt s.mem pa 8 + g.launch.sigVal.toNat) % 2 ^ 64) ∧
        ∀ a, (a < pa ∨ pa + 8 ≤ a) → byteAt t.mem a = byteAt s.mem a)))

/-! ## Pre-emption and cuts -/

namespace Sys2Proof.Machine.Claim

/-- Threads are as they were but for the mark of their last attempt (R425). -/
def SameButTries (s t : State) : Prop :=
  ∀ k, { t.thread k with notReady := false } = { s.thread k with notReady := false }

/-- A save of kind `kind` is asked of the blocks of a grid that no save but an eviction takes and that do not migrate, and of no
other (R424, R443). -/
def SavesAsked (s t : State) (gid : Nat) (held : Bool) (kind : Nat → Nat) : Prop :=
  ∀ b, t.block b = if b ∈ s.blocksOf gid ∧ b ∉ movingBlocks s gid ∧
      ((s.block b).saving = none ∨ ∃ v, (s.block b).saving = some v ∧ v.kind = 1)
    then { s.block b with saving := some { kind := kind b, held := held } } else s.block b

/-- The command of PRECTL has ended with what it reports (R423). -/
def Ended (t : State) (pop : BitVec 3) (err : Bool) (stat : BitVec 4) (cnt : Nat) : Prop :=
  t.host.prectl.go = false ∧ t.host.prectl.pop = pop ∧ t.host.prectl.err = err ∧ t.host.prectl.stat = stat ∧
    t.host.prectl.cnt = BitVec.ofNat 32 cnt

end Sys2Proof.Machine.Claim

/-- R423, R424, R436, R443: a command of PRECTL acts on the oldest running or held grid with the job number named; with none
it ends at once with PERR; while one is in progress nothing happens. That the oldest grid of a job number is meant, the PCNT
of POP 4 and 5, and PERR 0 for POP 3 on a grid being cut and for POP 5 on one whose cut is not complete are the model's
choices (log 55). Completion is stated of: preemptRequeue, preemptHold, cut, releaseHeld, resumeFromCut. -/
def Obligations.PreemptionCommands : Prop :=
  ∀ s : State, s.mgmt.devState ≠ .failed →
    (s.host.prectl.go = true → exec .preemptRequeue s = .next s ∧ exec .preemptHold s = .next s ∧
      exec .cut s = .next s ∧ exec .releaseHeld s = .next s ∧ exec .resumeFromCut s = .next s) ∧
    (s.host.prectl.go = false → jobGrid s s.host.prectl.job = none →
      ∀ x ∈ [(Instr.preemptRequeue, 1#3), (.preemptHold, 2#3), (.cut, 3#3), (.releaseHeld, 4#3), (.resumeFromCut, 5#3)],
        ∃ t, exec x.1 s = .next t ∧ Claim.Ended t x.2 true 0 0 ∧ t.threads = s.threads ∧ t.blocks = s.blocks ∧
          t.grids = s.grids ∧ t.saved = s.saved) ∧
    (∀ gid, s.host.prectl.go = false → jobGrid s s.host.prectl.job = some gid →
      let held := (s.grid gid).hold
      (∃ t, exec .preemptRequeue s = .next t ∧ Claim.SameButTries s t ∧ t.grids = s.grids ∧ t.saved = s.saved ∧
        Claim.SavesAsked s t gid false fun b => if debugStopped s b = true then 4 else 0) ∧
      (∃ t, exec .preemptHold s = .next t ∧ Claim.SameButTries s t ∧ (t.grid gid).hold = .hold ∧
        (∀ x ∈ t.saved, x.gid = gid → x.held = true) ∧
        Claim.SavesAsked s t gid true fun b => if held = .cutDone then 2 else if debugStopped s b = true then 4 else 0) ∧
      ((held = .none ∨ held = .hold) → ∃ t, exec .cut s = .next t ∧ (t.grid gid).hold = .cut none ∧
        (t.grid gid).held = decide (held = .hold) ∧ t.blocks = s.blocks ∧ t.host.prectl.go = true ∧ ∀ k, t.thread k =
          if ∃ b ∈ s.blocksOf gid, b ∉ movingBlocks s gid ∧ k ∈ s.liveOfBlock b then cutWaiting (.cut none) (s.thread k)
          else s.thread k) ∧
      ((held = .cutDone ∨ ∃ m, held = .cut m) → ∃ t, exec .cut s = .next t ∧ Claim.Ended t 3 false 0 0 ∧
        t.threads = s.threads ∧ t.grids = s.grids) ∧
      (∃ t, exec .releaseHeld s = .next t ∧
        Claim.Ended t 4 false 0 (s.saved.filter fun x => x.gid == gid && (x.held || x.refused)).length ∧
        (t.grid gid).hold = (if held = .hold then .none else held) ∧
        (∀ x ∈ t.saved, x.gid = gid → x.held = false ∧ x.refused = false) ∧ t.threads = s.threads) ∧
      (held ≠ .cutDone → ∃ t, exec .resumeFromCut s = .next t ∧ Claim.Ended t 5 false 0 0 ∧ t.threads = s.threads) ∧
      (held = .cutDone → ∃ t, exec .resumeFromCut s = .next t ∧ Claim.Ended t 5 false 0 (s.blocksOf gid).length ∧
        (t.grid gid).hold = (if (s.grid gid).held = true then .hold else .none) ∧
        ∀ k ∈ gridThreads s gid, (∃ n, (s.thread k).halt = .cut n) → (t.thread k).halt = .none))

/-- R426: at the first deadline of a pre-emption its saves count one deadline, after which threads stop at region entries; at
the second every thread of its blocks has stopped. -/
def Claims.PreemptionDeadlines : Prop :=
  ∀ (s : State) (gid b : Nat) (v : Saving), b ∈ s.blocksOf gid → (s.block b).saving = some v → (v.kind = 0 ∨ v.kind = 4) →
    (v.late = 0 → ∃ t, exec (.preemptDeadline gid) s = .next t ∧ (t.block b).saving = some { v with late := 1 } ∧
      t.mem = s.mem ∧ t.saved = s.saved) ∧
    (v.late = 1 → ∃ t, exec (.preemptRestartDeadline gid) s = .next t ∧ (t.block b).saving = some { v with late := 2 } ∧
      t.mem = s.mem ∧ ∀ k ∈ s.liveOfBlock b, (t.thread k).halt ≠ .none)

/-- R436, R437, R438, R443: once every thread of a cut has stopped, at a boundary or by a trap, and no unit of the grid migrates,
the cut's number is the largest count of boundaries, of saved units too, and the threads behind it go on; once all stand at it the
cut is complete and its event goes out with JOBID and the number; at the deadline of a cut its threads go on and it has failed with
PSTAT 3. That what POP 2 held before stays held, and that the counts of saved units take part, are the model's choices
(log 55). -/
def Claims.Cuts : Prop :=
  ∀ (s : State) (gid : Nat),
    let ks := gridThreads s gid
    let p := s.host.prectl
    ((s.grid gid).hold = .cut none → (∀ k ∈ ks, cutStopped s k = true) → (∀ m ∈ s.migrations, m.gid ≠ gid) → ∃ t m,
      exec (.cutReduction gid) s = .next t ∧
      (t.grid gid).hold = .cut (some m) ∧ (∀ k ∈ ks, (s.thread k).steps.toNat ≤ m) ∧ (∀ n ∈ savedSteps s gid, n ≤ m) ∧
      (ks ≠ [] ∨ savedSteps s gid ≠ [] → (∃ k ∈ ks, (s.thread k).steps.toNat = m) ∨ m ∈ savedSteps s gid) ∧ t.blocks = s.blocks ∧ t.mem = s.mem ∧
      ∀ k ∈ ks, (∃ n, (s.thread k).halt = .cut n) →
        (t.thread k).halt = if (s.thread k).steps.toNat < m then .none else (s.thread k).halt) ∧
    (((s.grid gid).hold ≠ .cut none ∨ (∃ k ∈ ks, cutStopped s k = false) ∨ ∃ m ∈ s.migrations, m.gid = gid) →
      exec (.cutReduction gid) s = .next s) ∧
    (∀ m, (s.grid gid).hold = .cut (some m) →
      (cutSettled s gid m = false → exec (.cutComplete gid) s = .next s) ∧
      (cutSettled s gid m = true → ∃ t, exec (.cutComplete gid) s = .next t ∧ (t.grid gid).hold = .cutDone ∧
        t.host.prectl.go = false ∧ t.threads = s.threads ∧ t.blocks = s.blocks ∧
        ∃ u, { u with host := {}, grids := [] } = { s with host := {}, grids := [] } ∧ u.host.ring = s.host.ring ∧
          let v := sendEvent u 0x000C 0xFF 0xFF ((s.grid gid).launch.jobId.setWidth 64) (BitVec.ofNat 64 m) 0
          ∃ y, { y with host := {} } = { v with host := {} } ∧ y.host.ring = v.host.ring ∧
            t = sendEvent y 0x000B 0xFF 0xFF (p.job.setWidth 64) (t.host.prectl.stat.setWidth 64) (t.host.prectl.cnt.setWidth 64))) ∧
    ((∀ m, (s.grid gid).hold ≠ .cut (some m)) → exec (.cutComplete gid) s = .next s) ∧
    (∀ m, (s.grid gid).hold = .cut m → ∃ t, exec (.cutDeadline gid) s = .next t ∧
      (t.grid gid).hold = (if (s.grid gid).held = true then .hold else .none) ∧
      t.host.prectl.go = false ∧ (p.go = true → p.gid = gid → t.host.prectl.stat = 3) ∧
      ∀ k ∈ ks, (∃ n, (s.thread k).halt = .cut n) → (t.thread k).halt = .none) ∧
    ((∀ m, (s.grid gid).hold ≠ .cut m) →
      (¬(p.go = true ∧ p.pop = 3 ∧ p.gid = gid) → exec (.cutDeadline gid) s = .next s) ∧
      (p.go = true → p.pop = 3 → p.gid = gid → ∃ t, exec (.cutDeadline gid) s = .next t ∧ t.host.prectl.go = false ∧
        t.host.prectl.stat = 3 ∧ t.threads = s.threads))

/-! ## Saves, restores and migrations -/

namespace Sys2Proof.Machine.Claim

/-- The unit's images and slot entries have been written into its save area: the state that holds them (R429, R434). -/
def Written (u w : State) (g : Grid) (blks slots : List Nat) (kind : Nat) (imgs : List (Bytes × Bytes)) : Prop :=
  ∃ v, writeImages g (List.zipWith (fun (b : Nat) (e : Nat × Bytes × Bytes) => (b, e.1, e.2.1)) blks (slots.zip imgs)) u =
      (v, none) ∧
    writeParts g (saveHeader g ++ List.zipWith
      (fun b i => (⟨0x10 + 8 * i, 8, (u.block b).num.toNat + 2 ^ 32 + kind * 2 ^ 33⟩ : Part)) blks slots) v = (w, none)

/-- A save has been given up (R428, R434): the unit's blocks stay, and none of them is being saved. -/
def GivenUp (t : State) (blks : List Nat) : Prop := ∀ b ∈ blks, (t.block b).saving = none

/-- The register values of a restored thread: its position, its generator and every register that its group saved (R432,
R433). -/
structure FromImage (t : Thread) (img : Bytes) (off lane : Nat) : Prop where
  pc : t.pc = BitVec.ofNat 64 (imgAt img (off + 0x300 + 48 * lane) 8)
  gen : t.gen = BitVec.ofNat 32 (imgAt img (off + 0x300 + 48 * lane + 0x14) 4)
  steps : t.steps = BitVec.ofNat 32 (imgAt img (off + 0x300 + 48 * lane + 0x24) 4)
  regs : ∀ n ∈ savedRows img off, t.reg n = BitVec.ofNat 32 (imgAt img (off + 0xA00 + 128 * n + 4 * lane) 4)

end Sys2Proof.Machine.Claim

/-- R427, R428, R434, R335: a save waits until its unit has settled, once its unfolded SBSENDs are withdrawn; with too few free
slots, or a save area that cannot be read, it is given up before any matrix command is split; once every part is written the
unit's blocks leave their cores and stand in the list of saved blocks, and their threads are gone. How an SBSEND is withdrawn (log 46),
and that a save is given up before any split (log 49), are the model's choices. -/
def Claims.Saves : Prop :=
  ∀ (s : State) (b : Nat),
    let blks := unitBlocks (settleHolds s) b
    let u := settleSends (settleHolds s) blks
    (((u.block b).saving = none ∨ tabGet u.blocks b = none ∨ unitReady u blks = false) →
      exec (.saveImageWrite b) s = .next u) ∧
    (∀ v, (u.block b).saving = some v → (tabGet u.blocks b).isSome → unitReady u blks = true →
      let h := u.grid (u.block (blks.headD 0)).gid
      let x := splitAll u blks
      let g := x.grid (x.block (blks.headD 0)).gid
      (v.kind ≠ 3 → ((∃ a, freeSlots u h = .error a) ∨ ∃ l, freeSlots u h = .ok l ∧ l.length < blks.length) →
        ∃ t, exec (.saveImageWrite b) s = .next t ∧ Claim.GivenUp t blks ∧ t.saved = u.saved ∧ t.groups = u.groups ∧
          ∀ c, (t.block c).cmds = (u.block c).cmds) ∧
      (∀ l imgs w, freeSlots u h = .ok l → blks.length ≤ l.length → unitImages x blks v.kind = some imgs →
        Claim.Written x w g blks (l.take blks.length) v.kind imgs → ∃ t, exec (.saveImageWrite b) s = .next t ∧
          (∀ c ∈ blks, tabGet t.blocks c = none) ∧
          t.saved.map (·.num) = x.saved.map (·.num) ++ blks.map (fun c => (x.block c).num) ∧
          (∀ c ∈ blks, ∀ k ∈ w.liveOfBlock c, tabGet t.threads k = none)))

/-- R318, R435, R444, R113: continuations that are due run first. A saved unit that the dispatchers' next decision places stands
again on the cores chosen: for a block of its own whose image was written on the same kind of die, its shared array and the
threads' positions, generators and registers are those of the image. One whose image cannot be read, or does not fit the die, is
refused until POP 4; one that needs more rows than were counted for it waits for a place with as many. That a refusal sets PSTAT 4
unless a command on another grid is in progress is the model's choice (log 71). -/
def Claims.Restores : Prop :=
  ∀ (s : State) (n : Nat),
    (∀ k ks, contsDue s = k :: ks → exec (.restore n) s = .next ((k :: ks).foldl runCont s)) ∧
    (contsDue s = [] → placeOf s n = none → exec (.restore n) s = .next s) ∧
    (∀ x d core, contsDue s = [] → placeOf s n = some ([x], d, [core]) → x.kind ≠ 3 → x.cluster = none →
      let g := s.grid x.gid
      (readImage s g.asid (g.slotAddr x.slot) g.imgSize = none →
        ∃ t, exec (.restore n) s = .next t ∧ { x with refused := true } ∈ t.saved ∧ t.blocks = s.blocks ∧
          t.threads = s.threads) ∧
      (∀ img, readImage s g.asid (g.slotAddr x.slot) g.imgSize = some img → s.poison = [] →
        imageFor s g d x.kind img x.slices = none →
        ∃ t, exec (.restore n) s = .next t ∧ { x with refused := true } ∈ t.saved ∧ t.blocks = s.blocks ∧
          t.threads = s.threads ∧
          let p := s.host.prectl
          t.host.prectl = if p.go = true ∧ p.gid ≠ x.gid then p else { p with stat := 4 }) ∧
      (∀ img, readImage s g.asid (g.slotAddr x.slot) g.imgSize = some img → s.poison = [] → imgAt img 8 16 = dgdescOf d →
        let need := imageGrown g.launch img
        (x.grown < need → ∃ t, exec (.restore n) s = .next t ∧ { x with grown := need } ∈ t.saved ∧
          { t with saved := [] } = { s with saved := [] }) ∧
        (need ≤ x.grown → s.records = [] → (∀ i < g.launch.groups, groupCont img (g.launch.grpAt i) = none) →
        ∃ t, exec (.restore n) s = .next t ∧ x ∉ t.saved ∧
          let b := bKey core (Claim.ctxOn s core)
          (t.block b).gid = x.gid ∧ (t.block b).num = x.num ∧ (t.block b).rank = x.rank ∧
          (t.block b).shared = shiftBytes img g.launch.sh g.launch.sharedBytes 0 [] ∧
          ∀ i sl, i < g.launch.threads → (Claim.slotsOn s g.launch core)[i / 32]? = some sl →
            let off := g.launch.grpAt (i / 32)
            let bits := imgAt img (off + 0x300 + 48 * (i % 32) + 0x20) 4
            bitsNat bits 18 16 = 0 → bitNat bits 19 = false → bitNat bits 20 = false →
              Claim.FromImage (t.thread (tKey (gKey core sl) (i % 32))) img off (i % 32))))

/-- R111, R440, R442, R443: the saved unit of a migration is placed on a die that its grid may use and that holds the class it needs, a
die of the other type where its source lacks the class; a block of its own stands there with the shared array, positions,
generators and registers of its image, the migration is over, and the event with JOBID, the block, the source and the
destination goes out; while no decision places it nothing happens; a unit with a thread that misses the deadline, and that no record names, stays: its threads
go on and its save has ended, and a pre-emption that came meanwhile is now asked of it. -/
def Claims.Migrations : Prop :=
  (∀ (s : State) (n : Nat),
    (s.migrations[n]? = none → exec (.migrationPlace n) s = .next s) ∧
    (∀ m, s.migrations[n]? = some m →
      let i := s.saved.findIdx fun y => y.gid == m.gid && y.kind == 3 && y.cluster == m.unit.1 &&
        (m.unit.1.isSome || y.num.toNat == m.unit.2)
      ((placeOf s i = none ∨ m.saved = false) → exec (.migrationPlace n) s = .next s) ∧
      (∀ l d cores, placeOf s i = some (l, d, cores) → s.saved[i]?.map (·.kind) = some 3 → m.saved = true →
        (∀ y ∈ s.migrations, y.gid = m.gid → y.unit.1 = m.unit.1 → (m.unit.1 = none → y.unit.2 = m.unit.2) → y = m) →
        d < 8 ∧ (s.grid m.gid).launch.allows d = true ∧ Config.fclassOf d / 2 ^ m.cls % 2 = 1 ∧
          (m.srcDie < 8 → Config.fclassOf m.srcDie / 2 ^ m.cls % 2 = 0 → Config.isCd6 d ≠ Config.isCd6 m.srcDie)) ∧
      (∀ x d core img, m.saved = true → placeOf s i = some ([x], d, [core]) → x.kind = 3 → x.cluster = none →
        x.gid = m.gid → m.unit = (none, x.num.toNat) → (∀ y ∈ s.saved, y ≠ x → ¬(y.gid = x.gid ∧ y.num = x.num)) →
        s.records = [] → s.poison = [] → s.weak = [] → s.host.prectl.go = false → (s.grid m.gid).stage = .eligible →
        let g := s.grid x.gid
        readImage s g.asid (g.slotAddr x.slot) g.imgSize = some img → imageGrown g.launch img ≤ x.grown →
        ∃ t, exec (.migrationPlace n) s = .next t ∧ x ∉ t.saved ∧ m ∉ t.migrations ∧
          (∃ v, t = sendEvent v 0x000D d (Config.coreInDie core) (g.launch.jobId.setWidth 64) (BitVec.ofNat 64 x.num.toNat)
            (BitVec.ofNat 64 (m.srcDie + 256 * d)) ∧ v.host = s.host) ∧
          let b := bKey core (Claim.ctxOn s core)
          (t.block b).gid = x.gid ∧ (t.block b).num = x.num ∧ (t.block b).rank = x.rank ∧
          (t.block b).shared = shiftBytes img g.launch.sh g.launch.sharedBytes 0 [] ∧
          ∀ i sl, i < g.launch.threads → (Claim.slotsOn s g.launch core)[i / 32]? = some sl →
            let off := g.launch.grpAt (i / 32)
            let bits := imgAt img (off + 0x300 + 48 * (i % 32) + 0x20) 4
            bitsNat bits 18 16 = 0 → bitNat bits 19 = false → bitNat bits 20 = false →
              Claim.FromImage (t.thread (tKey (gKey core sl) (i % 32))) img off (i % 32)) ∧
      (∀ l d cores, m.saved = true → placeOf s i = some (l, d, cores) →
        let u := restoreUnit s l d cores
        (∀ x ∈ l, x ∉ u.saved) → (∀ y ∈ u.saved, ∀ x ∈ l, ¬(x.gid = y.gid ∧ x.num = y.num)) →
        (u.grid m.gid).stage ≠ .killed →
        ∃ t, exec (.migrationPlace n) s = .next t ∧ m ∉ t.migrations ∧ Claim.SameButTries u t ∧ t.groups = u.groups ∧
          t.saved = u.saved))) ∧
  (∀ (s : State) (b : Nat),
    let u := settleHolds s
    ((∀ m ∈ u.migrations, b ∉ m.blks) → exec (.migrationDeadline b) s = .next u) ∧
    (∀ m, u.migrations.find? (fun m => m.blks.contains b) = some m →
      let late := ∃ k ∈ m.blks.flatMap u.liveOfBlock, (u.thread k).halt = .none
      ((¬late ∨ unitRecords u m.blks ≠ []) → exec (.migrationDeadline b) s = .next u) ∧
      (late → unitRecords u m.blks = [] → m.trapped = [] → ∃ t, exec (.migrationDeadline b) s = .next t ∧
        m ∉ t.migrations ∧
        ((u.grid m.gid).hold = .none → ∀ k ∈ m.blks.flatMap u.liveOfBlock, (t.thread k).halt = .none) ∧
        let p := u.host.prectl
        (¬(p.go = true ∧ p.gid = m.gid ∧ (p.pop = 1 ∨ p.pop = 2)) → Claim.GivenUp t m.blks) ∧
        (p.go = true → p.gid = m.gid → (p.pop = 1 ∨ p.pop = 2) → ∀ c ∈ m.blks, (tabGet u.blocks c).isSome →
          (t.block c).saving = some { kind := 0, held := decide (p.pop = 2) }))))

/-- R179, R180: in an allocation deadlock the youngest block of the core, with its cluster, is evicted: a save of kind 1 is asked
of it and its threads stop; a block that is alone on the core takes the allocation trap; without a deadlock nothing happens. -/
def Claims.AllocationDeadlocks : Prop :=
  ∀ (s : State) (core : Nat),
    (allocationStuck s core = false → exec (.allocationDeadlock core) s = .next s) ∧
    (∀ b, allocationStuck s core = true → youngest s core = some b →
      ((blocksOnCore s core).length ≠ 1 → (∀ c ∈ unitBlocks s b, (s.block c).saving = none ∧ (tabGet s.blocks c).isSome) →
        ∃ t, exec (.allocationDeadlock core) s = .next t ∧ t.mem = s.mem ∧
          ∀ c ∈ unitBlocks s b, (t.block c).saving = some { kind := 1 } ∧ ∀ k ∈ s.liveOfBlock c, (t.thread k).halt ≠ .none) ∧
      (∀ g k ks, blocksOnCore s core = [b] → s.groupsOf b = [g] → (s.liveOf g).filter (stalledNow s) = k :: ks →
        exec (.allocationDeadlock core) s = .next (groupTrap s g (k :: ks) 0x000C false (s.thread k).pc 0
          [wordAtPc s b (s.thread k).pc, BitVec.ofNat 64 (s.group g).rows.length, BitVec.ofNat 64 (s.regMaxOf g)])))

/-! ## The device over its lifetime -/

namespace Sys2Proof.Machine.Claim

/-- A layer has been mapped out of the top slot (R461): the nibbles of its slot and of the top slot are swapped, the capacity is
one slot less, the layer's bit of LAYOFF is set, and the map-out is over. -/
structure MappedOut (x y : Stack) (l : BitVec 4) (poisoned : Bool) : Prop where
  cap : y.cap = x.cap - 1
  layOff : y.layOff = x.layOff ||| 1#16 <<< l.toNat
  go : y.moGo = false
  stat : y.moStat = if poisoned then 4 else 0
  top : y.laymap.getD (x.cap - 1) 0 = l.toNat
  slot : slotOfLayer x l.toNat ≠ x.cap - 1 → y.laymap.getD (slotOfLayer x l.toNat) 0 = x.laymap.getD (x.cap - 1) 0
  others : ∀ i, i ≠ x.cap - 1 → i ≠ slotOfLayer x l.toNat → y.laymap.getD i 0 = x.laymap.getD i 0

/-- A die's self-test has passed its shared units (R458): the die is in service with the cores that passed. -/
def InService (t : State) (d : Nat) (failed : BitVec 40) : Prop :=
  (t.die d).off = false ∧ (t.die d).st = 1 ∧
    ∀ c < 40, (t.die d).coreOff.getLsbD c = (failed.getLsbD c && decide (c < Config.coresOf d))

/-- The vaults of a die read as zero (R458, R470). -/
def VaultsZero (t : State) (d : Nat) : Prop :=
  ∀ a, vaultAddr (Config.globalCore d 0) 0 ≤ a → a < vaultAddr (Config.globalCore d 0 + Config.coresOf d) 0 →
    byteAt t.mem a = 0

end Sys2Proof.Machine.Claim

/-- R32 to R35, R466: in full service an interval sets each die's clock, within its ceiling, and GOVEST (saturating: log 72); at
or below 2,850 W a cool die rises a step, above 3,000 W it falls by the common fraction (log 33), not below 1,100 MHz; over
3,300 W every die falls to 1,100 MHz; refresh and calibration change nothing. -/
def Claims.ClocksAndBackground : Prop :=
  ∀ (s : State) (watts : Nat), s.mgmt.legal = true →
    (∃ t, exec (.governorInterval watts) s = .next t ∧ t.mem = s.mem ∧ t.threads = s.threads ∧
      t.mgmt.govEst = BitVec.ofNat 16 (min watts 65535) ∧
      ∀ d < 8, let x := s.die d
        let y := t.die d
        (s.mgmt.devState ≠ .full → y = x) ∧
        (s.mgmt.devState = .full → y.clkNow ≤ x.clkCeil ∧ y.clkCeil = x.clkCeil ∧ y.off = x.off ∧
          (x.hot = false → x.tj.toNat < 105 → x.clkNow ≤ x.clkCeil →
            (watts ≤ 2850 → y.clkNow = min (if x.clkNow < x.clkCeil then x.clkNow + 50 else x.clkNow) x.clkCeil) ∧
            (2850 < watts → watts ≤ 3000 → y.clkNow = x.clkNow) ∧
            (3000 < watts → 1100 ≤ x.clkNow → y.clkNow ≤ max 1100 (x.clkNow * 3000 / watts) ∧
              x.clkNow * 3000 / watts < y.clkNow + 50)))) ∧
    (watts ≤ 3300 → exec (.supplyOverpower watts) s = .next s) ∧
    (3300 < watts → ∃ t, exec (.supplyOverpower watts) s = .next t ∧ t.threads = s.threads ∧
      ∀ d < 8, t.die d = { s.die d with clkNow := 1100 }) ∧
    (∀ d (tj : BitVec 8), (8 ≤ d → exec (.telemetrySample d tj) s = .fault .noSuchUnit) ∧
      (d < 8 → ∃ t, exec (.telemetrySample d tj) s = .next t ∧ t.die d = { s.die d with tj := tj } ∧ t.mem = s.mem ∧
        ∀ e, e ≠ d → t.die e = s.die e)) ∧
    exec .refreshManagement s = .next s ∧ exec .phyCalibration s = .next s

/-- R457, R458: a watchdog stops its die and kills every grid with a block there; RESET starts the self-test of a die out of
service or without blocks (not in state 3: log 57); the test's end brings it back with the cores that passed and vaults zero, or
leaves it out. -/
def Claims.DieService : Prop :=
  ∀ (s : State) (d : Nat), s.mgmt.legal = true →
    (∀ unit core, ((8 ≤ d ∨ 6 < unit) → exec (.watchdogFire d unit core) s = .fault .noSuchUnit) ∧
      (d < 8 → unit ≤ 6 → (s.die d).off = true → exec (.watchdogFire d unit core) s = .next s) ∧
      (d < 8 → unit ≤ 6 → (s.die d).off = false → ∃ t, exec (.watchdogFire d unit core) s = .next t ∧
        (t.die d).off = true ∧ (t.die d).st = 2 ∧
        ∀ e ∈ s.blocks, Config.dieOfCore (coreOfB e.1) = d →
          ∀ g, tabGet t.grids e.2.gid = some g → g.stage = .killed)) ∧
    (8 ≤ d → exec (.dieReset d) s = .fault .noSuchUnit ∧ ∀ f u, exec (.selfTestEnd d f u) s = .fault .noSuchUnit) ∧
    (d < 8 →
      (s.mgmt.devState ≠ .failed → ((s.die d).off = true ∨ gridsOnDie s d = []) →
        exec (.dieReset d) s = .next (s.setDie d { s.die d with off := true, st := 0 })) ∧
      ((s.mgmt.devState = .failed ∨ (s.die d).off = false ∧ gridsOnDie s d ≠ []) → exec (.dieReset d) s = .next s) ∧
      (∀ f u, ((s.die d).off = false ∨ (s.die d).st ≠ 0) → exec (.selfTestEnd d f u) s = .next s) ∧
      (∀ f, (s.die d).off = true → (s.die d).st = 0 →
        (∃ t, exec (.selfTestEnd d f none) s = .next t ∧ Claim.InService t d f ∧ Claim.VaultsZero t d) ∧
        ∀ u, ∃ t, exec (.selfTestEnd d f (some u)) s = .next t ∧ (t.die d).off = true ∧ (t.die d).st = 2))

/-- R459, R460, R461: a map-out is refused with MOSTAT 1, 2 or 3, or copies frame after frame and ends with the last. Model's
choices: the refusals in this order and no copy for the top slot (log 36), none in state 3 (log 57). -/
def Claims.LayerMapOut : Prop :=
  ∀ (s : State) (n : Nat), s.mgmt.legal = true →
    (12 ≤ n → exec (.mogo n) s = .fault .noSuchUnit ∧ exec (.mapoutFrameCopy n) s = .fault .noSuchUnit) ∧
    (n < 12 →
      let x := s.stack n
      let l := x.moLayer
      let owned := x.cap ≠ 0 ∧ (layerOwned s n l.toNat = true ∨ layerOwned s n (x.laymap.getD (x.cap - 1) 0) = true)
      let may := s.mgmt.devState ≠ .failed ∧ x.moGo = false
      ((s.mgmt.devState = .failed ∨ x.moGo = true) → exec (.mogo n) s = .next s) ∧
      (may → x.layOff.getLsbD l.toNat = true → exec (.mogo n) s = .next (s.setStack n { x with moStat := 1 })) ∧
      (may → x.layOff.getLsbD l.toNat = false → owned → exec (.mogo n) s = .next (s.setStack n { x with moStat := 2 })) ∧
      (may → x.layOff.getLsbD l.toNat = false → ¬owned → x.cap ≤ 8 →
        exec (.mogo n) s = .next (s.setStack n { x with moStat := 3 })) ∧
      (may → x.layOff.getLsbD l.toNat = false → ¬owned → 8 < x.cap → x.cap ≤ 16 →
        x.laymap.length = 16 → slotOfLayer x l.toNat < 16 → ∃ t, exec (.mogo n) s = .next t ∧ t.threads = s.threads ∧
          (∀ m, m ≠ n → t.stack m = s.stack m) ∧
          (slotOfLayer x l.toNat = x.cap - 1 → Claim.MappedOut x (t.stack n) l false) ∧
          (slotOfLayer x l.toNat ≠ x.cap - 1 →
            t.stack n = { x with moGo := true, moOut := l, moFrame := 0, moPoison := false })) ∧
      (x.moGo = false → exec (.mapoutFrameCopy n) s = .next s) ∧
      (x.moGo = true → s.weak = [] → 0 < x.cap → x.cap ≤ 16 → x.laymap.length = 16 → slotOfLayer x x.moOut.toNat < 16 →
        ∃ t, exec (.mapoutFrameCopy n) s = .next t ∧ t.threads = s.threads ∧ (∀ m, m ≠ n → t.stack m = s.stack m) ∧
          let bad := (poisonAt s (n * 2 ^ 36 + slotOfLayer x x.moOut.toNat * 2 ^ 32 + x.moFrame * 2 ^ 21) (2 ^ 21)).isSome
          (x.moFrame + 1 < 2048 → (bad = false → t.mem = s.mem) ∧
            t.stack n = { x with moFrame := x.moFrame + 1, moPoison := x.moPoison || bad }) ∧
          (2047 ≤ x.moFrame → Claim.MappedOut x (t.stack n) x.moOut (x.moPoison || bad))))

/-- R462 to R465: SCRUBCTL keeps its period for a value not from 1 to 48; a patrol corrects every correctable error of HBM, a
hot-row scrub those of hot rows; scores halve; a due row leaves the hot list for a spare. Model's: one pass, first due row
first (log 36), no SCRUBCTL in state 3 (log 57). -/
def Claims.ScrubAndRetirement : Prop :=
  ∀ s : State,
    (s.mgmt.devState = .failed → ∀ v, exec (.scrubctlWrite v) s = .next s) ∧
    (s.mgmt.devState ≠ .failed → ∀ v : BitVec 32, ∃ t, exec (.scrubctlWrite v) s = .next t ∧ t.mem = s.mem ∧
      t.threads = s.threads ∧
      t.mgmt.scrub.en = v.getLsbD 0 ∧ t.mgmt.scrub.rthr = (v >>> 16).setWidth 8 ∧
      t.mgmt.scrub.period = (if 1 ≤ v.toNat / 256 % 256 ∧ v.toNat / 256 % 256 ≤ 48 then v.toNat / 256 % 256
        else s.mgmt.scrub.period)) ∧
    (scrubRuns s = false → exec .patrolScrub s = .next s ∧ exec .hotRowScrub s = .next s) ∧
    (scrubRuns s = true →
      (∃ t, exec .patrolScrub s = .next t ∧ t.threads = s.threads ∧
        t.weak = s.weak.filter fun g => physRegion s.mgmt g != .hbm) ∧
      (∃ t, exec .hotRowScrub s = .next t ∧ t.threads = s.threads ∧ t.weak = s.weak.filter fun g => !inHotRow s g)) ∧
    (∃ t, exec .scoreHalving s = .next t ∧ t.mem = s.mem ∧ t.threads = s.threads ∧
      ∀ n, (t.stack n).hot = (s.stack n).hot.map fun e => (e.1, e.2 / 2)) ∧
    ((s.mgmt.devState ≠ .full ∨ ∀ n < 12, rowsDue s n = []) → exec .rowRetire s = .next s) ∧
    (∀ n r rest, s.mgmt.devState = .full → s.mgmt.legal = true → n < 12 → (∀ m < n, rowsDue s m = []) →
      rowsDue s n = r :: rest → s.weak = [] → ∃ t, exec .rowRetire s = .next t ∧ t.threads = s.threads ∧
        (∀ e ∈ (t.stack n).hot, e.1 ≠ r) ∧
        tabGetD (t.stack n).spares (bankOfRow s r) 0 = tabGetD (s.stack n).spares (bankOfRow s r) 0 + 1 ∧
        ∀ m, m ≠ n → t.stack m = s.stack m)

/-- R470 to R473: a device reset returns queues, host registers, grids and stacks to their reset values, and empties memory (the
model's choice, log 1); a firmware stage whose signature or security version fails gives state 3; bring-up brings the CD6 dies
into service with vaults zero; full service gives trained stacks 16 slots, starts the CD7 dies that passed and stops no work. -/
def Claims.BringUp : Prop :=
  ∀ s : State,
    (∃ t, exec .deviceReset s = .next t ∧ t.mem = [] ∧ t.threads = [] ∧ t.groups = [] ∧ t.blocks = [] ∧ t.grids = [] ∧
      t.queues = [] ∧ t.host = State.reset.host ∧ t.mgmt.dies = State.reset.mgmt.dies ∧ t.mgmt.hbm = State.reset.mgmt.hbm ∧
      t.mgmt.devState = (if Config.firmwareAccepted s.mgmt.boots = true then .reset else .failed)) ∧
    (∀ n, Config.firmwareAccepted n = true ↔ ∀ k < Config.firmwareStages,
      Config.signatureValid (Config.sha3 (Config.firmwareImage n k)) (Config.firmwareSignature n k) = true ∧
        Config.fusedVersion ≤ Config.firmwareVersion n k) ∧
    ((s.mgmt.devState ≠ .reset ∨ s.mgmt.boots = 0) → ∀ l, exec (.bringUpStart l) s = .next s) ∧
    (s.mgmt.devState = .reset → s.mgmt.boots ≠ 0 → s.mgmt.legal = true →
      (∃ t, exec (.bringUpStart []) s = .next t ∧ t.mgmt.devState = .bringUp ∧
        ∀ d ∈ [6, 7], Claim.InService t d 0 ∧ Claim.VaultsZero t d) ∧
      ∀ l, ∃ t, exec (.bringUpStart l) s = .next t ∧ t.mgmt.devState = .bringUp ∧
        ∀ d ∈ [6, 7], ∀ f, testOf l d = (f, none) → Claim.InService t d f) ∧
    (s.mgmt.devState ≠ .bringUp → ∀ b l, exec (.fullService b l) s = .next s) ∧
    (s.mgmt.devState = .bringUp → s.mgmt.legal = true → ∀ (b : BitVec 12) l, ∃ t, exec (.fullService b l) s = .next t ∧
      t.mgmt.devState = .full ∧ t.threads = s.threads ∧ t.blocks = s.blocks ∧
      (∀ n < 12, t.stack n = if b.getLsbD n then { s.stack n with cap := 16, layOff := 0 } else s.stack n) ∧
      ∀ d < 6, (s.die d).st = 0 → ∀ f, testOf l d = (f, none) → Claim.InService t d f)

/-- R474: AGO signs the digest of nonce, MEAS, serial number and DEVSTATE (4 bytes: log 38), or sets AERR for a nonce of zero;
the signature's end clears ANONCE and AGO; meanwhile a second AGO does nothing. -/
def Claims.Attestation : Prop :=
  ∀ s : State,
    let x := s.mgmt.attest
    let put := fun y => { s with mgmt := { s.mgmt with attest := y } }
    (x.go = true → exec .attestSign s = .next s) ∧
    (x.go = false → x.nonce = 0 → exec .attestSign s = .next (put { x with err := true })) ∧
    (x.go = false → x.nonce ≠ 0 → exec .attestSign s = .next (put { x with
      go := true, err := false
      digest := Config.sha3 (bytesOf 32 x.nonce.toNat ++ bytesOf 32 x.meas.toNat ++ bytesOf 16 Config.serialNumber.toNat ++
        bytesOf 4 s.mgmt.devState.code) })) ∧
    (x.go = true → exec .attestSignDone s = .next (put { x with go := false, nonce := 0, sig := some x.digest })) ∧
    (x.go = false → exec .attestSignDone s = .next s)

/-- R467, R469: EVRD gives every enabled lane one half of one counter's value, read once for the bundle; 0 where USR is 0; a
number of 16 or above without .die is illegal. That the value is the one at issue, and that
a count of a timed source is a free value, are the model's choices (log 37). -/
def Claims.CounterReads : Prop :=
  ∀ (s : State) (d : BitVec 7) (w h e : BitVec 1) (n : BitVec 6), Runs s .base → NoBlk s → NoLit s → DstOk s d w false →
    let key := evrdKey (coreOfG s.leadGroup) (decide (e = 1)) n.toNat
    ((e = 1 ∨ n.toNat < 16) → ∃ t, exec (.evrd d w h e n) s = .next t ∧ Quiet s t ∧
      Completed { s with fresh := t.fresh } t (dstRegs d w false) [] ∧
      Gives s t d w fun _ => if (tabGetD s.counters key {}).usr = true
        then (if h = 1 then counterNow s key >>> 32 else counterNow s key).setWidth 32 else 0) ∧
    (e = 0 → 16 ≤ n.toNat → exec (.evrd d w h e n) s = .next (illegal s s.members 3))

/-! ## Words, steps, reset, invariants -/

/-- R135 to R147: words that the spec writes out, each with its instruction: an array load, the hints, integer forms, a compare,
uniform-stream words, a fused multiply-add, atomics, fences and barriers, tiles, matrix, attention and near-bank words, an event
counter's read, and the end of a thread. -/
def Obligations.WordsOfTheSpec : Prop :=
  decode 0x84060211 = .ok (.ld32 3 0 2 1 1) ∧ decode 0xE2080000 = .ok (.grd 2 0 0) ∧ decode 0xE0000003 = .ok (.lit 3) ∧
  decode 0x030103E8 = .ok (.addI32Imm 0 1 3 0xE8) ∧ decode 0x3B086002 = .ok (.shrI32Imm 4 0 96 2) ∧
  decode 0x3D070401 = .ok (.cmpI32Imm 1 3 4 1) ∧ decode 0x53088501 = .ok (.ugetAdd 2 0x85 0) ∧
  decode 0x540C2043 = .ok (.ucmpGeI64 3 2 1 0) ∧ decode 0x490C0009 = .ok (.bru 3 0 9) ∧
  decode 0x63503034 = .ok (.fmaF32 40 0 48 52) ∧ decode 0xE10C0800 = .ok (.blk 0 3 0 1 0 0) ∧
  decode 0xC1108821 = .ok (.atom64 8 2 1 2 1) ∧ decode 0xC6000003 = .ok (.fence 3) ∧
  decode 0xC7000000 = .ok (.waitCopy 0) ∧ decode 0xBC00C07E = .ok (.bar 3 0x7E) ∧
  decode 0x9C0C0300 = .ok (.ldt 6 0 3 0 0) ∧ decode 0x97007F00 = .ok (.trel 0) ∧
  decode 0xA0010026 = .ok (.mma 1 0 0 1 0 0 1 2) ∧ decode 0xAC140608 = .ok (.osm 20 6 8) ∧
  decode 0xB60069E1 = .ok (.nbmac 0 0 0x69 1 1 1 1) ∧ decode 0xD50A7F02 = .ok (.evrd 5 0 0 0 2) ∧
  decode 0x4F000000 = .ok .exit

namespace Sys2Proof.Machine.Claim

/-- The instruction that an agent executes at a position (R135, R149): the decoded word; a word that is none, or a fetch that
faults, is the operation that raises its trap. -/
def Chosen (s : State) (b : Nat) (pc : DWord) (j : Instr) : Prop :=
  (∀ w, fetchWord s b pc = .ok w → (decode w = .ok j ∨ (∀ k, decode w ≠ .ok k) ∧ j = .illegalInstructionWord w)) ∧
    ∀ r, fetchWord s b pc = .error r → r ≠ poisonReason ∧ j = .fetchFault

/-- The state in which a turn acts: what happens between the turns has happened, and the turn is taken from the list. -/
def turnOf (s : State) (ts : List Turn) : State := { betweenTurns s with turns := ts }

end Sys2Proof.Machine.Claim

/-- R135, R149, R150, R170: a picker's turn runs the decoded word of the first bundle that its core offers among the ready threads,
with that bundle as the issue, whenever it moves some member and has room, and takes its members from the pickers after it; a
word that does not decode or cannot be fetched runs the operation that raises its trap. Only the restart mark of a thread whose
group has trapped may then still be set (R407). Turns are the model's own (log 4), and so is that four picker turns of a core make
one of its cycles (log 39). -/
def Claims.PickedWordsRun : Prop :=
  ∀ (s : State) (c : Nat) (ts : List Turn), s.turns = .pick c :: ts →
    let s1 := Claim.turnOf s ts
    (Config.cores ≤ c → step s = .fault .noSuchUnit) ∧
    (c < Config.cores → coreServes s1 c = false → step s = .next s1) ∧
    (c < Config.cores → coreServes s1 c = true →
      let s2 := findReady s1 c
      ∀ (i0 : Issue) (is : List Issue) (rest : List (List Issue)), candidateIssues s2 c = (i0 :: is) :: rest →
        let i := withBreaks s2 c i0
        let b := bKey i.core i.ctx
        let s3 := prepare s2 i
        ∀ j, Claim.Chosen s3 b i.pc j → ∀ t, exec j { s3 with issue := withWord s3 b i } = .next t →
          progressed s3 t i = true → roomFor s2 t i = true →
          ∃ u, step s = .next u ∧ u.groups = t.groups ∧ u.blocks = t.blocks ∧ u.mem = t.mem ∧ u.records = t.records ∧
            (∀ k, { u.thread k with restart := false } = { t.thread k with restart := false }) ∧
            ((∀ k ∈ i.members, t.stopped (grpOf k) = true → s2.stopped (grpOf k) = true) → u.threads = t.threads) ∧
            let x := t.core c
            u.core c = if x.picks = 3 then { x with cycle := x.cycle + 1, picks := 0, taken := [] }
              else { x with picks := x.picks + 1, taken := x.taken ++ i.members })

/-- R135, R173, R416: a Lectern's turn, where it may execute, runs the decoded word at its position, and a handler context's turn
that of its thread; where it may not, and on a turn of the device, nothing else runs than what the turn names. Turns are the
model's own (log 4). -/
def Claims.LecternAndDeviceTurns : Prop :=
  ∀ (s : State) (ts : List Turn),
    let s1 := Claim.turnOf s ts
    (∀ c ctx, s.turns = .lectern c ctx :: ts → (Config.cores ≤ c ∨ 16 ≤ ctx) → step s = .fault .noSuchUnit) ∧
    (∀ c ctx, s.turns = .lectern c ctx :: ts → c < Config.cores → ctx < 16 →
      ((lectReady s1 (bKey c ctx) = false ∨ coreServes s1 c = false) → step s = .next s1) ∧
      (lectReady s1 (bKey c ctx) = true → coreServes s1 c = true →
        let i := lectIssue s1 c ctx
        let s2 := fetched s1 (bKey c ctx) i.pc
        ∀ j, Claim.Chosen s2 (bKey c ctx) i.pc j →
          step s = exec j { s2 with issue := withWord s2 (bKey c ctx) i })) ∧
    (∀ c, s.turns = .handler c :: ts → c < Config.cores →
      (handlerIssue s1 c = none → step s = .next s1) ∧
      (∀ i, handlerIssue s1 c = some i →
        let b := bKey i.core i.ctx
        let s2 := prepare s1 i
        ∀ j, Claim.Chosen s2 b i.pc j → ∀ t, exec j { s2 with issue := withWord s2 b i } = .next t →
          progressed s2 t i = true → roomFor s1 t i = true →
          ∃ u, step s = .next u ∧ { u with counters := [] } = { t with counters := [] })) ∧
    (∀ i, s.turns = .device i :: ts → (encode i).isNone →
      (∀ w, i ≠ .illegalInstructionWord w) → i ≠ .fetchFault → step s = exec i (forDevice s1 i)) ∧
    (∀ i, s.turns = .device i :: ts → ((encode i).isSome ∨ (∃ w, i = .illegalInstructionWord w) ∨ i = .fetchFault) →
      step s = .next s1)

namespace Sys2Proof.Machine.Claim

/-- What the control BAR's registers of the host interface read at reset (R25, R27, R122, R134, R415, R423, R467). -/
structure ResetHost (s : State) : Prop where
  spaces : ∀ o < 0x800, regRead s (0x800000 + o) = 0
  prectl : ∀ o < 0x10, regRead s (0x900000 + o) = 0
  frames : ∀ o < 0x180, regRead s (0xA00000 + o) = 0
  plctl : regRead s 0xA00180 = 0x10004040
  ring : ∀ o < 0x1C, regRead s (0xB00000 + o) = 0
  apBase : regRead s 0xB00104 = 0x100
  govEst : regRead s 0xB00108 = 0
  owners : ∀ o < 0xC00, regRead s (0xC00000 + o) = 0
  coreCounters : ∀ o < 0x13000, regRead s (0xD00000 + o) = 0
  dieCounters : ∀ o < 0x2000, regRead s (0xD40000 + o) = 0
  tract : ∀ d < 8, ∀ o < 0x18, regRead s (0x1002000 + 0x100000 * d + o) = 0
  queues : ∀ d < 8, ∀ o < 0x1000, regRead s (0x1000000 + 0x100000 * d + o) = if o % 0x40 = 0x18 then 2 else 0
  queueSpaces : ∀ d < 8, ∀ o < 0x100, regRead s (0x1001000 + 0x100000 * d + o) = 0

/-- What the registers of the device, its dies and its stacks read at reset (R26, R458, R459, R465, R470, R474). -/
structure ResetDevice (s : State) : Prop where
  layers : ∀ n < 12, regRead s (0xE00000 + 0x40 * n) = 0x76543210 ∧ regRead s (0xE00004 + 0x40 * n) = 0xFEDCBA98
  mapouts : ∀ n < 12, ∀ o, 8 ≤ o → o < 0x40 → regRead s (0xE00000 + 0x40 * n + o) = 0
  devState : regRead s 0xE00300 = 0
  scrubctl : regRead s 0xE00400 = 0x00400C01
  status : ∀ o < 0x200, regRead s (0xE00800 + o) = 0
  attest : ∀ o < 0x1000, regRead s (0xF00000 + o) = 0
  ceiling : ∀ d < 8, regRead s (0x1003010 + 0x100000 * d) = 3300
  clock : ∀ d < 8, regRead s (0x1003014 + 0x100000 * d) = 1100
  junction : ∀ d < 8, regRead s (0x1003018 + 0x100000 * d) = 0
  generation : ∀ d < 8, (regRead s (0x1003000 + 0x100000 * d)).setWidth 16 = if d < 6 then 0x0707#16 else 0x0806#16

end Sys2Proof.Machine.Claim

/-- R25, R26, R27, R95, R122, R134, R415, R423, R458, R459, R465, R467, R470, R474: every register of the control BAR reads at
reset as its table says: queues empty and not enabled, address spaces, TRACT, PRECTL, the event ring, the frame lists, the
owners, the event counters and the attestation registers zero; every die at 1,100 MHz with a ceiling of 3,300 MHz and in
self-test; every stack without capacity and with its layers in order; the scrub on with period 12 and threshold 64; DEVSTATE 0;
and there is no grid, block, thread, record or saved unit. -/
def Obligations.ResetState : Prop :=
  State.reset.wf ∧ State.reset.mgmt.devState = .reset ∧ Claim.ResetHost State.reset ∧ Claim.ResetDevice State.reset ∧
    (∀ d < 8, (State.reset.die d).off = false ∧ (State.reset.die d).st = 0 ∧ (State.reset.die d).coreOff = 0) ∧
    (∀ n < 12, (State.reset.stack n).laymap = List.range 16) ∧
    State.reset.mgmt.scrub = { en := true, period := 12, rthr := 64 } ∧ State.reset.mgmt.placer.en = false ∧
    State.reset.grids = [] ∧ State.reset.blocks = [] ∧ State.reset.groups = [] ∧ State.reset.threads = [] ∧
    State.reset.records = [] ∧ State.reset.saved = []

/-- R13, R20, R465: every step from a state whose memory is in canonical form and whose package has its eight dies, its twelve
stacks and a scrub period from 1 to 48 leaves a state of this kind. -/
def Obligations.StepsKeepTheStateInOrder : Prop := ∀ s t : State, s.wf → step s = .next t → t.wf

/-! ## Bytes that commands move -/

namespace Sys2Proof.Machine.Claim

/-- No table entry that the translation of an address reads is written to by `dest`, and no TLB holds another translation than
the tables. -/
def Steady (s : State) (asid : BitVec 6) (va : DWord) (dest : Nat → Prop) : Prop :=
  (∀ l, cached s asid va.toNat = some l → walkTables s asid va.toNat = .ok l) ∧
  ∀ p ∈ slotsFrom s.mgmt s.mem va.toNat (rootTable s asid) walkShifts, ∀ a, dest a → a < p ∨ p + 8 ≤ a

/-- The virtual address of byte j of row i of a box (R287). -/
def boxByte (t : Tensor) (disp : DWord) (i j : Nat) : Option DWord :=
  (t.segs disp i).findSome? fun g => if g.off ≤ j ∧ j < g.off + g.len then some (g.addr + BitVec.ofNat 64 (j - g.off)) else none

/-- Rows of a box that move: none where an extent is zero (R49, R287). -/
def boxRows (t : Tensor) : Nat := if t.empty then 0 else t.rows

/-- Byte j of row i of the box of `t` displaced by `disp` lies at physical address `loc i j`, whatever is written to `dest`; the pieces
of a row make up its w bytes in their order. -/
def BoxAt (s : State) (asid : BitVec 6) (acc : Access) (t : Tensor) (disp : DWord) (w : Nat) (loc : Nat → Nat → Nat)
    (dest : Nat → Prop) : Prop :=
  ∀ i < boxRows t, (∀ g ∈ t.segs disp i, g.off + g.len ≤ w) ∧
    (t.segs disp i).Pairwise (fun g h => g.off + g.len ≤ h.off) ∧
    ∀ j < w, ∃ va, boxByte t disp i j = some va ∧ translate s asid va acc = .ok (loc i j) ∧ Steady s asid va dest

/-- Of n rows of w bytes, byte j of row i has landed at `loc i j`, a later row standing where two meet (R286, R287); every other
byte is unchanged. -/
def Arrived (m m' : Bytes) (n w : Nat) (loc : Nat → Nat → Nat) (val : Nat → Nat → Byte) : Prop :=
  (∀ i < n, ∀ j < w, (∀ r < n, i < r → ∀ c < w, loc r c ≠ loc i j) → byteAt m' (loc i j) = val i j) ∧
  ∀ a, (∀ i < n, ∀ j < w, loc i j ≠ a) → byteAt m' a = byteAt m a

/-- The physical addresses that rows write. -/
def among (n w : Nat) (loc : Nat → Nat → Nat) (a : Nat) : Prop := ∃ i < n, ∃ j < w, loc i j = a

/-- `n` bytes at an offset of a tile's region. -/
def held (s : State) (b : Nat) (t : Tile) (o n : Nat) : Nat :=
  if t.vault then bytesAt s.mem (vaultAddr (coreOfB b) (t.start + o)) n else bytesAt (s.block b).shared (t.start + o) n

/-- Only the first n bytes of a tile's region have changed, in all memory and shared memory. -/
structure OnlyTile (s u : State) (b : Nat) (t : Tile) (n : Nat) : Prop where
  mem : ∀ a, (t.vault = true → a < vaultAddr (coreOfB b) t.start ∨ vaultAddr (coreOfB b) t.start + n ≤ a) →
    byteAt u.mem a = byteAt s.mem a
  shared : ∀ x a, (t.vault = false → x = b → a < t.start ∨ t.start + n ≤ a) →
    byteAt (u.block x).shared a = byteAt (s.block x).shared a

/-- A block with no poisoned, weak or unspecified byte about, its stores canonical. -/
structure Sound (s : State) (b : Nat) : Prop where
  stores : StoresWf s
  marks : s.poison = [] ∧ s.weak = [] ∧ s.released = []
  block : (tabGet s.blocks b).isSome

end Sys2Proof.Machine.Claim

/-- R286, R287, R289 to R293: what COPY, COPYM, MCAST, a drain and a fill move: the source box's rows, or the tile's packed rows, byte
for byte to the destination box, to the tile of every rank, or to the tile; no other byte of memory or of shared memory
changes. -/
def Claims.BoxMovements : Prop :=
  ∀ (s : State) (b : Nat) (c : Cmd) (t : Tensor), Claim.Sound s b → tensorAt s b c.src = some t →
    let asid := s.asidOf b
    let n := Claim.boxRows t
    let tile := s.tile b c.dst
    let packed := fun (x : Tile) i j => x.start + t.rb * i + j
    let inVault := fun i j => vaultAddr (coreOfB b) (packed tile i j)
    let sameShared := fun u : State => ∀ x, (u.block x).shared = (s.block x).shared
    (∀ (d : Tensor) (src dst : Nat → Nat → Nat), nextMove s b = some c → c.kind = .copy ∨ c.kind = .copym →
      tensorAt s b c.dst = some d → Claim.boxRows d = n →
      Claim.BoxAt s asid .copyRead t c.d0 t.rb src (Claim.among n t.rb dst) →
      Claim.BoxAt s asid .copyWrite d c.d1 t.rb dst (Claim.among n t.rb dst) →
      (∀ i < n, ∀ j < t.rb, ∀ k < t.rb, dst i j = dst i k → j = k) →
      (∀ i < n, ∀ j < t.rb, ¬Claim.among n t.rb dst (src i j)) →
      ∃ u, exec (.copyCommandComplete b) s = .next u ∧
        Claim.Arrived s.mem u.mem n t.rb dst (fun i j => byteAt s.mem (src i j)) ∧ sameShared u) ∧
    (∀ src : Nat → Nat → Nat, nextMove s b = some c → c.kind = .mcast →
      Claim.BoxAt s asid .copyRead t c.d0 t.rb src (fun _ => False) →
      let ranks := (List.range (ranksOf s b)).filterMap (rankBlock s b)
      (∀ x ∈ ranks, (s.tile x c.dst).vault = false ∧ (tabGet s.blocks x).isSome) →
      ∃ u, exec (.copyCommandComplete b) s = .next u ∧ u.mem = s.mem ∧
        (∀ x ∈ ranks, Claim.Arrived (s.block x).shared (u.block x).shared n t.rb (packed (s.tile x c.dst))
          fun i j => byteAt s.mem (src i j)) ∧
        ∀ x, x ∉ ranks → (u.block x).shared = (s.block x).shared) ∧
    (∀ dst : Nat → Nat → Nat, tileMove s b c.dst .drain = some c →
      Claim.BoxAt s asid .copyWrite t c.d0 t.rb dst (Claim.among n t.rb dst) →
      (∀ i < n, ∀ j < t.rb, ∀ k < t.rb, dst i j = dst i k → j = k) →
      (tile.vault = true → ∀ i < n, ∀ j < t.rb, ¬Claim.among n t.rb dst (inVault i j)) →
      ∃ u, exec (.tileDrainDone b c.dst) s = .next u ∧ (u.tile b c.dst).state = .empty ∧ sameShared u ∧
        Claim.Arrived s.mem u.mem n t.rb dst fun i j =>
          if tile.vault then byteAt s.mem (inVault i j) else byteAt (s.block b).shared (packed tile i j)) ∧
    (∀ src : Nat → Nat → Nat, tileMove s b c.dst .fill = some c → tile.vault = true →
      Claim.BoxAt s asid .copyRead t c.d0 t.rb src (Claim.among n t.rb inVault) →
      (∀ i < n, ∀ j < t.rb, ¬Claim.among n t.rb inVault (src i j)) →
      ∃ u, exec (.tileFillLanded b c.dst) s = .next u ∧ (u.tile b c.dst).state = .ready ∧ sameShared u ∧
        Claim.Arrived s.mem u.mem n t.rb inVault fun i j => byteAt s.mem (src i j))

/-- R269, R288, R409: a copy whose first row lies at an address that does not translate moves nothing: it is the block trap of CODE
0x0020 at the command, resumable, with that address, the reason and the tensor; the command has failed, and a fill's tile is
empty. -/
def Claims.FaultingMovements : Prop :=
  ∀ (s : State) (b : Nat) (c : Cmd) (t : Tensor) (g : Seg) (r : Nat), Claim.Sound s b → nextMove s b = some c →
    c.kind = .fill ∨ c.kind = .copy ∨ c.kind = .copym ∨ c.kind = .mcast → tensorAt s b c.src = some t →
    (c.kind = .copy ∨ c.kind = .copym → (tensorAt s b c.dst).isSome) → 0 < Claim.boxRows t →
    (t.segs c.d0 0).head? = some g → 0 < g.len → translate s (s.asidOf b) g.addr .copyRead = .error r → r ≠ poisonReason →
    (s.block b).killed = false →
    ∃ u, exec (.copyFault b) s = .next (blockTrap u b 0x0020 true c.pc g.addr
        [c.word.setWidth 64, BitVec.ofNat 64 r, BitVec.ofNat 64 c.src]) ∧
      u.mem = s.mem ∧ u.threads = s.threads ∧ (∀ x, (u.block x).shared = (s.block x).shared) ∧
      (u.block b).cmds = Claim.cmdsWith s b c.pos (fun d => { d with state := .failed }) ∧
      (c.kind = .fill → (u.tile b c.dst).state = .empty)

namespace Sys2Proof.Machine.Claim

/-- Half-word i of a number, and the ub of a page from its digests: the rounded exact sum of each channel's greater product
(R343). -/
def halfAt (x i : Nat) : Nat := x / 2 ^ (16 * i) % 2 ^ 16
def ub (ch query digests : Nat) : Nat :=
  f32.round .rn 0 (exactSum ((List.range ch).map fun i => ubTerm (f32.decode (wordAt query i))
    (bf16.decode (halfAt digests i)) (bf16.decode (halfAt digests (ch + i)))))

/-- A page ranks before another: by its ub, a NaN last, the lower page first where they tie (R343). -/
def Before (val : Nat → Nat) (i j : Nat) : Prop :=
  let x := f32.decode (val i)
  let y := f32.decode (val j)
  if x.isNan ∨ y.isNan then y.isNan ∧ (x.isNan → i < j) else x.cmp y = 1 ∨ (x.cmp y = 0 ∧ i < j)

/-- The record of a command, read and valid (R319, R320). -/
def RecordIs (s : State) (b : Nat) (c : Cmd) (r : Slab) : Prop :=
  readSlab s (s.asidOf b) c.slab = .ok r ∧ Slab.bad r = none

/-- The slot of a KV command's first token, its base, and a tile that holds n rows (R344). -/
structure KvReady (s : State) (b : Nat) (c : Cmd) (r : Slab) (tl : Nat) (bf : Bool) (n t x base : Nat) : Prop where
  sound : Sound s b
  next : nextMove s b = some c
  args : kvArgs c.d0 c.d1 = some (tl, bf, n, t)
  record : RecordIs s b c r
  last : (Slab.slot r (t + n - 1)).isSome
  slot : Slab.slot r t = some x
  base : Slab.baseFor r x = some base
  size : n * kvRowBytes bf (Slab.ch r) ≤ (s.tile b tl).bytes

/-- Element (i, j) of a tile of FP32 or BF16 rows as a number (R344). -/
def kvValue (s : State) (b : Nat) (t : Tile) (bf : Bool) (ch i j : Nat) : Fl :=
  if bf then bf16.decode (held s b t (2 * ch * i + 2 * j) 2) else f32.decode (held s b t (4 * ch * i + 4 * j) 4)

/-- `w` bytes at a virtual address lie at physical address `pa`, in one page, whatever is written to `dest`. -/
def RangeAt (s : State) (asid : BitVec 6) (va : DWord) (acc : Access) (w pa : Nat) (dest : Nat → Prop) : Prop :=
  translate s asid va acc = .ok pa ∧ va.toNat % 65536 + w ≤ 65536 ∧ Steady s asid va dest

end Sys2Proof.Machine.Claim

/-- R332 to R334, R342: SBMRG, once the round is folded, writes the merged m, l and accumulators into its tile, each accumulator
normalised by its row's state where `.norm` asks for it; the channel is ready for the next round; no other byte changes. -/
def Claims.SideboardResults : Prop :=
  ∀ (s : State) (b : Nat) (c : Cmd) (ch : Channel), Claim.Sound s b → nextMove s b = some c → c.kind = .sbmrg →
    (clusterOf s b).channel = some ch → ch.mismatch = none → sideShape c.d0 = some (ch.nr, ch.dv) →
    (s.gridOf b).launch.clSize ≤ ch.nextRank →
    let tile := s.tile b c.dst
    let word := wordAt ch.value
    ∃ u, exec (.copyCommandComplete b) s = .next u ∧
      (∀ i < 2 * ch.nr, Claim.held u b tile (4 * i) 4 = word i) ∧
      (∀ i < ch.nr, ∀ d < ch.dv, let acc := word (2 * ch.nr + ch.dv * i + d)
        Claim.held u b tile (8 * ch.nr + 4 * (ch.dv * i + d)) 4 =
          if c.flag then (normalise acc (word i) (word (ch.nr + i))).1 else acc) ∧
      Claim.OnlyTile s u b tile (8 * ch.nr + 4 * ch.nr * ch.dv) ∧ (clusterOf u b).channel = some { round := ch.round + 1 }

/-- R343: PSEL writes the k pages that rank highest, best first, and their ub values into its output tile, all ones and −∞ beyond the
pages there are; no other byte changes. -/
def Claims.PageSelection : Prop :=
  ∀ (s : State) (b : Nat) (c : Cmd) (r : Slab) (cq co k p0 np : Nat) (base dig : Nat → Nat), Claim.Sound s b →
    nextMove s b = some c → c.kind = .psel → pselArgs c.d0 c.d1 = some (cq, co, k, p0, np) → Claim.RecordIs s b c r →
    Slab.paged r = true → p0 + np ≤ 2 ^ (Slab.capl r - 6) → 4 * Slab.ch r ≤ (s.tile b cq).bytes →
    (∀ i < np, Slab.baseFor r (64 * (p0 + i)) = some (base i) ∧
      readVirt s (s.asidOf b) (BitVec.ofNat 64 (base i + Slab.pageOff r (64 * (p0 + i)))) .load (4 * Slab.ch r) = .ok (dig i)) →
    let val := fun i => Claim.ub (Slab.ch r) (Claim.held s b (s.tile b cq) 0 (4 * Slab.ch r)) (dig i)
    let tile := s.tile b co
    ∃ (u : State) (best : List Nat), exec (.copyCommandComplete b) s = .next u ∧ best.Nodup ∧ (∀ i ∈ best, i < np) ∧ best.length = min k np ∧
      best.Pairwise (Claim.Before val) ∧ (∀ i ∈ best, ∀ j < np, j ∉ best → Claim.Before val i j) ∧
      (∀ m < k, Claim.held u b tile (4 * m) 4 = ((best[m]?).map (p0 + ·)).getD 0xFFFFFFFF) ∧
      (∀ m < k, Claim.held u b tile (4 * k + 4 * m) 4 = ((best[m]?).map val).getD 0xFF800000) ∧
      Claim.OnlyTile s u b tile (8 * k)

/-- R71, R344: KVUNP writes n rows of C elements into its tile: of LAYOUT 0 the element's value, where the tile type holds it; of
LAYOUT 1 its value times its channel's scale, rounded once; no other byte changes. Where the tile type cannot hold an element of
LAYOUT 0 the value is free (log 17). -/
def Claims.SlabUnpacking : Prop :=
  ∀ (s : State) (b : Nat) (c : Cmd) (r : Slab) (tl : Nat) (bf : Bool) (n t x base sc : Nat) (row : Nat → Nat),
    Claim.KvReady s b c r tl bf n t x base → c.kind = .kvunp →
    (∀ i < n, readVirt s (s.asidOf b) (BitVec.ofNat 64 (base + Slab.rowOff r (x + i))) .load (Slab.rb r) = .ok (row i)) →
    (Slab.paged r = true →
      readVirt s (s.asidOf b) (BitVec.ofNat 64 (base + Slab.pageOff r x + 4 * Slab.ch r)) .load (2 * Slab.ch r) = .ok sc) →
    let tile := s.tile b tl
    let w := if bf then 2 else 4
    let f := if bf then bf16 else f32
    ∃ u, exec (.copyCommandComplete b) s = .next u ∧
      (∀ i < n, ∀ j < Slab.ch r,
        let v := elemValue (Slab.etype r) (Slab.fmt r) (row i) j
        let out := Claim.held u b tile (w * Slab.ch r * i + w * j) w
        (Slab.paged r = true → out = f.round .rn 0 (v.mul (bf16.decode (Claim.halfAt sc j)))) ∧
        (Slab.paged r = false → v.isNan = true ∨ (f.decode (f.round .rn 0 v)).cmp v = 0 → out = f.round .rn 0 v)) ∧
      Claim.OnlyTile s u b tile (n * kvRowBytes bf (Slab.ch r))

/-- R66, R323, R344: KVPK: of LAYOUT 0 each row of the slab holds the tile's elements converted to ETYPE; of LAYOUT 1 the page holds
each channel's MX, MN and scale and its codes, rows from n on zero; no other byte changes. -/
def Claims.SlabPacking : Prop :=
  ∀ (s : State) (b : Nat) (c : Cmd) (r : Slab) (tl : Nat) (bf : Bool) (n t x base : Nat),
    Claim.KvReady s b c r tl bf n t x base → c.kind = .kvpk →
    let tile := s.tile b tl
    let ch := Slab.ch r
    let rb := Slab.rb r
    let bits := elemBits (Slab.etype r) (Slab.fmt r)
    let sameShared := fun u : State => ∀ y, (u.block y).shared = (s.block y).shared
    (∀ pa : Nat → Nat, Slab.paged r = false → (∀ i < n, ∀ j < n, i ≠ j → pa i + rb ≤ pa j ∨ pa j + rb ≤ pa i) →
      (∀ i < n, Claim.RangeAt s (s.asidOf b) (BitVec.ofNat 64 (base + Slab.rowOff r (x + i))) .store rb (pa i)
        fun a => ∃ j < n, pa j ≤ a ∧ a < pa j + rb) →
      ∃ u, exec (.copyCommandComplete b) s = .next u ∧ sameShared u ∧
        (∀ i < n, bytesAt u.mem (pa i) rb = packCodes bits ((List.range ch).map fun j =>
          (kvConvert r (Claim.kvValue s b tile bf ch i j)).1)) ∧
        ∀ a, (∀ i < n, a < pa i ∨ pa i + rb ≤ a) → byteAt u.mem a = byteAt s.mem a) ∧
    (∀ pa : Nat, Slab.paged r = true → t % 64 = 0 →
      Claim.RangeAt s (s.asidOf b) (BitVec.ofNat 64 (base + Slab.pageOff r x)) .store (Slab.pgb r) pa
        (fun a => pa ≤ a ∧ a < pa + Slab.pgb r) →
      let chan := fun j => packChannel (nfOf (Slab.fmt r)) ((List.range n).map fun i => Claim.kvValue s b tile bf ch i j)
      ∃ u, exec (.copyCommandComplete b) s = .next u ∧ sameShared u ∧
        (∀ j < ch, bytesAt u.mem (pa + 2 * j) 2 = (chan j).mx ∧ bytesAt u.mem (pa + 2 * (ch + j)) 2 = (chan j).mn ∧
          bytesAt u.mem (pa + 2 * (2 * ch + j)) 2 = (chan j).scale) ∧
        (∀ i < 64, bytesAt u.mem (pa + 6 * ch + rb * i) rb =
          if i < n then packCodes bits ((List.range ch).map fun j => ((chan j).codes).getD i 0) else 0) ∧
        ∀ a, (a < pa ∨ pa + Slab.pgb r ≤ a) → byteAt u.mem a = byteAt s.mem a)

/-- R66, R344: the packing of one channel: NaN and zero codes where an element or the scale is not finite; zeros where every element is
zero; else a scale of the greatest magnitude over FMAX, rounded up, codes of the quotients, and the extremes of what the codes
stand for, rounded outward. -/
def Claims.ChannelPacking : Prop :=
  ∀ (f : NFmt) (xs : List Fl),
    let finite := fun v : Fl => v.isNan = false ∧ v ≠ .inf true ∧ v ≠ .inf false
    let mag := fun v : Fl => match v with | .fin _ m e => Fl.fin false m e | v => v
    let p := packChannel f xs
    let bad := p.scale = 0x7FC0 ∧ p.mx = 0x7FC0 ∧ p.mn = 0x7FC0 ∧ p.codes = xs.map (fun _ => 0) ∧ p.flags = fNfnan
    ((∃ x ∈ xs, ¬finite x) → bad) ∧
    ((∀ x ∈ xs, finite x) →
      ((∀ x ∈ xs, x.cmp (.fin false 0 0) = 0) → p.scale = 0 ∧ p.mx = 0 ∧ p.mn = 0 ∧ p.codes = xs.map (fun _ => 0) ∧
        p.flags = 0) ∧
      ((∃ x ∈ xs, x.cmp (.fin false 0 0) ≠ 0) → ∃ top ∈ xs.map mag, (∀ x ∈ xs, (mag x).cmp top ≠ 1) ∧
        let sc := bf16.round .ru 0 (top.div (f.decode f.maxFin))
        (bf16.decode sc = .inf false → bad) ∧
        (bf16.decode sc ≠ .inf false → p.scale = sc ∧
          p.codes = xs.map (fun x => (f.encode .rn 0 (x.div (bf16.decode sc))).1) ∧
          let vals := p.codes.map fun k => (f.decode k).mul (bf16.decode sc)
          (∃ hi ∈ vals, (∀ v ∈ vals, v.cmp hi ≠ 1) ∧ p.mx = bf16.round .ru 0 hi) ∧
          ∃ lo ∈ vals, (∀ v ∈ vals, lo.cmp v ≠ 1) ∧ p.mn = bf16.round .rd 0 lo)))

/-- R332, R333: MERGE of two states: the greater m, its weights, and l by one product and one fused step; NaN operands, and an l that
becomes NaN, make the row NaN and set SMNAN, the second INV too; an accumulator merges by the same weights, and a partial folds into another row by row. Final normalisation
divides by l, gives +0 with EMPTY for an l of zero, and NaN with SMNAN for a NaN. -/
def Claims.MergeValues : Prop :=
  let v := f32.decode
  let rnd := f32.round .rn 0
  let fused := fun x a y b => rnd (((v x).mul (v a)).add .rn (v (rnd ((v y).mul (v b)))))
  let nan := 0x7FC00000
  let smnan : BitVec 6 := 0b010000
  let inv : BitVec 6 := 0b000001
  let empty : BitVec 6 := 0b100000
  (∀ m1 l1 m2 l2, m1 < 2 ^ 32 → l1 < 2 ^ 32 → m2 < 2 ^ 32 → l2 < 2 ^ 32 →
    ((∃ y ∈ [m1, l1, m2, l2], (v y).isNan = true) → softMerge m1 l1 m2 l2 = ⟨nan, nan, nan, nan, smnan⟩) ∧
    ((∀ y ∈ [m1, l1, m2, l2], (v y).isNan = false) →
      ∃ top ∈ [v m1, v m2], (v m1).cmp top ≠ 1 ∧ (v m2).cmp top ≠ 1 ∧
        let m := rnd top
        let a1 := softWeight m1 m
        let a2 := softWeight m2 m
        let l := fused l1 a1 l2 a2
        softMerge m1 l1 m2 l2 = if (v l).isNan then ⟨nan, nan, nan, nan, smnan ||| inv⟩ else ⟨m, l, a1, a2, 0⟩)) ∧
  (∀ (r : Merged) (x y : Nat), x < 2 ^ 32 → y < 2 ^ 32 → r.a1 < 2 ^ 32 → r.a2 < 2 ^ 32 →
    (r.flags ≠ 0 → mergeAcc r x y = (nan, 0)) ∧
    (r.flags = 0 → let z := fused x r.a1 y r.a2
      mergeAcc r x y = (z, if (v z).isNan ∧ ∀ w ∈ [x, y, r.a1, r.a2], (v w).isNan = false then smnan ||| inv else 0))) ∧
  (∀ nr dv p q i, i < nr → let z := (foldPartial nr dv p q).1
    let r := softMerge (wordAt p i) (wordAt p (nr + i)) (wordAt q i) (wordAt q (nr + i))
    wordAt z i = r.m ∧ wordAt z (nr + i) = r.l ∧ ∀ d < dv, let e := 2 * nr + dv * i + d
      wordAt z e = (mergeAcc r (wordAt p e) (wordAt q e)).1) ∧
  ∀ a m l, a < 2 ^ 32 → m < 2 ^ 32 → l < 2 ^ 32 →
    ((v m).isNan = true ∨ (v l).isNan = true → normalise a m l = (nan, smnan)) ∧
    ((v m).isNan = false → l = 0 ∨ l = 2 ^ 31 → normalise a m l = (0, empty)) ∧
    ((v m).isNan = false → (v l).isNan = false → l ≠ 0 → l ≠ 2 ^ 31 → let q := (v a).div (v l)
      normalise a m l = (rnd q, if q.isNan ∧ (v a).isNan = false then smnan ||| inv else 0))

namespace Sys2Proof.Machine.Claim

/-- The operands of an MMAT in flight (R311): its tensors, the blocks of its ranks, and D slices apart from each other and from A and
B. -/
structure MmatAt (s : State) (b : Nat) (c : Cmd) (a t : Tensor) (kb : Nat) (blk : Nat → Nat) : Prop where
  sound : Sound s b
  runs : mmatRunning s b = some c
  checked : tabGetD s.upsets (coreOfB b) 0 = 0
  tensors : tensorAt s b c.mmatOp.idA = some a ∧ tensorAt s b c.mmatOp.idB = some t
  kind : kBlock c.mmatOp.opc t.etype t.fmt = some kb ∧ 0 < kb
  blocks : ∀ p < c.mmatOp.ranks, rankBlock s b ((s.block b).rank + p) = some (blk p)
  vaults : ∀ p < c.mmatOp.ranks, (s.tile (blk p) c.mmatOp.cB).vault = true ∧ (s.tile (blk p) c.mmatOp.cD).vault = true
  scales : c.mmatOp.ranks = 1 ∨ (a.scale = 0 ∧ t.scale = 0)
  apart : ∀ p < c.mmatOp.ranks,
    let d := fun q => vaultAddr (coreOfB (blk q)) (s.tile (blk q) c.mmatOp.cD).start
    let m := 512 * a.ext.getD 1 0
    let k := a.ext.getD 0 0
    (∀ q < c.mmatOp.ranks, (q ≠ p → Apart (d p) m (d q) m) ∧
      Apart (d p) m (vaultAddr (coreOfB (blk q)) (s.tile (blk q) c.mmatOp.cB).start)
        (rowBytes t.etype t.fmt (colsOf (t.ext.getD 0 0) q) * k)) ∧
    ((s.tile b c.mmatOp.cA).vault = true → Apart (d p) m (vaultAddr (coreOfB b) (s.tile b c.mmatOp.cA).start)
      (rowBytes a.etype a.fmt k * a.ext.getD 1 0))

/-- Element e of row i of A, and column n of row e of rank p's slice of B, with sign and scale (R299, R311). -/
def termA (s : State) (b : Nat) (o : MmatOp) (a : Tensor) (i e : Nat) : Term :=
  let w := rowBytes a.etype a.fmt (a.ext.getD 0 0)
  termOf o.na (elemValue a.etype a.fmt (held s b (s.tile b o.cA) (w * i) w) e) (scaleOf s (s.asidOf b) a e i)
def termB (s : State) (b : Nat) (o : MmatOp) (t : Tensor) (x p e n : Nat) : Term :=
  let w := rowBytes t.etype t.fmt (colsOf (t.ext.getD 0 0) p)
  termOf o.nb (elemValue t.etype t.fmt (held s x (s.tile x o.cB) (w * e) w) n) (scaleOf s (s.asidOf b) t (128 * p + n) e)

/-- One k-block of an element of D (R304): the accumulator, or zero in the first with ZC, plus the exact sum of the block's products;
a short block has products of +0 besides. -/
def kStep (s : State) (b : Nat) (o : MmatOp) (a t : Tensor) (kb x p i n : Nat) (acc : DWord) (j : Nat) : DWord :=
  let k := a.ext.getD 0 0
  let es := (List.range (min kb (k - j * kb))).map (j * kb + ·)
  let c := if o.zc ∧ j = 0 ∧ o.j0 = 0 then 0 else acc
  let short := k - j * kb < kb
  (accumulate (accOf t.etype) c (blockSum (es.map (termA s b o a i) ++ [{ v := .fin false 0 0, nan := false }])
    (es.map (fun e => some (termB s b o t x p e n)) ++ if short then [none] else []))).1

end Sys2Proof.Machine.Claim

/-- R299, R304, R311, R313: at the end of an MMAT, element (i, n) of every rank's D slice holds C's element taken through the
command's k-blocks in order, each adding the exact sum of its products of A and B; no other byte of memory or shared memory
changes. -/
def Claims.MatrixCommandValues : Prop :=
  ∀ (s : State) (b : Nat) (c : Cmd) (a t : Tensor) (kb : Nat) (blk : Nat → Nat), Claim.MmatAt s b c a t kb blk →
    let o := c.mmatOp
    let cols := fun p => colsOf (t.ext.getD 0 0) p
    let d := fun p i n => vaultAddr (coreOfB (blk p)) ((s.tile (blk p) o.cD).start + 512 * i + 4 * n)
    ∃ u, exec (.mmatComplete b) s = .next u ∧ (∀ x, (u.block x).shared = (s.block x).shared) ∧
      (∀ p < o.ranks, ∀ i < a.ext.getD 1 0, ∀ n < cols p,
        bytesAt u.mem (d p i n) 4 = (((List.range (ceilDiv (a.ext.getD 0 0) kb)).drop o.j0).foldl
          (Claim.kStep s b o a t kb (blk p) p i n) (BitVec.ofNat 64 (bytesAt s.mem (d p i n) 4))).toNat % 2 ^ 32) ∧
      ∀ y, (∀ p < o.ranks, ∀ i < a.ext.getD 1 0, ∀ n < cols p, y < d p i n ∨ d p i n + 4 ≤ y) → byteAt u.mem y = byteAt s.mem y

/-! ## Statements of several parts -/

/-- A word that decodes is the word of its instruction; unassigned opcodes do not decode. -/
def Obligations.EachWordHasOneMeaning : Prop :=
  Claims.EncodeOfDecode ∧ Claims.UnassignedOpcodesRejected

/-- Integer operations in register and immediate form: results and frame. Completion is stated of: addI32, addI32Imm, subI32,
subI32Imm, addSatI32, addSatI32Imm, addSatN32, addSatN32Imm, subSatI32, subSatI32Imm, subSatN32, subSatN32Imm, mulI32,
mulI32Imm, mulSatI32, mulSatI32Imm, mulSatN32, mulSatN32Imm, mulhiI32, mulhiI32Imm, mulhiN32, mulhiN32Imm, minI32, minI32Imm,
maxI32, maxI32Imm, minN32, minN32Imm, maxN32, maxN32Imm, and, andImm, or, orImm, xor, xorImm. -/
def Obligations.IntegerOperations : Prop :=
  Claims.IntegerRegisterForms ∧ Claims.IntegerImmediateForms

/-- Integer division in every form, in lanes and on the Lectern: results and frame. Completion is stated of: divI32,
divI32Imm, divN32, divN32Imm, remI32, remI32Imm, remN32, remN32Imm. -/
def Obligations.DivisionResults : Prop :=
  Claims.LaneDivision ∧ Claims.UniformDivision

/-- Shifts in every form and 64-bit integer results: results and frame. Completion is stated of: sxtI64, zxtN64, mov64,
mulwI32, mulwI32Imm, mulwN32, mulwN32Imm, addI64, addI64Imm, subI64, subI64Imm, shl, shlImm, shrN32, shrN32Imm, shrI32,
shrI32Imm. -/
def Obligations.ShiftAndWideResults : Prop :=
  Claims.ShiftResults ∧ Claims.WideIntegerResults

/-- Compares, PLUT, SEL and NOP: results and frame. Completion is stated of: cmpI32, cmpI32Imm, cmpN32, cmpN32Imm, cmpI64,
plut, sel, nop. -/
def Obligations.ComparesAndSelection : Prop :=
  Claims.CompareResults ∧ Claims.PredicateLogicSelectAndNop

/-- Calls and returns, and the call-stack trap. Completion is stated of: call, calli, ret, calll. -/
def Obligations.CallsAndReturns : Prop :=
  Claims.Calls ∧ Claims.Returns ∧ Claims.CallStackTrap

/-- Joins: waiting, passing and deadlocks. Completion is stated of: joinPass, joinDeadlockDetect, join. -/
def Obligations.Joins : Prop :=
  Claims.JoinWaits ∧ Claims.JoinsPass ∧ Claims.JoinDeadlocks

/-- Hints: binding, guards, step boundaries, regions and their counter, and violations. Completion is stated of: lit, blk,
grd, live, step, region, pref, sched. -/
def Obligations.Hints : Prop :=
  Claims.HintsJoinTheirGroup ∧ Claims.GuardStepAndRegion ∧ Claims.RegionCounters ∧ Claims.HintViolations

/-- Shadow intervals and array registers: WIDEN, SHRD, SHWR, ARRGET, ARRSET. Completion is stated of: widen, widenCount,
widenFull, shrdLo, shrdHi, shwr, arrget, arrgetBase64. -/
def Obligations.ShadowsAndArrays : Prop :=
  Claims.WidenShadows ∧ Claims.ShadowAndArrayReads

/-- FSUB of halves, FABS, FNEG, FCPS and the floating compares. Completion is stated of: fmodFsub, fabs, fneg, fcps, fcmpF32,
fcmpH, fabsF64, fnegF64, fcpsF64, fcmpF64. -/
def Obligations.FloatSignsAndCompares : Prop :=
  Claims.FloatModifiers ∧ Claims.FloatCompare

/-- Conversions among formats, the narrow formats of a tensor among them. Completion is stated of: cvtF, cvtI, cvtn, cvtnf,
cvtF64. -/
def Obligations.FormatConversions : Prop :=
  Claims.Conversions ∧ Claims.NarrowConversions

/-- SEED, FSRD and EVRD: generator, status flags and event counters. Completion is stated of: seed, seedRd, fsrd, fsrdClr,
evrd. -/
def Obligations.GeneratorStatusAndCounterReads : Prop :=
  Claims.GeneratorAndStatus ∧ Claims.CounterReads

/-- ULD, UGET and POST on the Lectern: their entries, and what ULD loads. Completion is stated of: ugetFirst, ugetAdd,
ugetMinI, ugetMaxI, ugetMinN, ugetMaxN, ugetAnd, ugetOr, ugetXor, ugetAny, ugetAll, ugetCount, uld, post, postSelf, arrset. -/
def Obligations.LecternLoadsGetsAndPosts : Prop :=
  Claims.UniformLoads ∧ Claims.LecternGetsAndPosts

/-- Threads consume the entries of the uniform stream in order; the Lectern goes on when its wait ends, with the result of a
UGET or the status of a POST. Completion is stated of: ugetCombine, postAct. -/
def Obligations.ThreadsAndTheLectern : Prop :=
  Claims.ThreadsConsumeEntries ∧ Claims.UniformOrderTraps ∧ Claims.LecternWaitsEnd ∧
    Claims.UGetResults ∧ Claims.PostStatuses

/-- Loads: the bytes they return, and frame. Completion is stated of: ldN8, ldI8, ldN16, ldI16, ld32, ld64, ldro32, ldro64,
lds32, lds64, ldg32, ldg64. -/
def Obligations.Loads : Prop :=
  Claims.Loads ∧ Claims.ReadOnlyLoads

/-- Checks of an access, in order; SPILL and FILL. Completion is stated of: spill, fill. -/
def Obligations.AccessChecksAndSpills : Prop :=
  Claims.AccessChecks ∧ Claims.SpillAndFill

/-- Atomics return the old value and set the new one; reductions and signals. Completion is stated of: atom32, atom64, cas32,
cas64, red32, red64, sigwSt, sigwAdd, sigwMax. -/
def Obligations.Atomics : Prop :=
  Claims.AtomicsReturnOldValues ∧ Claims.ReductionsAndSignals

/-- Acquire loads, release stores, fences and waits. Completion is stated of: fence, waitCopy, waitMatrix, waitGather,
waitNearBank, waitCollective, ldacq, strel. -/
def Obligations.AcquireReleaseFencesAndWaits : Prop :=
  Claims.AcquireAndRelease ∧ Claims.FencesAndWaits

/-- Barriers: arrival, waiting and the end of a phase. Completion is stated of: barrierPhaseComplete, bar, bara, cbar, cbara.
-/
def Obligations.Barriers : Prop :=
  Claims.Barriers ∧ Claims.BarrierPhases

/-- Tile commands and their fills and drains. Completion is stated of: tileFillLanded, tacq, tacqFill, trel, trelWb. -/
def Obligations.TileCommands : Prop :=
  Claims.TileCommands ∧ Claims.TileFills

/-- Copy and matrix commands: queueing, completion, and the bytes that copies move. Completion is stated of: tileDrainDone,
copyCommandComplete, copyFault, copy, copym, mcast, pfxL2, pfxVault, mmat, mmatNf. -/
def Obligations.CopyAndMatrixCommands : Prop :=
  Claims.CopyAndMatrixCommands ∧ Claims.CopyMovements ∧ Claims.BoxMovements ∧ Claims.FaultingMovements

/-- Attention commands of the Lectern: how they issue, and the bytes that PSEL, KVUNP and KVPK write. Completion is stated of:
slset, slgrow, slapp, sbsend, sbmrg, psel, kvpk, kvunp. -/
def Obligations.AttentionCommands : Prop :=
  Claims.AttentionCommands ∧ Claims.PageSelection ∧ Claims.SlabUnpacking ∧
    Claims.SlabPacking ∧ Claims.ChannelPacking

/-- Slabs: slots, addresses, appends, growth and relocation. Completion is stated of: slabChunkMove, slabMoveRetry, slxl,
slxlPg. -/
def Obligations.Slabs : Prop :=
  Claims.SlabSlots ∧ Claims.SlabAddresses ∧ Claims.SlabUpdates ∧ Claims.SlabRelocation

/-- The softmax weight, merges, online softmax steps, and the folds and results of the Sideboard. Completion is stated of:
sideboardFold, osm, osmMrg, osmn. -/
def Obligations.SoftmaxAndSideboard : Prop :=
  Claims.SoftmaxWeight ∧ Claims.MergeValues ∧ Claims.SoftmaxSteps ∧ Claims.SideboardFolds ∧ Claims.SideboardResults

/-- MMA and MMAT: issue, continuation, and integer sums. Completion is stated of: mma, mmaNf, mmaF64, mmaCont, mmatCont. -/
def Obligations.MatrixIssueAndSums : Prop :=
  Claims.MatrixIssue ∧ Claims.MatrixContinuations ∧ Claims.IntegerMatrixSums

/-- Matrix commands complete and write their results. Completion is stated of: mmaComplete, mmatStart, mmatComplete. -/
def Obligations.MatrixCompletion : Prop :=
  Claims.MatrixCompletion ∧ Claims.MatrixCommandRuns ∧ Claims.MatrixCommandValues

/-- SYNC commands start, counters count, and loads, writes and atomics complete. Completion is stated of: loadComplete,
writeComplete, atomicComplete, syncCommandStart. -/
def Obligations.CommandStartsAndCompletions : Prop :=
  Claims.SyncStarts ∧ Claims.CommandsCountInGroups ∧ Claims.Completions

/-- Near-bank commands: queueing, execution, mode, fence and owner. Completion is stated of: bankCommandExecute, nbownWrite,
nbmode, nbbc, nbmac, nbrd, nbldw, fenceBank, nbclr. -/
def Obligations.NearBankCommands : Prop :=
  Claims.BankCommandsQueue ∧ Claims.BankModeAndFence ∧ Claims.BankExecution ∧ Claims.BankOwnerWrites

/-- Taking a group trap: the record, the stop, and a full or lost trap area. -/
def Obligations.TakingAGroupTrap : Prop :=
  Claims.TakingAGroupTrap ∧ Claims.TrapAreaFullOrLost

/-- TRAP, BRK, illegal words and fetch faults take their traps. Completion is stated of: illegalInstructionWord, fetchFault,
trap, brk. -/
def Obligations.TrapsOfWords : Prop :=
  Claims.TrapAndBreak ∧ Claims.WordsThatDoNotExecute

/-- Handlers: start, TRRD, TRWR and TRET. Completion is stated of: handlerStart, tretResume, tretKill, tretKillgrid, tretHost,
trrd, trwr. -/
def Obligations.Handlers : Prop :=
  Claims.HandlerStarts ∧ Claims.HandlerReads ∧ Claims.HandlerWrites ∧ Claims.HandlerReturns

/-- Answers to traps by handler and host. Completion is stated of: trapAckPoll, tractResume, tractKillGroup, tractKillGrid. -/
def Obligations.AnswersToTraps : Prop :=
  Claims.AnswersToGroupTraps ∧ Claims.HostAnswers ∧ Claims.PendingRecordsAreWritten

/-- Control BAR words and the aperture. Completion is stated of: registerWrite, apertureRead, apertureWrite. -/
def Obligations.HostRegistersAndAperture : Prop :=
  Claims.ControlWords ∧ Claims.ApertureAccesses

/-- The page placer: choice, move and copy of a page. Completion is stated of: placerEpoch, pageMove. -/
def Obligations.PagePlacement : Prop :=
  Claims.PagePlacement ∧ Claims.FrameCopies

/-- Queues: doorbells, entries, dependences, control words, aborts and local cards. Completion is stated of: qtailDoorbell,
abort, poke, queueEnable, queueEntryTake, dependencePoll, localCardCheck. -/
def Obligations.Queues : Prop :=
  Claims.QueueEntries ∧ Claims.QueueControl ∧ Claims.LocalCards

/-- Core numbers, and placing blocks and clusters. Completion is stated of: clusterReservation, blockPlace, clusterPlace. -/
def Obligations.BlockAndClusterPlacement : Prop :=
  Claims.GlobalCoreIndices ∧ Claims.BlockPlacement ∧ Claims.ClusterPlacement

/-- Deadlines of pre-emptions, and consistent cuts. Completion is stated of: preemptDeadline, preemptRestartDeadline,
cutReduction, cutComplete, cutDeadline. -/
def Obligations.DeadlinesAndCuts : Prop :=
  Claims.PreemptionDeadlines ∧ Claims.Cuts

/-- Saving a unit and putting it back. Completion is stated of: saveImageWrite, restore. -/
def Obligations.SavesAndRestores : Prop :=
  Claims.Saves ∧ Claims.Restores

/-- Migrations, and allocation deadlocks. Completion is stated of: allocationDeadlock, migrationPlace, migrationDeadline. -/
def Obligations.MigrationsAndEvictions : Prop :=
  Claims.Migrations ∧ Claims.AllocationDeadlocks

/-- The device over its lifetime: clocks, resets, map-outs, scrub, bring-up, attestation. Completion is stated of:
governorInterval, supplyOverpower, watchdogFire, dieReset, selfTestEnd, mogo, mapoutFrameCopy, scrubctlWrite, patrolScrub,
hotRowScrub, scoreHalving, rowRetire, refreshManagement, phyCalibration, telemetrySample, deviceReset, bringUpStart,
fullService, attestSign, attestSignDone. -/
def Obligations.DeviceService : Prop :=
  Claims.ClocksAndBackground ∧ Claims.DieService ∧ Claims.LayerMapOut ∧
    Claims.ScrubAndRetirement ∧ Claims.BringUp ∧ Claims.Attestation

/-- A step runs the decoded instruction. -/
def Obligations.StepsRunDecodedInstructions : Prop :=
  Claims.PickedWordsRun ∧ Claims.LecternAndDeviceTurns
end

