-- ==== Sys2Proof/Laws/Tab.lean ====
section
/-! SUPPORT. Reading a table after a change, and reading a byte after a write; the canonical form of a byte store is kept. -/

namespace Sys2Proof.Machine

/-! ## Tables -/

theorem tabGet_set {α : Type} (t : Tab α) (k j : Nat) (a : α) :
    tabGet (tabSet t k a) j = if j = k then some a else tabGet t j := by
  induction t with
  | nil => simp [tabSet, tabGet, eq_comm]
  | cons e t ih =>
    obtain ⟨i, b⟩ := e
    simp only [tabSet]
    split
    · by_cases h : k = j <;> simp [tabGet, h, eq_comm]
    · split
      · subst_vars
        by_cases h : i = j
        · simp [tabGet, h]
        · simp [tabGet, h, Ne.symm h]
      · by_cases h : i = j
        · subst h
          simp [tabGet, Ne.symm ‹¬k = i›]
        · simp [tabGet, h, ih]

theorem tabGet_drop {α : Type} (t : Tab α) (k j : Nat) : tabGet (tabDrop t k) j = if j = k then none else tabGet t j := by
  induction t with
  | nil => simp [tabDrop, tabGet]
  | cons e t ih =>
    obtain ⟨i, b⟩ := e
    simp only [tabDrop, List.filter_cons] at ih ⊢
    by_cases h : i = k
    · subst h
      by_cases g : j = i
      · subst g; simpa using ih
      · simp [ih, tabGet, g, Ne.symm g]
    · by_cases g : i = j
      · subst g; simp [h, tabGet]
      · simp [h, tabGet, g, ih]

theorem tabGet_map {α : Type} (t : Tab α) (f : Nat → α → α) (j : Nat) :
    tabGet (t.map fun e => (e.1, f e.1 e.2)) j = (tabGet t j).map (f j) := by
  induction t with
  | nil => rfl
  | cons e t ih =>
    by_cases h : e.1 = j
    · subst h; simp [tabGet]
    · simp only [List.map_cons, tabGet, h, if_false, ih]

theorem tabGet_modify {α : Type} (t : Tab α) (k j : Nat) (f : α → α) :
    tabGet (tabModify t k f) j = if j = k then (tabGet t j).map f else tabGet t j := by
  have e : tabModify t k f = t.map fun e => (e.1, (fun i => if i = k then f else id) e.1 e.2) := by
    unfold tabModify
    refine List.map_congr_left fun e _ => ?_
    by_cases h : e.1 = k <;> simp [h]
  rw [e, tabGet_map t fun i => if i = k then f else id]
  by_cases h : j = k <;> simp [h]

theorem tabGet_over {α : Type} (t : Tab α) (ks : List Nat) (f : Nat → α → α) (j : Nat) :
    tabGet (tabOver t ks f) j = if j ∈ ks then (tabGet t j).map (f j) else tabGet t j := by
  have e : tabOver t ks f = t.map fun e => (e.1, (fun i => if i ∈ ks then f i else id) e.1 e.2) := by
    unfold tabOver
    refine List.map_congr_left fun e _ => ?_
    by_cases h : e.1 ∈ ks <;> simp [h]
  rw [e, tabGet_map t fun i => if i ∈ ks then f i else id]
  by_cases h : j ∈ ks <;> simp [h]

theorem tabGetD_set {α : Type} (t : Tab α) (k j : Nat) (a d : α) :
    tabGetD (tabSet t k a) j d = if j = k then a else tabGetD t j d := by
  unfold tabGetD
  rw [tabGet_set]
  split <;> rfl

theorem tabGetD_drop {α : Type} (t : Tab α) (k j : Nat) (d : α) :
    tabGetD (tabDrop t k) j d = if j = k then d else tabGetD t j d := by
  unfold tabGetD
  rw [tabGet_drop]
  split <;> rfl

/-! ## Bytes -/

theorem wfFrom_le {m : Bytes} : ∀ {a b : Nat}, a ≤ b → bytesWfFrom b m = true → bytesWfFrom a m = true := by
  cases m with
  | nil => intros; rfl
  | cons e t =>
    intro a b h w
    simp only [bytesWfFrom, Bool.and_eq_true, decide_eq_true_eq] at w ⊢
    exact ⟨⟨Nat.le_trans h w.1.1, w.1.2⟩, w.2⟩

theorem byteAt_below {m : Bytes} : ∀ {lo a : Nat}, bytesWfFrom lo m = true → a < lo → byteAt m a = 0 := by
  cases m with
  | nil => intros; rfl
  | cons e t =>
    intro lo a w h
    simp only [bytesWfFrom, Bool.and_eq_true, decide_eq_true_eq] at w
    simp only [byteAt]
    rw [if_neg (by omega), if_pos (by omega)]

theorem byteSet_wfFrom {m : Bytes} : ∀ {lo : Nat} (a : Nat) (v : BitVec 8), lo ≤ a → bytesWfFrom lo m = true →
    bytesWfFrom lo (byteSet m a v) = true := by
  induction m with
  | nil => intro lo a v h _; simp only [byteSet]; split <;> simp_all [bytesWfFrom]
  | cons e t ih =>
    obtain ⟨b, x⟩ := e
    intro lo a v h w
    have w' := w
    simp only [bytesWfFrom, Bool.and_eq_true, decide_eq_true_eq] at w
    simp only [byteSet]
    split
    · split
      · exact w'
      · simp only [bytesWfFrom, Bool.and_eq_true, decide_eq_true_eq]
        exact ⟨⟨h, ‹_›⟩, ⟨by omega, w.1.2⟩, w.2⟩
    · split
      · subst_vars
        split
        · exact wfFrom_le (by omega) w.2
        · simp only [bytesWfFrom, Bool.and_eq_true, decide_eq_true_eq]
          exact ⟨⟨h, ‹_›⟩, w.2⟩
      · simp only [bytesWfFrom, Bool.and_eq_true, decide_eq_true_eq]
        exact ⟨w.1, ih a v (by omega) w.2⟩

/-- Writing a byte keeps the canonical form. -/
theorem byteSet_wf {m : Bytes} (a : Nat) (v : BitVec 8) (h : bytesWf m = true) : bytesWf (byteSet m a v) = true :=
  byteSet_wfFrom a v (Nat.zero_le _) h

theorem byteAt_setFrom {m : Bytes} : ∀ {lo : Nat} (a b : Nat) (v : BitVec 8), bytesWfFrom lo m = true →
    byteAt (byteSet m a v) b = if b = a then v else byteAt m b := by
  induction m with
  | nil =>
    intro lo a b v _
    simp only [byteSet]
    split
    · simp_all [byteAt]
    · simp only [byteAt, eq_comm]
      split <;> simp_all
  | cons e t ih =>
    obtain ⟨c, x⟩ := e
    intro lo a b v w
    simp only [bytesWfFrom, Bool.and_eq_true, decide_eq_true_eq] at w
    simp only [byteSet]
    split
    · split
      · subst_vars
        by_cases h : b = a
        · subst h; simp only [byteAt, if_true]; rw [if_neg (by omega), if_pos (by omega)]
        · simp [h]
      · by_cases h : b = a
        · subst h; simp [byteAt]
        · simp only [byteAt, h, if_false]
          rw [if_neg (Ne.symm h)]
          split
          · rw [if_neg (by omega), if_pos (by omega)]
          · rfl
    · split
      · have : a = c := ‹_›
        subst this
        split
        · subst_vars
          by_cases h : b = a
          · subst h; simp only [if_true]; exact byteAt_below w.2 (by omega)
          · simp only [byteAt, h, if_false]
            rw [if_neg (Ne.symm h)]
            split
            · exact byteAt_below w.2 (by omega)
            · rfl
        · by_cases h : b = a
          · subst h; simp [byteAt]
          · simp [byteAt, h, Ne.symm h]
      · by_cases h : c = b
        · subst h
          rw [if_neg (by omega)]
          simp [byteAt]
        · simp only [byteAt, h, if_false]
          split
          · rw [if_neg (by omega)]
          · exact ih a b v w.2

/-- Reading a byte after a write: the value written there, and elsewhere what was there. -/
theorem byteAt_set {m : Bytes} (a b : Nat) (v : BitVec 8) (h : bytesWf m = true) :
    byteAt (byteSet m a v) b = if b = a then v else byteAt m b := byteAt_setFrom a b v h

/-- Writing several bytes keeps the canonical form. -/
theorem bytesSet_wf (n : Nat) : ∀ {m : Bytes} (a v : Nat), bytesWf m = true → bytesWf (bytesSet m a n v) = true := by
  induction n with
  | zero => intro m a v h; exact h
  | succ n ih => intro m a v h; exact ih _ _ (byteSet_wf _ _ h)

/-- A byte outside those written is unchanged. -/
theorem byteAt_bytesSet_outside (n : Nat) : ∀ {m : Bytes} (a v b : Nat), bytesWf m = true → b < a ∨ a + n ≤ b →
    byteAt (bytesSet m a n v) b = byteAt m b := by
  induction n with
  | zero => intros; rfl
  | succ n ih =>
    intro m a v b h o
    simp only [bytesSet]
    rw [ih _ _ _ (byteSet_wf _ _ h) (by omega), byteAt_set _ _ _ h, if_neg (by omega)]

/-- A byte among those written reads as its part of the value. -/
theorem byteAt_bytesSet_inside (n : Nat) : ∀ {m : Bytes} (a v i : Nat), bytesWf m = true → i < n →
    byteAt (bytesSet m a n v) (a + i) = BitVec.ofNat 8 (v / 256 ^ i) := by
  induction n with
  | zero => intro m a v i _ h; omega
  | succ n ih =>
    intro m a v i h o
    simp only [bytesSet]
    cases i with
    | zero =>
      rw [byteAt_bytesSet_outside n _ _ _ (byteSet_wf _ _ h) (by omega), byteAt_set _ _ _ h]
      simp
    | succ i =>
      have e : a + (i + 1) = a + 1 + i := by omega
      rw [e, ih (a + 1) (v / 256) i (byteSet_wf _ _ h) (by omega), Nat.pow_succ, Nat.mul_comm, Nat.div_div_eq_div_mul]

/-- A filter of bytes keeps the canonical form. -/
theorem filter_wfFrom (p : Host.Cell → Bool) {m : Bytes} : ∀ {lo : Nat}, bytesWfFrom lo m = true →
    bytesWfFrom lo (m.filter p) = true := by
  induction m with
  | nil => intros; rfl
  | cons e t ih =>
    obtain ⟨b, x⟩ := e
    intro lo w
    simp only [bytesWfFrom, Bool.and_eq_true, decide_eq_true_eq] at w
    simp only [List.filter_cons]
    split
    · simp only [bytesWfFrom, Bool.and_eq_true, decide_eq_true_eq]
      exact ⟨w.1, ih w.2⟩
    · exact wfFrom_le (by omega) (ih w.2)

/-- Clearing a range keeps the canonical form. -/
theorem bytesClear_wf {m : Bytes} (lo hi : Nat) (h : bytesWf m = true) : bytesWf (bytesClear m lo hi) = true :=
  filter_wfFrom _ h

end Sys2Proof.Machine
end

