-- ==== Sys2Proof/Laws/Bytes.lean ====
section
/-! SUPPORT. Reading several bytes after a write, a clear, or a copy of listed bytes; the canonical form is kept. -/

namespace Sys2Proof.Machine

/-- Equal bytes make equal numbers. -/
theorem bytesAt_congr (n : Nat) : ∀ {m t : Bytes} {a b : Nat}, (∀ i < n, byteAt m (a + i) = byteAt t (b + i)) →
    bytesAt m a n = bytesAt t b n := by
  induction n with
  | zero => intros; rfl
  | succ n ih =>
    intro m t a b h
    simp only [bytesAt]
    have h0 := h 0 (by omega)
    simp only [Nat.add_zero] at h0
    rw [h0, ih (a := a + 1) (b := b + 1) fun i hi => by
      have := h (i + 1) (by omega)
      rwa [show a + (i + 1) = a + 1 + i by omega, show b + (i + 1) = b + 1 + i by omega] at this]

/-- The number that n bytes hold is their part of the value whose bytes they are. -/
theorem bytesAt_of (n : Nat) : ∀ {m : Bytes} {a v : Nat}, (∀ i < n, byteAt m (a + i) = BitVec.ofNat 8 (v / 256 ^ i)) →
    bytesAt m a n = v % 256 ^ n := by
  induction n with
  | zero => intro m a v _; simp [bytesAt, Nat.mod_one]
  | succ n ih =>
    intro m a v h
    have h0 := h 0 (by omega)
    simp only [Nat.add_zero, Nat.pow_zero, Nat.div_one] at h0
    have h1 : bytesAt m (a + 1) n = v / 256 % 256 ^ n := ih fun i hi => by
      have := h (i + 1) (by omega)
      rw [Nat.add_assoc, Nat.add_comm 1 i, this, Nat.pow_succ, Nat.mul_comm, Nat.div_div_eq_div_mul]
    rw [bytesAt, h0, h1, BitVec.toNat_ofNat, show 2 ^ 8 = 256 from rfl, Nat.pow_succ, Nat.mul_comm (256 ^ n) 256, Nat.mod_mul]

/-- Reading back what has been written. -/
theorem bytesAt_bytesSet {m : Bytes} (a n v : Nat) (h : bytesWf m = true) : bytesAt (bytesSet m a n v) a n = v % 256 ^ n :=
  bytesAt_of n fun i hi => byteAt_bytesSet_inside n a v i h hi

/-- Bytes outside those written are unchanged. -/
theorem bytesAt_bytesSet_outside {m : Bytes} (a n v b k : Nat) (h : bytesWf m = true) (o : b + k ≤ a ∨ a + n ≤ b) :
    bytesAt (bytesSet m a n v) b k = bytesAt m b k :=
  bytesAt_congr k fun i hi => byteAt_bytesSet_outside n a v (b + i) h (by omega)

/-- A filter by address reads as 0 where the address fails, and is unchanged elsewhere. -/
theorem byteAt_filterFrom (p : Nat → Bool) {m : Bytes} : ∀ {lo : Nat} (a : Nat), bytesWfFrom lo m = true →
    byteAt (m.filter fun c => p c.1) a = if p a then byteAt m a else 0 := by
  induction m with
  | nil => intro lo a _; simp [byteAt]
  | cons e t ih =>
    obtain ⟨b, x⟩ := e
    intro lo a w
    simp only [bytesWfFrom, Bool.and_eq_true, decide_eq_true_eq] at w
    simp only [List.filter_cons]
    by_cases hb : p b
    · simp only [hb, if_true, byteAt]
      by_cases h : b = a
      · subst h; simp [hb]
      · simp only [h, if_false]
        by_cases h2 : a < b
        · simp [h2]
        · simp only [h2, if_false]; exact ih a w.2
    · simp only [hb, Bool.false_eq_true, if_false, byteAt]
      rw [ih a w.2]
      by_cases h : b = a
      · subst h; simp [hb]
      · simp only [h, if_false]
        by_cases h2 : a < b
        · simp [h2, byteAt_below w.2 (show a < b + 1 by omega)]
        · simp [h2]

/-- A byte after a clear: 0 in the range, unchanged elsewhere. -/
theorem byteAt_bytesClear {m : Bytes} (lo hi a : Nat) (h : bytesWf m = true) :
    byteAt (bytesClear m lo hi) a = if lo ≤ a ∧ a < hi then 0 else byteAt m a := by
  have e : byteAt (bytesClear m lo hi) a = if decide (a < lo) || decide (hi ≤ a) then byteAt m a else 0 :=
    byteAt_filterFrom (fun c => decide (c < lo) || decide (hi ≤ c)) a h
  rw [e]
  by_cases h1 : lo ≤ a ∧ a < hi
  · rw [if_pos h1, if_neg (by simp; omega)]
  · simp only [h1, if_false, Bool.or_eq_true, decide_eq_true_eq]
    rw [if_pos (by omega)]

/-- Writing cells, each at its own place, keeps the canonical form. -/
theorem foldl_byteSet_wf (f : Nat → Nat) (l : Bytes) : ∀ {m : Bytes}, bytesWf m = true →
    bytesWf (l.foldl (fun m c => byteSet m (f c.1) c.2) m) = true := by
  induction l with
  | nil => intro m h; exact h
  | cons c l ih => intro m h; exact ih (byteSet_wf _ _ h)

/-- A byte at no cell's place is unchanged. -/
theorem foldl_byteSet_outside (f : Nat → Nat) (a : Nat) (l : Bytes) : ∀ {m : Bytes}, bytesWf m = true →
    (∀ c ∈ l, f c.1 ≠ a) → byteAt (l.foldl (fun m c => byteSet m (f c.1) c.2) m) a = byteAt m a := by
  induction l with
  | nil => intros; rfl
  | cons c l ih =>
    intro m h o
    simp only [List.foldl_cons]
    rw [ih (byteSet_wf _ _ h) fun d hd => o d (List.mem_cons_of_mem _ hd), byteAt_set _ _ _ h,
      if_neg (o c (List.mem_cons_self ..)).symm]

/-- Every cell of a canonical list lies at or above its bound. -/
theorem wfFrom_mem {l : Bytes} : ∀ {lo : Nat}, bytesWfFrom lo l = true → ∀ c ∈ l, lo ≤ c.1 := by
  induction l with
  | nil => intro lo _ c hc; cases hc
  | cons e l ih =>
    intro lo w c hc
    simp only [bytesWfFrom, Bool.and_eq_true, decide_eq_true_eq] at w
    cases hc with
    | head => exact w.1.1
    | tail _ hc => exact Nat.le_of_succ_le (Nat.le_trans (Nat.succ_le_succ w.1.1) (ih w.2 c hc))

/-- A listed byte stands at its cell's place; one that is not listed leaves what was there. -/
theorem foldl_byteSet_inside (f : Nat → Nat) (l : Bytes) : ∀ {lo x : Nat} {m : Bytes}, bytesWfFrom lo l = true →
    bytesWf m = true → lo ≤ x → (∀ y, lo ≤ y → f y = f x → y = x) →
    byteAt (l.foldl (fun m c => byteSet m (f c.1) c.2) m) (f x) = if byteAt l x = 0 then byteAt m (f x) else byteAt l x := by
  induction l with
  | nil => intros; simp [byteAt]
  | cons e l ih =>
    obtain ⟨b, v⟩ := e
    intro lo x m w h hx inj
    simp only [bytesWfFrom, Bool.and_eq_true, decide_eq_true_eq] at w
    simp only [List.foldl_cons]
    have at_ : byteAt ((b, v) :: l) x = if b = x then v else if x < b then 0 else byteAt l x := rfl
    rw [at_]
    by_cases h1 : b = x
    · subst h1
      rw [foldl_byteSet_outside f _ l (byteSet_wf _ _ h) fun c hc e => by
        have := wfFrom_mem w.2 c hc
        have := inj c.1 (by omega) e
        omega, byteAt_set _ _ _ h]
      simp only [if_true]; rw [if_neg w.1.2]
    · simp only [h1, if_false]
      have fb : f x ≠ f b := fun e => h1 (inj b w.1.1 e.symm)
      by_cases h2 : x < b
      · simp only [h2, if_true]
        rw [foldl_byteSet_outside f _ l (byteSet_wf _ _ h) fun c hc e => by
          have := wfFrom_mem w.2 c hc
          have := inj c.1 (by omega) e
          omega, byteAt_set _ _ _ h, if_neg fb]
      · simp only [h2, if_false]
        rw [ih w.2 (byteSet_wf _ _ h) (by omega) fun y hy => inj y (by omega), byteAt_set _ _ _ h, if_neg fb]

/-- A copy of listed bytes keeps the canonical form. -/
theorem shiftBytes_wf {l m : Bytes} (lo n up : Nat) (h : bytesWf m = true) :
    bytesWf (shiftBytes l lo n up m) = true := foldl_byteSet_wf (fun c => c - lo + up) _ h

/-- A byte after a copy of listed bytes: the source's byte where it is listed in the range, else what was there. -/
theorem byteAt_shiftBytes {l m : Bytes} (lo n up a : Nat) (hl : bytesWf l = true) (h : bytesWf m = true) :
    byteAt (shiftBytes l lo n up m) a =
      if up ≤ a ∧ a < up + n ∧ byteAt l (a - up + lo) ≠ 0 then byteAt l (a - up + lo) else byteAt m a := by
  let p : Nat → Bool := fun c => decide (lo ≤ c) && decide (c < lo + n)
  have hf : bytesWfFrom 0 (l.filter fun c => p c.1) = true := filter_wfFrom (fun c => p c.1) hl
  have hlo : ∀ c ∈ l.filter fun c => p c.1, lo ≤ c.1 ∧ c.1 < lo + n := fun c hc => by
    have := (List.mem_filter.1 hc).2
    simpa only [p, Bool.and_eq_true, decide_eq_true_eq] using this
  have hf2 : bytesWfFrom lo (l.filter fun c => p c.1) = true := by
    revert hf hlo
    cases l.filter fun c => p c.1 with
    | nil => intros; rfl
    | cons c k =>
      intro w o
      simp only [bytesWfFrom, Bool.and_eq_true, decide_eq_true_eq] at w ⊢
      exact ⟨⟨(o c (List.mem_cons_self ..)).1, w.1.2⟩, w.2⟩
  by_cases ha : up ≤ a ∧ a < up + n
  · have q := foldl_byteSet_inside (fun c => c - lo + up) _ (x := a - up + lo) (m := m) hf2 h (by omega)
      fun y hy (e : y - lo + up = a - up + lo - lo + up) => by omega
    have hp : p (a - up + lo) = true := by simp [p]; omega
    rw [show a - up + lo - lo + up = a by omega, byteAt_filterFrom p _ hl, if_pos hp] at q
    rw [show byteAt (shiftBytes l lo n up m) a = _ from q]
    by_cases z : byteAt l (a - up + lo) = 0
    · simp [z]
    · simp [ha]
  · rw [if_neg (by omega)]
    exact foldl_byteSet_outside (fun c => c - lo + up) a _ h fun c hc (e : c.1 - lo + up = a) => by
      have := hlo c hc
      omega

/-! ## Memory of a state -/

/-- A physical store keeps the canonical form. -/
theorem store_wf {s : State} (pa n v : Nat) (h : bytesWf s.mem = true) : bytesWf (s.store pa n v).mem = true :=
  bytesSet_wf n pa v h

/-- Where no error is marked, a write leaves nothing to settle. -/
theorem clearPoison_clean {s : State} (pa n : Nat) (hp : s.poison = []) (hw : s.weak = []) : clearPoison s pa n = s := by
  simp only [clearPoison, settleMarks, hp, hw]; rfl

/-- A store through the translation keeps the canonical form. -/
theorem writeVirt_wf (asid : BitVec 6) (acc : Access) (n : Nat) : ∀ {s t : State} {va : DWord} {v : Nat},
    bytesWf s.mem = true → writeVirt s asid va acc n v = .ok t → bytesWf t.mem = true := by
  induction n with
  | zero => intro s t va v h e; cases e; exact h
  | succ n ih =>
    intro s t va v h e
    simp only [writeVirt] at e
    split at e
    · cases e
    · split at e
      · cases e; exact store_wf _ _ _ h
      · split at e
        · cases e
        · cases e; exact store_wf _ _ _ (ih h ‹_›)

/-- A store through the translation changes nothing but memory, what its bytes had released, and what released tiles left there. -/
theorem writeVirt_rest (asid : BitVec 6) (acc : Access) (n : Nat) : ∀ {s t : State} {va : DWord} {v : Nat},
    writeVirt s asid va acc n v = .ok t → { t with mem := [], order := s.order, released := s.released } = { s with mem := [] } := by
  induction n with
  | zero => intro s t va v e; cases e; rfl
  | succ n ih =>
    intro s t va v e
    simp only [writeVirt] at e
    split at e
    · cases e
    · split at e
      · cases e; rfl
      · split at e
        · cases e
        · cases e
          have := ih ‹_›
          simpa [State.store, State.written] using this

end Sys2Proof.Machine
end

