-- ==== Sys2Proof/Laws/Fields.lean ====
section
/-! SUPPORT. Fields of a word that is written as its parts, for every layout of an instruction word (R137, R147). -/

namespace Sys2Proof.Laws

open Sys2Proof

theorem extract_low {m n : Nat} (x : BitVec m) (y : BitVec n) (lo k : Nat) (h : lo + k ≤ n) :
    (x ++ y).extractLsb' lo k = y.extractLsb' lo k := by
  ext i hi
  simp [BitVec.getElem_extractLsb', BitVec.getLsbD_append]
  omega

theorem extract_high {m n : Nat} (x : BitVec m) (y : BitVec n) (lo k : Nat) (h : n ≤ lo) :
    (x ++ y).extractLsb' lo k = x.extractLsb' (lo - n) k := by
  ext i hi
  simp only [BitVec.getElem_extractLsb', BitVec.getLsbD_append]
  rw [if_neg (by omega)]
  congr 1
  omega

theorem extract_whole {n : Nat} (x : BitVec n) (lo : Nat) (h : lo = 0) : x.extractLsb' lo n = x := by subst h; simp

theorem decode_of_fields {w : Word} {i : Instr} (h : decodeFields w = some i) : decode w = .ok i := by
  simp only [decode, h]

theorem layout_7_1_8_8 (x0 : BitVec 8) (x1 : BitVec 7) (x2 : BitVec 1) (x3 : BitVec 8) (x4 : BitVec 8) (W : Word) (h : W = x0 ++ x1 ++ x2 ++ x3 ++ x4) :
    field W 28 4 = x0.extractLsb' 4 4 ∧ field W 24 4 = x0.extractLsb' 0 4 ∧ field W 17 7 = x1 ∧ field W 16 1 = x2 ∧ field W 8 8 = x3 ∧ field W 0 8 = x4 := by
  have e : ∀ lo k, field W lo k = BitVec.extractLsb' lo k (x0 ++ x1 ++ x2 ++ x3 ++ x4) := fun _ _ => by rw [h]; rfl
  simp (disch := decide) only [e, extract_low, extract_high, extract_whole, and_self]

theorem layout_6_2_8_8 (x0 : BitVec 8) (x1 : BitVec 6) (x2 : BitVec 2) (x3 : BitVec 8) (x4 : BitVec 8) (W : Word) (h : W = x0 ++ x1 ++ x2 ++ x3 ++ x4) :
    field W 28 4 = x0.extractLsb' 4 4 ∧ field W 24 4 = x0.extractLsb' 0 4 ∧ field W 18 6 = x1 ∧ field W 16 2 = x2 ∧ field W 8 8 = x3 ∧ field W 0 8 = x4 := by
  have e : ∀ lo k, field W lo k = BitVec.extractLsb' lo k (x0 ++ x1 ++ x2 ++ x3 ++ x4) := fun _ _ => by rw [h]; rfl
  simp (disch := decide) only [e, extract_low, extract_high, extract_whole, and_self]

theorem layout_6_2_6_6_4 (x0 : BitVec 8) (x1 : BitVec 6) (x2 : BitVec 2) (x3 : BitVec 6) (x4 : BitVec 6) (x5 : BitVec 4) (W : Word) (h : W = x0 ++ x1 ++ x2 ++ x3 ++ x4 ++ x5) :
    field W 28 4 = x0.extractLsb' 4 4 ∧ field W 24 4 = x0.extractLsb' 0 4 ∧ field W 18 6 = x1 ∧ field W 16 2 = x2 ∧ field W 10 6 = x3 ∧ field W 4 6 = x4 ∧ field W 0 4 = x5 := by
  have e : ∀ lo k, field W lo k = BitVec.extractLsb' lo k (x0 ++ x1 ++ x2 ++ x3 ++ x4 ++ x5) := fun _ _ => by rw [h]; rfl
  simp (disch := decide) only [e, extract_low, extract_high, extract_whole, and_self]

theorem layout_24 (x0 : BitVec 8) (x1 : BitVec 24) (W : Word) (h : W = x0 ++ x1) :
    field W 28 4 = x0.extractLsb' 4 4 ∧ field W 24 4 = x0.extractLsb' 0 4 ∧ field W 0 24 = x1 := by
  have e : ∀ lo k, field W lo k = BitVec.extractLsb' lo k (x0 ++ x1) := fun _ _ => by rw [h]; rfl
  simp (disch := decide) only [e, extract_low, extract_high, extract_whole, and_self]

theorem layout_6_1_1_16 (x0 : BitVec 8) (x1 : BitVec 6) (x2 : BitVec 1) (x3 : BitVec 1) (x4 : BitVec 16) (W : Word) (h : W = x0 ++ x1 ++ x2 ++ x3 ++ x4) :
    field W 28 4 = x0.extractLsb' 4 4 ∧ field W 24 4 = x0.extractLsb' 0 4 ∧ field W 18 6 = x1 ∧ field W 17 1 = x2 ∧ field W 16 1 = x3 ∧ field W 0 16 = x4 := by
  have e : ∀ lo k, field W lo k = BitVec.extractLsb' lo k (x0 ++ x1 ++ x2 ++ x3 ++ x4) := fun _ _ => by rw [h]; rfl
  simp (disch := decide) only [e, extract_low, extract_high, extract_whole, and_self]

theorem layout_8_8_8 (x0 : BitVec 8) (x1 : BitVec 8) (x2 : BitVec 8) (x3 : BitVec 8) (W : Word) (h : W = x0 ++ x1 ++ x2 ++ x3) :
    field W 28 4 = x0.extractLsb' 4 4 ∧ field W 24 4 = x0.extractLsb' 0 4 ∧ field W 16 8 = x1 ∧ field W 8 8 = x2 ∧ field W 0 8 = x3 := by
  have e : ∀ lo k, field W lo k = BitVec.extractLsb' lo k (x0 ++ x1 ++ x2 ++ x3) := fun _ _ => by rw [h]; rfl
  simp (disch := decide) only [e, extract_low, extract_high, extract_whole, and_self]

theorem layout_6_6_6_1_5 (x0 : BitVec 8) (x1 : BitVec 6) (x2 : BitVec 6) (x3 : BitVec 6) (x4 : BitVec 1) (x5 : BitVec 5) (W : Word) (h : W = x0 ++ x1 ++ x2 ++ x3 ++ x4 ++ x5) :
    field W 28 4 = x0.extractLsb' 4 4 ∧ field W 24 4 = x0.extractLsb' 0 4 ∧ field W 18 6 = x1 ∧ field W 12 6 = x2 ∧ field W 6 6 = x3 ∧ field W 5 1 = x4 ∧ field W 0 5 = x5 := by
  have e : ∀ lo k, field W lo k = BitVec.extractLsb' lo k (x0 ++ x1 ++ x2 ++ x3 ++ x4 ++ x5) := fun _ _ => by rw [h]; rfl
  simp (disch := decide) only [e, extract_low, extract_high, extract_whole, and_self]

theorem layout_6_2_8_1_7 (x0 : BitVec 8) (x1 : BitVec 6) (x2 : BitVec 2) (x3 : BitVec 8) (x4 : BitVec 1) (x5 : BitVec 7) (W : Word) (h : W = x0 ++ x1 ++ x2 ++ x3 ++ x4 ++ x5) :
    field W 28 4 = x0.extractLsb' 4 4 ∧ field W 24 4 = x0.extractLsb' 0 4 ∧ field W 18 6 = x1 ∧ field W 16 2 = x2 ∧ field W 8 8 = x3 ∧ field W 7 1 = x4 ∧ field W 0 7 = x5 := by
  have e : ∀ lo k, field W lo k = BitVec.extractLsb' lo k (x0 ++ x1 ++ x2 ++ x3 ++ x4 ++ x5) := fun _ _ => by rw [h]; rfl
  simp (disch := decide) only [e, extract_low, extract_high, extract_whole, and_self]

theorem layout_6_6_6_3_1_2 (x0 : BitVec 8) (x1 : BitVec 6) (x2 : BitVec 6) (x3 : BitVec 6) (x4 : BitVec 3) (x5 : BitVec 1) (x6 : BitVec 2) (W : Word) (h : W = x0 ++ x1 ++ x2 ++ x3 ++ x4 ++ x5 ++ x6) :
    field W 28 4 = x0.extractLsb' 4 4 ∧ field W 24 4 = x0.extractLsb' 0 4 ∧ field W 18 6 = x1 ∧ field W 12 6 = x2 ∧ field W 6 6 = x3 ∧ field W 3 3 = x4 ∧ field W 2 1 = x5 ∧ field W 0 2 = x6 := by
  have e : ∀ lo k, field W lo k = BitVec.extractLsb' lo k (x0 ++ x1 ++ x2 ++ x3 ++ x4 ++ x5 ++ x6) := fun _ _ => by rw [h]; rfl
  simp (disch := decide) only [e, extract_low, extract_high, extract_whole, and_self]

theorem layout_6_6_6_6 (x0 : BitVec 8) (x1 : BitVec 6) (x2 : BitVec 6) (x3 : BitVec 6) (x4 : BitVec 6) (W : Word) (h : W = x0 ++ x1 ++ x2 ++ x3 ++ x4) :
    field W 28 4 = x0.extractLsb' 4 4 ∧ field W 24 4 = x0.extractLsb' 0 4 ∧ field W 18 6 = x1 ∧ field W 12 6 = x2 ∧ field W 6 6 = x3 ∧ field W 0 6 = x4 := by
  have e : ∀ lo k, field W lo k = BitVec.extractLsb' lo k (x0 ++ x1 ++ x2 ++ x3 ++ x4) := fun _ _ => by rw [h]; rfl
  simp (disch := decide) only [e, extract_low, extract_high, extract_whole, and_self]

theorem layout_7_1_9_3_4 (x0 : BitVec 8) (x1 : BitVec 7) (x2 : BitVec 1) (x3 : BitVec 9) (x4 : BitVec 3) (x5 : BitVec 4) (W : Word) (h : W = x0 ++ x1 ++ x2 ++ x3 ++ x4 ++ x5) :
    field W 28 4 = x0.extractLsb' 4 4 ∧ field W 24 4 = x0.extractLsb' 0 4 ∧ field W 17 7 = x1 ∧ field W 16 1 = x2 ∧ field W 7 9 = x3 ∧ field W 4 3 = x4 ∧ field W 0 4 = x5 := by
  have e : ∀ lo k, field W lo k = BitVec.extractLsb' lo k (x0 ++ x1 ++ x2 ++ x3 ++ x4 ++ x5) := fun _ _ => by rw [h]; rfl
  simp (disch := decide) only [e, extract_low, extract_high, extract_whole, and_self]

theorem layout_2_4_6_6_6 (x0 : BitVec 8) (x1 : BitVec 2) (x2 : BitVec 4) (x3 : BitVec 6) (x4 : BitVec 6) (x5 : BitVec 6) (W : Word) (h : W = x0 ++ x1 ++ x2 ++ x3 ++ x4 ++ x5) :
    field W 28 4 = x0.extractLsb' 4 4 ∧ field W 24 4 = x0.extractLsb' 0 4 ∧ field W 22 2 = x1 ∧ field W 18 4 = x2 ∧ field W 12 6 = x3 ∧ field W 6 6 = x4 ∧ field W 0 6 = x5 := by
  have e : ∀ lo k, field W lo k = BitVec.extractLsb' lo k (x0 ++ x1 ++ x2 ++ x3 ++ x4 ++ x5) := fun _ _ => by rw [h]; rfl
  simp (disch := decide) only [e, extract_low, extract_high, extract_whole, and_self]

theorem layout_7_1_8_2_6 (x0 : BitVec 8) (x1 : BitVec 7) (x2 : BitVec 1) (x3 : BitVec 8) (x4 : BitVec 2) (x5 : BitVec 6) (W : Word) (h : W = x0 ++ x1 ++ x2 ++ x3 ++ x4 ++ x5) :
    field W 28 4 = x0.extractLsb' 4 4 ∧ field W 24 4 = x0.extractLsb' 0 4 ∧ field W 17 7 = x1 ∧ field W 16 1 = x2 ∧ field W 8 8 = x3 ∧ field W 6 2 = x4 ∧ field W 0 6 = x5 := by
  have e : ∀ lo k, field W lo k = BitVec.extractLsb' lo k (x0 ++ x1 ++ x2 ++ x3 ++ x4 ++ x5) := fun _ _ => by rw [h]; rfl
  simp (disch := decide) only [e, extract_low, extract_high, extract_whole, and_self]

theorem layout_7_1_8_3_2_3 (x0 : BitVec 8) (x1 : BitVec 7) (x2 : BitVec 1) (x3 : BitVec 8) (x4 : BitVec 3) (x5 : BitVec 2) (x6 : BitVec 3) (W : Word) (h : W = x0 ++ x1 ++ x2 ++ x3 ++ x4 ++ x5 ++ x6) :
    field W 28 4 = x0.extractLsb' 4 4 ∧ field W 24 4 = x0.extractLsb' 0 4 ∧ field W 17 7 = x1 ∧ field W 16 1 = x2 ∧ field W 8 8 = x3 ∧ field W 5 3 = x4 ∧ field W 3 2 = x5 ∧ field W 0 3 = x6 := by
  have e : ∀ lo k, field W lo k = BitVec.extractLsb' lo k (x0 ++ x1 ++ x2 ++ x3 ++ x4 ++ x5 ++ x6) := fun _ _ => by rw [h]; rfl
  simp (disch := decide) only [e, extract_low, extract_high, extract_whole, and_self]

theorem layout_7_1_8_5_1_2 (x0 : BitVec 8) (x1 : BitVec 7) (x2 : BitVec 1) (x3 : BitVec 8) (x4 : BitVec 5) (x5 : BitVec 1) (x6 : BitVec 2) (W : Word) (h : W = x0 ++ x1 ++ x2 ++ x3 ++ x4 ++ x5 ++ x6) :
    field W 28 4 = x0.extractLsb' 4 4 ∧ field W 24 4 = x0.extractLsb' 0 4 ∧ field W 17 7 = x1 ∧ field W 16 1 = x2 ∧ field W 8 8 = x3 ∧ field W 3 5 = x4 ∧ field W 2 1 = x5 ∧ field W 0 2 = x6 := by
  have e : ∀ lo k, field W lo k = BitVec.extractLsb' lo k (x0 ++ x1 ++ x2 ++ x3 ++ x4 ++ x5 ++ x6) := fun _ _ => by rw [h]; rfl
  simp (disch := decide) only [e, extract_low, extract_high, extract_whole, and_self]

theorem layout_7_1_8_3_1_4 (x0 : BitVec 8) (x1 : BitVec 7) (x2 : BitVec 1) (x3 : BitVec 8) (x4 : BitVec 3) (x5 : BitVec 1) (x6 : BitVec 4) (W : Word) (h : W = x0 ++ x1 ++ x2 ++ x3 ++ x4 ++ x5 ++ x6) :
    field W 28 4 = x0.extractLsb' 4 4 ∧ field W 24 4 = x0.extractLsb' 0 4 ∧ field W 17 7 = x1 ∧ field W 16 1 = x2 ∧ field W 8 8 = x3 ∧ field W 5 3 = x4 ∧ field W 4 1 = x5 ∧ field W 0 4 = x6 := by
  have e : ∀ lo k, field W lo k = BitVec.extractLsb' lo k (x0 ++ x1 ++ x2 ++ x3 ++ x4 ++ x5 ++ x6) := fun _ _ => by rw [h]; rfl
  simp (disch := decide) only [e, extract_low, extract_high, extract_whole, and_self]

theorem layout_7_1_8_4_4 (x0 : BitVec 8) (x1 : BitVec 7) (x2 : BitVec 1) (x3 : BitVec 8) (x4 : BitVec 4) (x5 : BitVec 4) (W : Word) (h : W = x0 ++ x1 ++ x2 ++ x3 ++ x4 ++ x5) :
    field W 28 4 = x0.extractLsb' 4 4 ∧ field W 24 4 = x0.extractLsb' 0 4 ∧ field W 17 7 = x1 ∧ field W 16 1 = x2 ∧ field W 8 8 = x3 ∧ field W 4 4 = x4 ∧ field W 0 4 = x5 := by
  have e : ∀ lo k, field W lo k = BitVec.extractLsb' lo k (x0 ++ x1 ++ x2 ++ x3 ++ x4 ++ x5) := fun _ _ => by rw [h]; rfl
  simp (disch := decide) only [e, extract_low, extract_high, extract_whole, and_self]

theorem layout_7_9_8 (x0 : BitVec 8) (x1 : BitVec 7) (x2 : BitVec 9) (x3 : BitVec 8) (W : Word) (h : W = x0 ++ x1 ++ x2 ++ x3) :
    field W 28 4 = x0.extractLsb' 4 4 ∧ field W 24 4 = x0.extractLsb' 0 4 ∧ field W 17 7 = x1 ∧ field W 8 9 = x2 ∧ field W 0 8 = x3 := by
  have e : ∀ lo k, field W lo k = BitVec.extractLsb' lo k (x0 ++ x1 ++ x2 ++ x3) := fun _ _ => by rw [h]; rfl
  simp (disch := decide) only [e, extract_low, extract_high, extract_whole, and_self]

theorem layout_8_8_1_1_6 (x0 : BitVec 8) (x1 : BitVec 8) (x2 : BitVec 8) (x3 : BitVec 1) (x4 : BitVec 1) (x5 : BitVec 6) (W : Word) (h : W = x0 ++ x1 ++ x2 ++ x3 ++ x4 ++ x5) :
    field W 28 4 = x0.extractLsb' 4 4 ∧ field W 24 4 = x0.extractLsb' 0 4 ∧ field W 16 8 = x1 ∧ field W 8 8 = x2 ∧ field W 7 1 = x3 ∧ field W 6 1 = x4 ∧ field W 0 6 = x5 := by
  have e : ∀ lo k, field W lo k = BitVec.extractLsb' lo k (x0 ++ x1 ++ x2 ++ x3 ++ x4 ++ x5) := fun _ _ => by rw [h]; rfl
  simp (disch := decide) only [e, extract_low, extract_high, extract_whole, and_self]

theorem layout_8_8_2_6 (x0 : BitVec 8) (x1 : BitVec 8) (x2 : BitVec 8) (x3 : BitVec 2) (x4 : BitVec 6) (W : Word) (h : W = x0 ++ x1 ++ x2 ++ x3 ++ x4) :
    field W 28 4 = x0.extractLsb' 4 4 ∧ field W 24 4 = x0.extractLsb' 0 4 ∧ field W 16 8 = x1 ∧ field W 8 8 = x2 ∧ field W 6 2 = x3 ∧ field W 0 6 = x4 := by
  have e : ∀ lo k, field W lo k = BitVec.extractLsb' lo k (x0 ++ x1 ++ x2 ++ x3 ++ x4) := fun _ _ => by rw [h]; rfl
  simp (disch := decide) only [e, extract_low, extract_high, extract_whole, and_self]

theorem layout_8_8_7_1 (x0 : BitVec 8) (x1 : BitVec 8) (x2 : BitVec 8) (x3 : BitVec 7) (x4 : BitVec 1) (W : Word) (h : W = x0 ++ x1 ++ x2 ++ x3 ++ x4) :
    field W 28 4 = x0.extractLsb' 4 4 ∧ field W 24 4 = x0.extractLsb' 0 4 ∧ field W 16 8 = x1 ∧ field W 8 8 = x2 ∧ field W 1 7 = x3 ∧ field W 0 1 = x4 := by
  have e : ∀ lo k, field W lo k = BitVec.extractLsb' lo k (x0 ++ x1 ++ x2 ++ x3 ++ x4) := fun _ _ => by rw [h]; rfl
  simp (disch := decide) only [e, extract_low, extract_high, extract_whole, and_self]

theorem layout_7_1_8_1_1_6 (x0 : BitVec 8) (x1 : BitVec 7) (x2 : BitVec 1) (x3 : BitVec 8) (x4 : BitVec 1) (x5 : BitVec 1) (x6 : BitVec 6) (W : Word) (h : W = x0 ++ x1 ++ x2 ++ x3 ++ x4 ++ x5 ++ x6) :
    field W 28 4 = x0.extractLsb' 4 4 ∧ field W 24 4 = x0.extractLsb' 0 4 ∧ field W 17 7 = x1 ∧ field W 16 1 = x2 ∧ field W 8 8 = x3 ∧ field W 7 1 = x4 ∧ field W 6 1 = x5 ∧ field W 0 6 = x6 := by
  have e : ∀ lo k, field W lo k = BitVec.extractLsb' lo k (x0 ++ x1 ++ x2 ++ x3 ++ x4 ++ x5 ++ x6) := fun _ _ => by rw [h]; rfl
  simp (disch := decide) only [e, extract_low, extract_high, extract_whole, and_self]

theorem layout_7_1_8_2_1_1_4 (x0 : BitVec 8) (x1 : BitVec 7) (x2 : BitVec 1) (x3 : BitVec 8) (x4 : BitVec 2) (x5 : BitVec 1) (x6 : BitVec 1) (x7 : BitVec 4) (W : Word) (h : W = x0 ++ x1 ++ x2 ++ x3 ++ x4 ++ x5 ++ x6 ++ x7) :
    field W 28 4 = x0.extractLsb' 4 4 ∧ field W 24 4 = x0.extractLsb' 0 4 ∧ field W 17 7 = x1 ∧ field W 16 1 = x2 ∧ field W 8 8 = x3 ∧ field W 6 2 = x4 ∧ field W 5 1 = x5 ∧ field W 4 1 = x6 ∧ field W 0 4 = x7 := by
  have e : ∀ lo k, field W lo k = BitVec.extractLsb' lo k (x0 ++ x1 ++ x2 ++ x3 ++ x4 ++ x5 ++ x6 ++ x7) := fun _ _ => by rw [h]; rfl
  simp (disch := decide) only [e, extract_low, extract_high, extract_whole, and_self]

theorem layout_8_8_1_1_1_1_1_1_2 (x0 : BitVec 8) (x1 : BitVec 8) (x2 : BitVec 8) (x3 : BitVec 1) (x4 : BitVec 1) (x5 : BitVec 1) (x6 : BitVec 1) (x7 : BitVec 1) (x8 : BitVec 1) (x9 : BitVec 2) (W : Word) (h : W = x0 ++ x1 ++ x2 ++ x3 ++ x4 ++ x5 ++ x6 ++ x7 ++ x8 ++ x9) :
    field W 28 4 = x0.extractLsb' 4 4 ∧ field W 24 4 = x0.extractLsb' 0 4 ∧ field W 16 8 = x1 ∧ field W 8 8 = x2 ∧ field W 7 1 = x3 ∧ field W 6 1 = x4 ∧ field W 5 1 = x5 ∧ field W 4 1 = x6 ∧ field W 3 1 = x7 ∧ field W 2 1 = x8 ∧ field W 0 2 = x9 := by
  have e : ∀ lo k, field W lo k = BitVec.extractLsb' lo k (x0 ++ x1 ++ x2 ++ x3 ++ x4 ++ x5 ++ x6 ++ x7 ++ x8 ++ x9) := fun _ _ => by rw [h]; rfl
  simp (disch := decide) only [e, extract_low, extract_high, extract_whole, and_self]

theorem layout_8_8_2_1_1_1_2_1 (x0 : BitVec 8) (x1 : BitVec 8) (x2 : BitVec 8) (x3 : BitVec 2) (x4 : BitVec 1) (x5 : BitVec 1) (x6 : BitVec 1) (x7 : BitVec 2) (x8 : BitVec 1) (W : Word) (h : W = x0 ++ x1 ++ x2 ++ x3 ++ x4 ++ x5 ++ x6 ++ x7 ++ x8) :
    field W 28 4 = x0.extractLsb' 4 4 ∧ field W 24 4 = x0.extractLsb' 0 4 ∧ field W 16 8 = x1 ∧ field W 8 8 = x2 ∧ field W 6 2 = x3 ∧ field W 5 1 = x4 ∧ field W 4 1 = x5 ∧ field W 3 1 = x6 ∧ field W 1 2 = x7 ∧ field W 0 1 = x8 := by
  have e : ∀ lo k, field W lo k = BitVec.extractLsb' lo k (x0 ++ x1 ++ x2 ++ x3 ++ x4 ++ x5 ++ x6 ++ x7 ++ x8) := fun _ _ => by rw [h]; rfl
  simp (disch := decide) only [e, extract_low, extract_high, extract_whole, and_self]

theorem layout_4_4_8_8 (x0 : BitVec 8) (x1 : BitVec 4) (x2 : BitVec 4) (x3 : BitVec 8) (x4 : BitVec 8) (W : Word) (h : W = x0 ++ x1 ++ x2 ++ x3 ++ x4) :
    field W 28 4 = x0.extractLsb' 4 4 ∧ field W 24 4 = x0.extractLsb' 0 4 ∧ field W 20 4 = x1 ∧ field W 16 4 = x2 ∧ field W 8 8 = x3 ∧ field W 0 8 = x4 := by
  have e : ∀ lo k, field W lo k = BitVec.extractLsb' lo k (x0 ++ x1 ++ x2 ++ x3 ++ x4) := fun _ _ => by rw [h]; rfl
  simp (disch := decide) only [e, extract_low, extract_high, extract_whole, and_self]

theorem layout_4_4_8_2_6 (x0 : BitVec 8) (x1 : BitVec 4) (x2 : BitVec 4) (x3 : BitVec 8) (x4 : BitVec 2) (x5 : BitVec 6) (W : Word) (h : W = x0 ++ x1 ++ x2 ++ x3 ++ x4 ++ x5) :
    field W 28 4 = x0.extractLsb' 4 4 ∧ field W 24 4 = x0.extractLsb' 0 4 ∧ field W 20 4 = x1 ∧ field W 16 4 = x2 ∧ field W 8 8 = x3 ∧ field W 6 2 = x4 ∧ field W 0 6 = x5 := by
  have e : ∀ lo k, field W lo k = BitVec.extractLsb' lo k (x0 ++ x1 ++ x2 ++ x3 ++ x4 ++ x5) := fun _ _ => by rw [h]; rfl
  simp (disch := decide) only [e, extract_low, extract_high, extract_whole, and_self]

theorem layout_1_7_8_1_7 (x0 : BitVec 8) (x1 : BitVec 1) (x2 : BitVec 7) (x3 : BitVec 8) (x4 : BitVec 1) (x5 : BitVec 7) (W : Word) (h : W = x0 ++ x1 ++ x2 ++ x3 ++ x4 ++ x5) :
    field W 28 4 = x0.extractLsb' 4 4 ∧ field W 24 4 = x0.extractLsb' 0 4 ∧ field W 23 1 = x1 ∧ field W 16 7 = x2 ∧ field W 8 8 = x3 ∧ field W 7 1 = x4 ∧ field W 0 7 = x5 := by
  have e : ∀ lo k, field W lo k = BitVec.extractLsb' lo k (x0 ++ x1 ++ x2 ++ x3 ++ x4 ++ x5) := fun _ _ => by rw [h]; rfl
  simp (disch := decide) only [e, extract_low, extract_high, extract_whole, and_self]

theorem layout_2_6_8_8 (x0 : BitVec 8) (x1 : BitVec 2) (x2 : BitVec 6) (x3 : BitVec 8) (x4 : BitVec 8) (W : Word) (h : W = x0 ++ x1 ++ x2 ++ x3 ++ x4) :
    field W 28 4 = x0.extractLsb' 4 4 ∧ field W 24 4 = x0.extractLsb' 0 4 ∧ field W 22 2 = x1 ∧ field W 16 6 = x2 ∧ field W 8 8 = x3 ∧ field W 0 8 = x4 := by
  have e : ∀ lo k, field W lo k = BitVec.extractLsb' lo k (x0 ++ x1 ++ x2 ++ x3 ++ x4) := fun _ _ => by rw [h]; rfl
  simp (disch := decide) only [e, extract_low, extract_high, extract_whole, and_self]

theorem layout_2_6_8_7_1 (x0 : BitVec 8) (x1 : BitVec 2) (x2 : BitVec 6) (x3 : BitVec 8) (x4 : BitVec 7) (x5 : BitVec 1) (W : Word) (h : W = x0 ++ x1 ++ x2 ++ x3 ++ x4 ++ x5) :
    field W 28 4 = x0.extractLsb' 4 4 ∧ field W 24 4 = x0.extractLsb' 0 4 ∧ field W 22 2 = x1 ∧ field W 16 6 = x2 ∧ field W 8 8 = x3 ∧ field W 1 7 = x4 ∧ field W 0 1 = x5 := by
  have e : ∀ lo k, field W lo k = BitVec.extractLsb' lo k (x0 ++ x1 ++ x2 ++ x3 ++ x4 ++ x5) := fun _ _ => by rw [h]; rfl
  simp (disch := decide) only [e, extract_low, extract_high, extract_whole, and_self]

theorem layout_22_1_1 (x0 : BitVec 8) (x1 : BitVec 22) (x2 : BitVec 1) (x3 : BitVec 1) (W : Word) (h : W = x0 ++ x1 ++ x2 ++ x3) :
    field W 28 4 = x0.extractLsb' 4 4 ∧ field W 24 4 = x0.extractLsb' 0 4 ∧ field W 2 22 = x1 ∧ field W 1 1 = x2 ∧ field W 0 1 = x3 := by
  have e : ∀ lo k, field W lo k = BitVec.extractLsb' lo k (x0 ++ x1 ++ x2 ++ x3) := fun _ _ => by rw [h]; rfl
  simp (disch := decide) only [e, extract_low, extract_high, extract_whole, and_self]

theorem layout_1_7_8_5_3 (x0 : BitVec 8) (x1 : BitVec 1) (x2 : BitVec 7) (x3 : BitVec 8) (x4 : BitVec 5) (x5 : BitVec 3) (W : Word) (h : W = x0 ++ x1 ++ x2 ++ x3 ++ x4 ++ x5) :
    field W 28 4 = x0.extractLsb' 4 4 ∧ field W 24 4 = x0.extractLsb' 0 4 ∧ field W 23 1 = x1 ∧ field W 16 7 = x2 ∧ field W 8 8 = x3 ∧ field W 3 5 = x4 ∧ field W 0 3 = x5 := by
  have e : ∀ lo k, field W lo k = BitVec.extractLsb' lo k (x0 ++ x1 ++ x2 ++ x3 ++ x4 ++ x5) := fun _ _ => by rw [h]; rfl
  simp (disch := decide) only [e, extract_low, extract_high, extract_whole, and_self]

theorem layout_2_3_3_8_1_1_1_5 (x0 : BitVec 8) (x1 : BitVec 2) (x2 : BitVec 3) (x3 : BitVec 3) (x4 : BitVec 8) (x5 : BitVec 1) (x6 : BitVec 1) (x7 : BitVec 1) (x8 : BitVec 5) (W : Word) (h : W = x0 ++ x1 ++ x2 ++ x3 ++ x4 ++ x5 ++ x6 ++ x7 ++ x8) :
    field W 28 4 = x0.extractLsb' 4 4 ∧ field W 24 4 = x0.extractLsb' 0 4 ∧ field W 22 2 = x1 ∧ field W 19 3 = x2 ∧ field W 16 3 = x3 ∧ field W 8 8 = x4 ∧ field W 7 1 = x5 ∧ field W 6 1 = x6 ∧ field W 5 1 = x7 ∧ field W 0 5 = x8 := by
  have e : ∀ lo k, field W lo k = BitVec.extractLsb' lo k (x0 ++ x1 ++ x2 ++ x3 ++ x4 ++ x5 ++ x6 ++ x7 ++ x8) := fun _ _ => by rw [h]; rfl
  simp (disch := decide) only [e, extract_low, extract_high, extract_whole, and_self]

theorem layout_5_3_8_3_1_1_3 (x0 : BitVec 8) (x1 : BitVec 5) (x2 : BitVec 3) (x3 : BitVec 8) (x4 : BitVec 3) (x5 : BitVec 1) (x6 : BitVec 1) (x7 : BitVec 3) (W : Word) (h : W = x0 ++ x1 ++ x2 ++ x3 ++ x4 ++ x5 ++ x6 ++ x7) :
    field W 28 4 = x0.extractLsb' 4 4 ∧ field W 24 4 = x0.extractLsb' 0 4 ∧ field W 19 5 = x1 ∧ field W 16 3 = x2 ∧ field W 8 8 = x3 ∧ field W 5 3 = x4 ∧ field W 4 1 = x5 ∧ field W 3 1 = x6 ∧ field W 0 3 = x7 := by
  have e : ∀ lo k, field W lo k = BitVec.extractLsb' lo k (x0 ++ x1 ++ x2 ++ x3 ++ x4 ++ x5 ++ x6 ++ x7) := fun _ _ => by rw [h]; rfl
  simp (disch := decide) only [e, extract_low, extract_high, extract_whole, and_self]

theorem layout_5_3_8_8 (x0 : BitVec 8) (x1 : BitVec 5) (x2 : BitVec 3) (x3 : BitVec 8) (x4 : BitVec 8) (W : Word) (h : W = x0 ++ x1 ++ x2 ++ x3 ++ x4) :
    field W 28 4 = x0.extractLsb' 4 4 ∧ field W 24 4 = x0.extractLsb' 0 4 ∧ field W 19 5 = x1 ∧ field W 16 3 = x2 ∧ field W 8 8 = x3 ∧ field W 0 8 = x4 := by
  have e : ∀ lo k, field W lo k = BitVec.extractLsb' lo k (x0 ++ x1 ++ x2 ++ x3 ++ x4) := fun _ _ => by rw [h]; rfl
  simp (disch := decide) only [e, extract_low, extract_high, extract_whole, and_self]

theorem layout_8_8_6_2 (x0 : BitVec 8) (x1 : BitVec 8) (x2 : BitVec 8) (x3 : BitVec 6) (x4 : BitVec 2) (W : Word) (h : W = x0 ++ x1 ++ x2 ++ x3 ++ x4) :
    field W 28 4 = x0.extractLsb' 4 4 ∧ field W 24 4 = x0.extractLsb' 0 4 ∧ field W 16 8 = x1 ∧ field W 8 8 = x2 ∧ field W 2 6 = x3 ∧ field W 0 2 = x4 := by
  have e : ∀ lo k, field W lo k = BitVec.extractLsb' lo k (x0 ++ x1 ++ x2 ++ x3 ++ x4) := fun _ _ => by rw [h]; rfl
  simp (disch := decide) only [e, extract_low, extract_high, extract_whole, and_self]

theorem layout_10_6_8 (x0 : BitVec 8) (x1 : BitVec 10) (x2 : BitVec 6) (x3 : BitVec 8) (W : Word) (h : W = x0 ++ x1 ++ x2 ++ x3) :
    field W 28 4 = x0.extractLsb' 4 4 ∧ field W 24 4 = x0.extractLsb' 0 4 ∧ field W 14 10 = x1 ∧ field W 8 6 = x2 ∧ field W 0 8 = x3 := by
  have e : ∀ lo k, field W lo k = BitVec.extractLsb' lo k (x0 ++ x1 ++ x2 ++ x3) := fun _ _ => by rw [h]; rfl
  simp (disch := decide) only [e, extract_low, extract_high, extract_whole, and_self]

theorem layout_7_3_3_7_4 (x0 : BitVec 8) (x1 : BitVec 7) (x2 : BitVec 3) (x3 : BitVec 3) (x4 : BitVec 7) (x5 : BitVec 4) (W : Word) (h : W = x0 ++ x1 ++ x2 ++ x3 ++ x4 ++ x5) :
    field W 28 4 = x0.extractLsb' 4 4 ∧ field W 24 4 = x0.extractLsb' 0 4 ∧ field W 17 7 = x1 ∧ field W 14 3 = x2 ∧ field W 11 3 = x3 ∧ field W 4 7 = x4 ∧ field W 0 4 = x5 := by
  have e : ∀ lo k, field W lo k = BitVec.extractLsb' lo k (x0 ++ x1 ++ x2 ++ x3 ++ x4 ++ x5) := fun _ _ => by rw [h]; rfl
  simp (disch := decide) only [e, extract_low, extract_high, extract_whole, and_self]

theorem layout_21_3 (x0 : BitVec 8) (x1 : BitVec 21) (x2 : BitVec 3) (W : Word) (h : W = x0 ++ x1 ++ x2) :
    field W 28 4 = x0.extractLsb' 4 4 ∧ field W 24 4 = x0.extractLsb' 0 4 ∧ field W 3 21 = x1 ∧ field W 0 3 = x2 := by
  have e : ∀ lo k, field W lo k = BitVec.extractLsb' lo k (x0 ++ x1 ++ x2) := fun _ _ => by rw [h]; rfl
  simp (disch := decide) only [e, extract_low, extract_high, extract_whole, and_self]

theorem layout_15_6_3 (x0 : BitVec 8) (x1 : BitVec 15) (x2 : BitVec 6) (x3 : BitVec 3) (W : Word) (h : W = x0 ++ x1 ++ x2 ++ x3) :
    field W 28 4 = x0.extractLsb' 4 4 ∧ field W 24 4 = x0.extractLsb' 0 4 ∧ field W 9 15 = x1 ∧ field W 3 6 = x2 ∧ field W 0 3 = x3 := by
  have e : ∀ lo k, field W lo k = BitVec.extractLsb' lo k (x0 ++ x1 ++ x2 ++ x3) := fun _ _ => by rw [h]; rfl
  simp (disch := decide) only [e, extract_low, extract_high, extract_whole, and_self]

theorem layout_7_3_2_1_7_4 (x0 : BitVec 8) (x1 : BitVec 7) (x2 : BitVec 3) (x3 : BitVec 2) (x4 : BitVec 1) (x5 : BitVec 7) (x6 : BitVec 4) (W : Word) (h : W = x0 ++ x1 ++ x2 ++ x3 ++ x4 ++ x5 ++ x6) :
    field W 28 4 = x0.extractLsb' 4 4 ∧ field W 24 4 = x0.extractLsb' 0 4 ∧ field W 17 7 = x1 ∧ field W 14 3 = x2 ∧ field W 12 2 = x3 ∧ field W 11 1 = x4 ∧ field W 4 7 = x5 ∧ field W 0 4 = x6 := by
  have e : ∀ lo k, field W lo k = BitVec.extractLsb' lo k (x0 ++ x1 ++ x2 ++ x3 ++ x4 ++ x5 ++ x6) := fun _ _ => by rw [h]; rfl
  simp (disch := decide) only [e, extract_low, extract_high, extract_whole, and_self]

theorem layout_8_16 (x0 : BitVec 8) (x1 : BitVec 8) (x2 : BitVec 16) (W : Word) (h : W = x0 ++ x1 ++ x2) :
    field W 28 4 = x0.extractLsb' 4 4 ∧ field W 24 4 = x0.extractLsb' 0 4 ∧ field W 16 8 = x1 ∧ field W 0 16 = x2 := by
  have e : ∀ lo k, field W lo k = BitVec.extractLsb' lo k (x0 ++ x1 ++ x2) := fun _ _ => by rw [h]; rfl
  simp (disch := decide) only [e, extract_low, extract_high, extract_whole, and_self]

theorem layout_3_3_6_1_1_1_9 (x0 : BitVec 8) (x1 : BitVec 3) (x2 : BitVec 3) (x3 : BitVec 6) (x4 : BitVec 1) (x5 : BitVec 1) (x6 : BitVec 1) (x7 : BitVec 9) (W : Word) (h : W = x0 ++ x1 ++ x2 ++ x3 ++ x4 ++ x5 ++ x6 ++ x7) :
    field W 28 4 = x0.extractLsb' 4 4 ∧ field W 24 4 = x0.extractLsb' 0 4 ∧ field W 21 3 = x1 ∧ field W 18 3 = x2 ∧ field W 12 6 = x3 ∧ field W 11 1 = x4 ∧ field W 10 1 = x5 ∧ field W 9 1 = x6 ∧ field W 0 9 = x7 := by
  have e : ∀ lo k, field W lo k = BitVec.extractLsb' lo k (x0 ++ x1 ++ x2 ++ x3 ++ x4 ++ x5 ++ x6 ++ x7) := fun _ _ => by rw [h]; rfl
  simp (disch := decide) only [e, extract_low, extract_high, extract_whole, and_self]

theorem layout_6_1_3_14 (x0 : BitVec 8) (x1 : BitVec 6) (x2 : BitVec 1) (x3 : BitVec 3) (x4 : BitVec 14) (W : Word) (h : W = x0 ++ x1 ++ x2 ++ x3 ++ x4) :
    field W 28 4 = x0.extractLsb' 4 4 ∧ field W 24 4 = x0.extractLsb' 0 4 ∧ field W 18 6 = x1 ∧ field W 17 1 = x2 ∧ field W 14 3 = x3 ∧ field W 0 14 = x4 := by
  have e : ∀ lo k, field W lo k = BitVec.extractLsb' lo k (x0 ++ x1 ++ x2 ++ x3 ++ x4) := fun _ _ => by rw [h]; rfl
  simp (disch := decide) only [e, extract_low, extract_high, extract_whole, and_self]

theorem layout_2_22 (x0 : BitVec 8) (x1 : BitVec 2) (x2 : BitVec 22) (W : Word) (h : W = x0 ++ x1 ++ x2) :
    field W 28 4 = x0.extractLsb' 4 4 ∧ field W 24 4 = x0.extractLsb' 0 4 ∧ field W 22 2 = x1 ∧ field W 0 22 = x2 := by
  have e : ∀ lo k, field W lo k = BitVec.extractLsb' lo k (x0 ++ x1 ++ x2) := fun _ _ => by rw [h]; rfl
  simp (disch := decide) only [e, extract_low, extract_high, extract_whole, and_self]

theorem layout_1_6_17 (x0 : BitVec 8) (x1 : BitVec 1) (x2 : BitVec 6) (x3 : BitVec 17) (W : Word) (h : W = x0 ++ x1 ++ x2 ++ x3) :
    field W 28 4 = x0.extractLsb' 4 4 ∧ field W 24 4 = x0.extractLsb' 0 4 ∧ field W 23 1 = x1 ∧ field W 17 6 = x2 ∧ field W 0 17 = x3 := by
  have e : ∀ lo k, field W lo k = BitVec.extractLsb' lo k (x0 ++ x1 ++ x2 ++ x3) := fun _ _ => by rw [h]; rfl
  simp (disch := decide) only [e, extract_low, extract_high, extract_whole, and_self]

end Sys2Proof.Laws
end

