-- ==== Sys2Proof/Laws/State.lean ====
section
/-! SUPPORT. What each update of the state leaves and what it sets: one lemma per field and update. -/

namespace Sys2Proof.Machine

section
variable (s : State) (k : Nat) (t : Thread)

@[simp] theorem State.setThread_mgmt : (s.setThread k t).mgmt = s.mgmt := rfl
@[simp] theorem State.setThread_host : (s.setThread k t).host = s.host := rfl
@[simp] theorem State.setThread_counters : (s.setThread k t).counters = s.counters := rfl
@[simp] theorem State.setThread_mem : (s.setThread k t).mem = s.mem := rfl
@[simp] theorem State.setThread_poison : (s.setThread k t).poison = s.poison := rfl
@[simp] theorem State.setThread_found : (s.setThread k t).found = s.found := rfl
@[simp] theorem State.setThread_weak : (s.setThread k t).weak = s.weak := rfl
@[simp] theorem State.setThread_upsets : (s.setThread k t).upsets = s.upsets := rfl
@[simp] theorem State.setThread_cells : (s.setThread k t).cells = s.cells := rfl
@[simp] theorem State.setThread_tlb : (s.setThread k t).tlb = s.tlb := rfl
@[simp] theorem State.setThread_samples : (s.setThread k t).samples = s.samples := rfl
@[simp] theorem State.setThread_sampling : (s.setThread k t).sampling = s.sampling := rfl
@[simp] theorem State.setThread_order : (s.setThread k t).order = s.order := rfl
@[simp] theorem State.setThread_banks : (s.setThread k t).banks = s.banks := rfl
@[simp] theorem State.setThread_queues : (s.setThread k t).queues = s.queues := rfl
@[simp] theorem State.setThread_grids : (s.setThread k t).grids = s.grids := rfl
@[simp] theorem State.setThread_nextGrid : (s.setThread k t).nextGrid = s.nextGrid := rfl
@[simp] theorem State.setThread_reservations : (s.setThread k t).reservations = s.reservations := rfl
@[simp] theorem State.setThread_cores : (s.setThread k t).cores = s.cores := rfl
@[simp] theorem State.setThread_blocks : (s.setThread k t).blocks = s.blocks := rfl
@[simp] theorem State.setThread_clusters : (s.setThread k t).clusters = s.clusters := rfl
@[simp] theorem State.setThread_groups : (s.setThread k t).groups = s.groups := rfl
@[simp] theorem State.setThread_threads : (s.setThread k t).threads = tabSet s.threads k t := rfl
@[simp] theorem State.setThread_records : (s.setThread k t).records = s.records := rfl
@[simp] theorem State.setThread_saved : (s.setThread k t).saved = s.saved := rfl
@[simp] theorem State.setThread_migrations : (s.setThread k t).migrations = s.migrations := rfl
@[simp] theorem State.setThread_relocs : (s.setThread k t).relocs = s.relocs := rfl
@[simp] theorem State.setThread_turns : (s.setThread k t).turns = s.turns := rfl
@[simp] theorem State.setThread_issue : (s.setThread k t).issue = s.issue := rfl
@[simp] theorem State.setThread_fresh : (s.setThread k t).fresh = s.fresh := rfl
@[simp] theorem State.setThread_tick : (s.setThread k t).tick = s.tick := rfl

end

section
variable (s : State) (g : Nat) (x : Group)

@[simp] theorem State.setGroup_mgmt : (s.setGroup g x).mgmt = s.mgmt := rfl
@[simp] theorem State.setGroup_host : (s.setGroup g x).host = s.host := rfl
@[simp] theorem State.setGroup_counters : (s.setGroup g x).counters = s.counters := rfl
@[simp] theorem State.setGroup_mem : (s.setGroup g x).mem = s.mem := rfl
@[simp] theorem State.setGroup_poison : (s.setGroup g x).poison = s.poison := rfl
@[simp] theorem State.setGroup_found : (s.setGroup g x).found = s.found := rfl
@[simp] theorem State.setGroup_weak : (s.setGroup g x).weak = s.weak := rfl
@[simp] theorem State.setGroup_upsets : (s.setGroup g x).upsets = s.upsets := rfl
@[simp] theorem State.setGroup_cells : (s.setGroup g x).cells = s.cells := rfl
@[simp] theorem State.setGroup_tlb : (s.setGroup g x).tlb = s.tlb := rfl
@[simp] theorem State.setGroup_samples : (s.setGroup g x).samples = s.samples := rfl
@[simp] theorem State.setGroup_sampling : (s.setGroup g x).sampling = s.sampling := rfl
@[simp] theorem State.setGroup_order : (s.setGroup g x).order = s.order := rfl
@[simp] theorem State.setGroup_banks : (s.setGroup g x).banks = s.banks := rfl
@[simp] theorem State.setGroup_queues : (s.setGroup g x).queues = s.queues := rfl
@[simp] theorem State.setGroup_grids : (s.setGroup g x).grids = s.grids := rfl
@[simp] theorem State.setGroup_nextGrid : (s.setGroup g x).nextGrid = s.nextGrid := rfl
@[simp] theorem State.setGroup_reservations : (s.setGroup g x).reservations = s.reservations := rfl
@[simp] theorem State.setGroup_cores : (s.setGroup g x).cores = s.cores := rfl
@[simp] theorem State.setGroup_blocks : (s.setGroup g x).blocks = s.blocks := rfl
@[simp] theorem State.setGroup_clusters : (s.setGroup g x).clusters = s.clusters := rfl
@[simp] theorem State.setGroup_groups : (s.setGroup g x).groups = tabSet s.groups g x := rfl
@[simp] theorem State.setGroup_threads : (s.setGroup g x).threads = s.threads := rfl
@[simp] theorem State.setGroup_records : (s.setGroup g x).records = s.records := rfl
@[simp] theorem State.setGroup_saved : (s.setGroup g x).saved = s.saved := rfl
@[simp] theorem State.setGroup_migrations : (s.setGroup g x).migrations = s.migrations := rfl
@[simp] theorem State.setGroup_relocs : (s.setGroup g x).relocs = s.relocs := rfl
@[simp] theorem State.setGroup_turns : (s.setGroup g x).turns = s.turns := rfl
@[simp] theorem State.setGroup_issue : (s.setGroup g x).issue = s.issue := rfl
@[simp] theorem State.setGroup_fresh : (s.setGroup g x).fresh = s.fresh := rfl
@[simp] theorem State.setGroup_tick : (s.setGroup g x).tick = s.tick := rfl

end

section
variable (s : State) (b : Nat) (x : Block)

@[simp] theorem State.setBlock_mgmt : (s.setBlock b x).mgmt = s.mgmt := rfl
@[simp] theorem State.setBlock_host : (s.setBlock b x).host = s.host := rfl
@[simp] theorem State.setBlock_counters : (s.setBlock b x).counters = s.counters := rfl
@[simp] theorem State.setBlock_mem : (s.setBlock b x).mem = s.mem := rfl
@[simp] theorem State.setBlock_poison : (s.setBlock b x).poison = s.poison := rfl
@[simp] theorem State.setBlock_found : (s.setBlock b x).found = s.found := rfl
@[simp] theorem State.setBlock_weak : (s.setBlock b x).weak = s.weak := rfl
@[simp] theorem State.setBlock_upsets : (s.setBlock b x).upsets = s.upsets := rfl
@[simp] theorem State.setBlock_cells : (s.setBlock b x).cells = s.cells := rfl
@[simp] theorem State.setBlock_tlb : (s.setBlock b x).tlb = s.tlb := rfl
@[simp] theorem State.setBlock_samples : (s.setBlock b x).samples = s.samples := rfl
@[simp] theorem State.setBlock_sampling : (s.setBlock b x).sampling = s.sampling := rfl
@[simp] theorem State.setBlock_order : (s.setBlock b x).order = s.order := rfl
@[simp] theorem State.setBlock_banks : (s.setBlock b x).banks = s.banks := rfl
@[simp] theorem State.setBlock_queues : (s.setBlock b x).queues = s.queues := rfl
@[simp] theorem State.setBlock_grids : (s.setBlock b x).grids = s.grids := rfl
@[simp] theorem State.setBlock_nextGrid : (s.setBlock b x).nextGrid = s.nextGrid := rfl
@[simp] theorem State.setBlock_reservations : (s.setBlock b x).reservations = s.reservations := rfl
@[simp] theorem State.setBlock_cores : (s.setBlock b x).cores = s.cores := rfl
@[simp] theorem State.setBlock_blocks : (s.setBlock b x).blocks = tabSet s.blocks b x := rfl
@[simp] theorem State.setBlock_clusters : (s.setBlock b x).clusters = s.clusters := rfl
@[simp] theorem State.setBlock_groups : (s.setBlock b x).groups = s.groups := rfl
@[simp] theorem State.setBlock_threads : (s.setBlock b x).threads = s.threads := rfl
@[simp] theorem State.setBlock_records : (s.setBlock b x).records = s.records := rfl
@[simp] theorem State.setBlock_saved : (s.setBlock b x).saved = s.saved := rfl
@[simp] theorem State.setBlock_migrations : (s.setBlock b x).migrations = s.migrations := rfl
@[simp] theorem State.setBlock_relocs : (s.setBlock b x).relocs = s.relocs := rfl
@[simp] theorem State.setBlock_turns : (s.setBlock b x).turns = s.turns := rfl
@[simp] theorem State.setBlock_issue : (s.setBlock b x).issue = s.issue := rfl
@[simp] theorem State.setBlock_fresh : (s.setBlock b x).fresh = s.fresh := rfl
@[simp] theorem State.setBlock_tick : (s.setBlock b x).tick = s.tick := rfl

end

section
variable (s : State) (n : Nat) (x : Grid)

@[simp] theorem State.setGrid_mgmt : (s.setGrid n x).mgmt = s.mgmt := rfl
@[simp] theorem State.setGrid_host : (s.setGrid n x).host = s.host := rfl
@[simp] theorem State.setGrid_counters : (s.setGrid n x).counters = s.counters := rfl
@[simp] theorem State.setGrid_mem : (s.setGrid n x).mem = s.mem := rfl
@[simp] theorem State.setGrid_poison : (s.setGrid n x).poison = s.poison := rfl
@[simp] theorem State.setGrid_found : (s.setGrid n x).found = s.found := rfl
@[simp] theorem State.setGrid_weak : (s.setGrid n x).weak = s.weak := rfl
@[simp] theorem State.setGrid_upsets : (s.setGrid n x).upsets = s.upsets := rfl
@[simp] theorem State.setGrid_cells : (s.setGrid n x).cells = s.cells := rfl
@[simp] theorem State.setGrid_tlb : (s.setGrid n x).tlb = s.tlb := rfl
@[simp] theorem State.setGrid_samples : (s.setGrid n x).samples = s.samples := rfl
@[simp] theorem State.setGrid_sampling : (s.setGrid n x).sampling = s.sampling := rfl
@[simp] theorem State.setGrid_order : (s.setGrid n x).order = s.order := rfl
@[simp] theorem State.setGrid_banks : (s.setGrid n x).banks = s.banks := rfl
@[simp] theorem State.setGrid_queues : (s.setGrid n x).queues = s.queues := rfl
@[simp] theorem State.setGrid_grids : (s.setGrid n x).grids = tabSet s.grids n x := rfl
@[simp] theorem State.setGrid_nextGrid : (s.setGrid n x).nextGrid = s.nextGrid := rfl
@[simp] theorem State.setGrid_reservations : (s.setGrid n x).reservations = s.reservations := rfl
@[simp] theorem State.setGrid_cores : (s.setGrid n x).cores = s.cores := rfl
@[simp] theorem State.setGrid_blocks : (s.setGrid n x).blocks = s.blocks := rfl
@[simp] theorem State.setGrid_clusters : (s.setGrid n x).clusters = s.clusters := rfl
@[simp] theorem State.setGrid_groups : (s.setGrid n x).groups = s.groups := rfl
@[simp] theorem State.setGrid_threads : (s.setGrid n x).threads = s.threads := rfl
@[simp] theorem State.setGrid_records : (s.setGrid n x).records = s.records := rfl
@[simp] theorem State.setGrid_saved : (s.setGrid n x).saved = s.saved := rfl
@[simp] theorem State.setGrid_migrations : (s.setGrid n x).migrations = s.migrations := rfl
@[simp] theorem State.setGrid_relocs : (s.setGrid n x).relocs = s.relocs := rfl
@[simp] theorem State.setGrid_turns : (s.setGrid n x).turns = s.turns := rfl
@[simp] theorem State.setGrid_issue : (s.setGrid n x).issue = s.issue := rfl
@[simp] theorem State.setGrid_fresh : (s.setGrid n x).fresh = s.fresh := rfl
@[simp] theorem State.setGrid_tick : (s.setGrid n x).tick = s.tick := rfl

end

section
variable (s : State) (c : Nat) (x : Core)

@[simp] theorem State.setCore_mgmt : (s.setCore c x).mgmt = s.mgmt := rfl
@[simp] theorem State.setCore_host : (s.setCore c x).host = s.host := rfl
@[simp] theorem State.setCore_counters : (s.setCore c x).counters = s.counters := rfl
@[simp] theorem State.setCore_mem : (s.setCore c x).mem = s.mem := rfl
@[simp] theorem State.setCore_poison : (s.setCore c x).poison = s.poison := rfl
@[simp] theorem State.setCore_found : (s.setCore c x).found = s.found := rfl
@[simp] theorem State.setCore_weak : (s.setCore c x).weak = s.weak := rfl
@[simp] theorem State.setCore_upsets : (s.setCore c x).upsets = s.upsets := rfl
@[simp] theorem State.setCore_cells : (s.setCore c x).cells = s.cells := rfl
@[simp] theorem State.setCore_tlb : (s.setCore c x).tlb = s.tlb := rfl
@[simp] theorem State.setCore_samples : (s.setCore c x).samples = s.samples := rfl
@[simp] theorem State.setCore_sampling : (s.setCore c x).sampling = s.sampling := rfl
@[simp] theorem State.setCore_order : (s.setCore c x).order = s.order := rfl
@[simp] theorem State.setCore_banks : (s.setCore c x).banks = s.banks := rfl
@[simp] theorem State.setCore_queues : (s.setCore c x).queues = s.queues := rfl
@[simp] theorem State.setCore_grids : (s.setCore c x).grids = s.grids := rfl
@[simp] theorem State.setCore_nextGrid : (s.setCore c x).nextGrid = s.nextGrid := rfl
@[simp] theorem State.setCore_reservations : (s.setCore c x).reservations = s.reservations := rfl
@[simp] theorem State.setCore_cores : (s.setCore c x).cores = tabSet s.cores c x := rfl
@[simp] theorem State.setCore_blocks : (s.setCore c x).blocks = s.blocks := rfl
@[simp] theorem State.setCore_clusters : (s.setCore c x).clusters = s.clusters := rfl
@[simp] theorem State.setCore_groups : (s.setCore c x).groups = s.groups := rfl
@[simp] theorem State.setCore_threads : (s.setCore c x).threads = s.threads := rfl
@[simp] theorem State.setCore_records : (s.setCore c x).records = s.records := rfl
@[simp] theorem State.setCore_saved : (s.setCore c x).saved = s.saved := rfl
@[simp] theorem State.setCore_migrations : (s.setCore c x).migrations = s.migrations := rfl
@[simp] theorem State.setCore_relocs : (s.setCore c x).relocs = s.relocs := rfl
@[simp] theorem State.setCore_turns : (s.setCore c x).turns = s.turns := rfl
@[simp] theorem State.setCore_issue : (s.setCore c x).issue = s.issue := rfl
@[simp] theorem State.setCore_fresh : (s.setCore c x).fresh = s.fresh := rfl
@[simp] theorem State.setCore_tick : (s.setCore c x).tick = s.tick := rfl

end

section
variable (s : State) (d : Nat) (x : Die)

@[simp] theorem State.setDie_mgmt : (s.setDie d x).mgmt = { s.mgmt with dies := s.mgmt.dies.set d x } := rfl
@[simp] theorem State.setDie_host : (s.setDie d x).host = s.host := rfl
@[simp] theorem State.setDie_counters : (s.setDie d x).counters = s.counters := rfl
@[simp] theorem State.setDie_mem : (s.setDie d x).mem = s.mem := rfl
@[simp] theorem State.setDie_poison : (s.setDie d x).poison = s.poison := rfl
@[simp] theorem State.setDie_found : (s.setDie d x).found = s.found := rfl
@[simp] theorem State.setDie_weak : (s.setDie d x).weak = s.weak := rfl
@[simp] theorem State.setDie_upsets : (s.setDie d x).upsets = s.upsets := rfl
@[simp] theorem State.setDie_cells : (s.setDie d x).cells = s.cells := rfl
@[simp] theorem State.setDie_tlb : (s.setDie d x).tlb = s.tlb := rfl
@[simp] theorem State.setDie_samples : (s.setDie d x).samples = s.samples := rfl
@[simp] theorem State.setDie_sampling : (s.setDie d x).sampling = s.sampling := rfl
@[simp] theorem State.setDie_order : (s.setDie d x).order = s.order := rfl
@[simp] theorem State.setDie_banks : (s.setDie d x).banks = s.banks := rfl
@[simp] theorem State.setDie_queues : (s.setDie d x).queues = s.queues := rfl
@[simp] theorem State.setDie_grids : (s.setDie d x).grids = s.grids := rfl
@[simp] theorem State.setDie_nextGrid : (s.setDie d x).nextGrid = s.nextGrid := rfl
@[simp] theorem State.setDie_reservations : (s.setDie d x).reservations = s.reservations := rfl
@[simp] theorem State.setDie_cores : (s.setDie d x).cores = s.cores := rfl
@[simp] theorem State.setDie_blocks : (s.setDie d x).blocks = s.blocks := rfl
@[simp] theorem State.setDie_clusters : (s.setDie d x).clusters = s.clusters := rfl
@[simp] theorem State.setDie_groups : (s.setDie d x).groups = s.groups := rfl
@[simp] theorem State.setDie_threads : (s.setDie d x).threads = s.threads := rfl
@[simp] theorem State.setDie_records : (s.setDie d x).records = s.records := rfl
@[simp] theorem State.setDie_saved : (s.setDie d x).saved = s.saved := rfl
@[simp] theorem State.setDie_migrations : (s.setDie d x).migrations = s.migrations := rfl
@[simp] theorem State.setDie_relocs : (s.setDie d x).relocs = s.relocs := rfl
@[simp] theorem State.setDie_turns : (s.setDie d x).turns = s.turns := rfl
@[simp] theorem State.setDie_issue : (s.setDie d x).issue = s.issue := rfl
@[simp] theorem State.setDie_fresh : (s.setDie d x).fresh = s.fresh := rfl
@[simp] theorem State.setDie_tick : (s.setDie d x).tick = s.tick := rfl

end

section
variable (s : State) (d : Nat) (x : Stack)

@[simp] theorem State.setStack_mgmt : (s.setStack d x).mgmt = { s.mgmt with hbm := s.mgmt.hbm.set d x } := rfl
@[simp] theorem State.setStack_host : (s.setStack d x).host = s.host := rfl
@[simp] theorem State.setStack_counters : (s.setStack d x).counters = s.counters := rfl
@[simp] theorem State.setStack_mem : (s.setStack d x).mem = s.mem := rfl
@[simp] theorem State.setStack_poison : (s.setStack d x).poison = s.poison := rfl
@[simp] theorem State.setStack_found : (s.setStack d x).found = s.found := rfl
@[simp] theorem State.setStack_weak : (s.setStack d x).weak = s.weak := rfl
@[simp] theorem State.setStack_upsets : (s.setStack d x).upsets = s.upsets := rfl
@[simp] theorem State.setStack_cells : (s.setStack d x).cells = s.cells := rfl
@[simp] theorem State.setStack_tlb : (s.setStack d x).tlb = s.tlb := rfl
@[simp] theorem State.setStack_samples : (s.setStack d x).samples = s.samples := rfl
@[simp] theorem State.setStack_sampling : (s.setStack d x).sampling = s.sampling := rfl
@[simp] theorem State.setStack_order : (s.setStack d x).order = s.order := rfl
@[simp] theorem State.setStack_banks : (s.setStack d x).banks = s.banks := rfl
@[simp] theorem State.setStack_queues : (s.setStack d x).queues = s.queues := rfl
@[simp] theorem State.setStack_grids : (s.setStack d x).grids = s.grids := rfl
@[simp] theorem State.setStack_nextGrid : (s.setStack d x).nextGrid = s.nextGrid := rfl
@[simp] theorem State.setStack_reservations : (s.setStack d x).reservations = s.reservations := rfl
@[simp] theorem State.setStack_cores : (s.setStack d x).cores = s.cores := rfl
@[simp] theorem State.setStack_blocks : (s.setStack d x).blocks = s.blocks := rfl
@[simp] theorem State.setStack_clusters : (s.setStack d x).clusters = s.clusters := rfl
@[simp] theorem State.setStack_groups : (s.setStack d x).groups = s.groups := rfl
@[simp] theorem State.setStack_threads : (s.setStack d x).threads = s.threads := rfl
@[simp] theorem State.setStack_records : (s.setStack d x).records = s.records := rfl
@[simp] theorem State.setStack_saved : (s.setStack d x).saved = s.saved := rfl
@[simp] theorem State.setStack_migrations : (s.setStack d x).migrations = s.migrations := rfl
@[simp] theorem State.setStack_relocs : (s.setStack d x).relocs = s.relocs := rfl
@[simp] theorem State.setStack_turns : (s.setStack d x).turns = s.turns := rfl
@[simp] theorem State.setStack_issue : (s.setStack d x).issue = s.issue := rfl
@[simp] theorem State.setStack_fresh : (s.setStack d x).fresh = s.fresh := rfl
@[simp] theorem State.setStack_tick : (s.setStack d x).tick = s.tick := rfl

end

section
variable (s : State) (k : Nat) (f : Thread → Thread)

@[simp] theorem State.modThread_mgmt : (s.modThread k f).mgmt = s.mgmt := rfl
@[simp] theorem State.modThread_host : (s.modThread k f).host = s.host := rfl
@[simp] theorem State.modThread_counters : (s.modThread k f).counters = s.counters := rfl
@[simp] theorem State.modThread_mem : (s.modThread k f).mem = s.mem := rfl
@[simp] theorem State.modThread_poison : (s.modThread k f).poison = s.poison := rfl
@[simp] theorem State.modThread_found : (s.modThread k f).found = s.found := rfl
@[simp] theorem State.modThread_weak : (s.modThread k f).weak = s.weak := rfl
@[simp] theorem State.modThread_upsets : (s.modThread k f).upsets = s.upsets := rfl
@[simp] theorem State.modThread_cells : (s.modThread k f).cells = s.cells := rfl
@[simp] theorem State.modThread_tlb : (s.modThread k f).tlb = s.tlb := rfl
@[simp] theorem State.modThread_samples : (s.modThread k f).samples = s.samples := rfl
@[simp] theorem State.modThread_sampling : (s.modThread k f).sampling = s.sampling := rfl
@[simp] theorem State.modThread_order : (s.modThread k f).order = s.order := rfl
@[simp] theorem State.modThread_banks : (s.modThread k f).banks = s.banks := rfl
@[simp] theorem State.modThread_queues : (s.modThread k f).queues = s.queues := rfl
@[simp] theorem State.modThread_grids : (s.modThread k f).grids = s.grids := rfl
@[simp] theorem State.modThread_nextGrid : (s.modThread k f).nextGrid = s.nextGrid := rfl
@[simp] theorem State.modThread_reservations : (s.modThread k f).reservations = s.reservations := rfl
@[simp] theorem State.modThread_cores : (s.modThread k f).cores = s.cores := rfl
@[simp] theorem State.modThread_blocks : (s.modThread k f).blocks = s.blocks := rfl
@[simp] theorem State.modThread_clusters : (s.modThread k f).clusters = s.clusters := rfl
@[simp] theorem State.modThread_groups : (s.modThread k f).groups = s.groups := rfl
@[simp] theorem State.modThread_threads : (s.modThread k f).threads = tabModify s.threads k f := rfl
@[simp] theorem State.modThread_records : (s.modThread k f).records = s.records := rfl
@[simp] theorem State.modThread_saved : (s.modThread k f).saved = s.saved := rfl
@[simp] theorem State.modThread_migrations : (s.modThread k f).migrations = s.migrations := rfl
@[simp] theorem State.modThread_relocs : (s.modThread k f).relocs = s.relocs := rfl
@[simp] theorem State.modThread_turns : (s.modThread k f).turns = s.turns := rfl
@[simp] theorem State.modThread_issue : (s.modThread k f).issue = s.issue := rfl
@[simp] theorem State.modThread_fresh : (s.modThread k f).fresh = s.fresh := rfl
@[simp] theorem State.modThread_tick : (s.modThread k f).tick = s.tick := rfl

end

section
variable (s : State) (g : Nat) (f : Group → Group)

@[simp] theorem State.modGroup_mgmt : (s.modGroup g f).mgmt = s.mgmt := rfl
@[simp] theorem State.modGroup_host : (s.modGroup g f).host = s.host := rfl
@[simp] theorem State.modGroup_counters : (s.modGroup g f).counters = s.counters := rfl
@[simp] theorem State.modGroup_mem : (s.modGroup g f).mem = s.mem := rfl
@[simp] theorem State.modGroup_poison : (s.modGroup g f).poison = s.poison := rfl
@[simp] theorem State.modGroup_found : (s.modGroup g f).found = s.found := rfl
@[simp] theorem State.modGroup_weak : (s.modGroup g f).weak = s.weak := rfl
@[simp] theorem State.modGroup_upsets : (s.modGroup g f).upsets = s.upsets := rfl
@[simp] theorem State.modGroup_cells : (s.modGroup g f).cells = s.cells := rfl
@[simp] theorem State.modGroup_tlb : (s.modGroup g f).tlb = s.tlb := rfl
@[simp] theorem State.modGroup_samples : (s.modGroup g f).samples = s.samples := rfl
@[simp] theorem State.modGroup_sampling : (s.modGroup g f).sampling = s.sampling := rfl
@[simp] theorem State.modGroup_order : (s.modGroup g f).order = s.order := rfl
@[simp] theorem State.modGroup_banks : (s.modGroup g f).banks = s.banks := rfl
@[simp] theorem State.modGroup_queues : (s.modGroup g f).queues = s.queues := rfl
@[simp] theorem State.modGroup_grids : (s.modGroup g f).grids = s.grids := rfl
@[simp] theorem State.modGroup_nextGrid : (s.modGroup g f).nextGrid = s.nextGrid := rfl
@[simp] theorem State.modGroup_reservations : (s.modGroup g f).reservations = s.reservations := rfl
@[simp] theorem State.modGroup_cores : (s.modGroup g f).cores = s.cores := rfl
@[simp] theorem State.modGroup_blocks : (s.modGroup g f).blocks = s.blocks := rfl
@[simp] theorem State.modGroup_clusters : (s.modGroup g f).clusters = s.clusters := rfl
@[simp] theorem State.modGroup_groups : (s.modGroup g f).groups = tabModify s.groups g f := rfl
@[simp] theorem State.modGroup_threads : (s.modGroup g f).threads = s.threads := rfl
@[simp] theorem State.modGroup_records : (s.modGroup g f).records = s.records := rfl
@[simp] theorem State.modGroup_saved : (s.modGroup g f).saved = s.saved := rfl
@[simp] theorem State.modGroup_migrations : (s.modGroup g f).migrations = s.migrations := rfl
@[simp] theorem State.modGroup_relocs : (s.modGroup g f).relocs = s.relocs := rfl
@[simp] theorem State.modGroup_turns : (s.modGroup g f).turns = s.turns := rfl
@[simp] theorem State.modGroup_issue : (s.modGroup g f).issue = s.issue := rfl
@[simp] theorem State.modGroup_fresh : (s.modGroup g f).fresh = s.fresh := rfl
@[simp] theorem State.modGroup_tick : (s.modGroup g f).tick = s.tick := rfl

end

section
variable (s : State) (b : Nat) (f : Block → Block)

@[simp] theorem State.modBlock_mgmt : (s.modBlock b f).mgmt = s.mgmt := rfl
@[simp] theorem State.modBlock_host : (s.modBlock b f).host = s.host := rfl
@[simp] theorem State.modBlock_counters : (s.modBlock b f).counters = s.counters := rfl
@[simp] theorem State.modBlock_mem : (s.modBlock b f).mem = s.mem := rfl
@[simp] theorem State.modBlock_poison : (s.modBlock b f).poison = s.poison := rfl
@[simp] theorem State.modBlock_found : (s.modBlock b f).found = s.found := rfl
@[simp] theorem State.modBlock_weak : (s.modBlock b f).weak = s.weak := rfl
@[simp] theorem State.modBlock_upsets : (s.modBlock b f).upsets = s.upsets := rfl
@[simp] theorem State.modBlock_cells : (s.modBlock b f).cells = s.cells := rfl
@[simp] theorem State.modBlock_tlb : (s.modBlock b f).tlb = s.tlb := rfl
@[simp] theorem State.modBlock_samples : (s.modBlock b f).samples = s.samples := rfl
@[simp] theorem State.modBlock_sampling : (s.modBlock b f).sampling = s.sampling := rfl
@[simp] theorem State.modBlock_order : (s.modBlock b f).order = s.order := rfl
@[simp] theorem State.modBlock_banks : (s.modBlock b f).banks = s.banks := rfl
@[simp] theorem State.modBlock_queues : (s.modBlock b f).queues = s.queues := rfl
@[simp] theorem State.modBlock_grids : (s.modBlock b f).grids = s.grids := rfl
@[simp] theorem State.modBlock_nextGrid : (s.modBlock b f).nextGrid = s.nextGrid := rfl
@[simp] theorem State.modBlock_reservations : (s.modBlock b f).reservations = s.reservations := rfl
@[simp] theorem State.modBlock_cores : (s.modBlock b f).cores = s.cores := rfl
@[simp] theorem State.modBlock_blocks : (s.modBlock b f).blocks = tabModify s.blocks b f := rfl
@[simp] theorem State.modBlock_clusters : (s.modBlock b f).clusters = s.clusters := rfl
@[simp] theorem State.modBlock_groups : (s.modBlock b f).groups = s.groups := rfl
@[simp] theorem State.modBlock_threads : (s.modBlock b f).threads = s.threads := rfl
@[simp] theorem State.modBlock_records : (s.modBlock b f).records = s.records := rfl
@[simp] theorem State.modBlock_saved : (s.modBlock b f).saved = s.saved := rfl
@[simp] theorem State.modBlock_migrations : (s.modBlock b f).migrations = s.migrations := rfl
@[simp] theorem State.modBlock_relocs : (s.modBlock b f).relocs = s.relocs := rfl
@[simp] theorem State.modBlock_turns : (s.modBlock b f).turns = s.turns := rfl
@[simp] theorem State.modBlock_issue : (s.modBlock b f).issue = s.issue := rfl
@[simp] theorem State.modBlock_fresh : (s.modBlock b f).fresh = s.fresh := rfl
@[simp] theorem State.modBlock_tick : (s.modBlock b f).tick = s.tick := rfl

end

section
variable (s : State) (n : Nat) (f : Grid → Grid)

@[simp] theorem State.modGrid_mgmt : (s.modGrid n f).mgmt = s.mgmt := rfl
@[simp] theorem State.modGrid_host : (s.modGrid n f).host = s.host := rfl
@[simp] theorem State.modGrid_counters : (s.modGrid n f).counters = s.counters := rfl
@[simp] theorem State.modGrid_mem : (s.modGrid n f).mem = s.mem := rfl
@[simp] theorem State.modGrid_poison : (s.modGrid n f).poison = s.poison := rfl
@[simp] theorem State.modGrid_found : (s.modGrid n f).found = s.found := rfl
@[simp] theorem State.modGrid_weak : (s.modGrid n f).weak = s.weak := rfl
@[simp] theorem State.modGrid_upsets : (s.modGrid n f).upsets = s.upsets := rfl
@[simp] theorem State.modGrid_cells : (s.modGrid n f).cells = s.cells := rfl
@[simp] theorem State.modGrid_tlb : (s.modGrid n f).tlb = s.tlb := rfl
@[simp] theorem State.modGrid_samples : (s.modGrid n f).samples = s.samples := rfl
@[simp] theorem State.modGrid_sampling : (s.modGrid n f).sampling = s.sampling := rfl
@[simp] theorem State.modGrid_order : (s.modGrid n f).order = s.order := rfl
@[simp] theorem State.modGrid_banks : (s.modGrid n f).banks = s.banks := rfl
@[simp] theorem State.modGrid_queues : (s.modGrid n f).queues = s.queues := rfl
@[simp] theorem State.modGrid_grids : (s.modGrid n f).grids = tabModify s.grids n f := rfl
@[simp] theorem State.modGrid_nextGrid : (s.modGrid n f).nextGrid = s.nextGrid := rfl
@[simp] theorem State.modGrid_reservations : (s.modGrid n f).reservations = s.reservations := rfl
@[simp] theorem State.modGrid_cores : (s.modGrid n f).cores = s.cores := rfl
@[simp] theorem State.modGrid_blocks : (s.modGrid n f).blocks = s.blocks := rfl
@[simp] theorem State.modGrid_clusters : (s.modGrid n f).clusters = s.clusters := rfl
@[simp] theorem State.modGrid_groups : (s.modGrid n f).groups = s.groups := rfl
@[simp] theorem State.modGrid_threads : (s.modGrid n f).threads = s.threads := rfl
@[simp] theorem State.modGrid_records : (s.modGrid n f).records = s.records := rfl
@[simp] theorem State.modGrid_saved : (s.modGrid n f).saved = s.saved := rfl
@[simp] theorem State.modGrid_migrations : (s.modGrid n f).migrations = s.migrations := rfl
@[simp] theorem State.modGrid_relocs : (s.modGrid n f).relocs = s.relocs := rfl
@[simp] theorem State.modGrid_turns : (s.modGrid n f).turns = s.turns := rfl
@[simp] theorem State.modGrid_issue : (s.modGrid n f).issue = s.issue := rfl
@[simp] theorem State.modGrid_fresh : (s.modGrid n f).fresh = s.fresh := rfl
@[simp] theorem State.modGrid_tick : (s.modGrid n f).tick = s.tick := rfl

end

section
variable (s : State) (pa n v : Nat)

@[simp] theorem State.store_mgmt : (s.store pa n v).mgmt = s.mgmt := rfl
@[simp] theorem State.store_host : (s.store pa n v).host = s.host := rfl
@[simp] theorem State.store_counters : (s.store pa n v).counters = s.counters := rfl
@[simp] theorem State.store_mem : (s.store pa n v).mem = bytesSet s.mem pa n v := rfl
@[simp] theorem State.store_poison : (s.store pa n v).poison = s.poison := rfl
@[simp] theorem State.store_found : (s.store pa n v).found = s.found := rfl
@[simp] theorem State.store_weak : (s.store pa n v).weak = s.weak := rfl
@[simp] theorem State.store_upsets : (s.store pa n v).upsets = s.upsets := rfl
@[simp] theorem State.store_cells : (s.store pa n v).cells = s.cells := rfl
@[simp] theorem State.store_tlb : (s.store pa n v).tlb = s.tlb := rfl
@[simp] theorem State.store_samples : (s.store pa n v).samples = s.samples := rfl
@[simp] theorem State.store_sampling : (s.store pa n v).sampling = s.sampling := rfl
@[simp] theorem State.store_order : (s.store pa n v).order = s.order.plainWrite pa n := rfl
@[simp] theorem State.store_banks : (s.store pa n v).banks = s.banks := rfl
@[simp] theorem State.store_queues : (s.store pa n v).queues = s.queues := rfl
@[simp] theorem State.store_grids : (s.store pa n v).grids = s.grids := rfl
@[simp] theorem State.store_nextGrid : (s.store pa n v).nextGrid = s.nextGrid := rfl
@[simp] theorem State.store_reservations : (s.store pa n v).reservations = s.reservations := rfl
@[simp] theorem State.store_cores : (s.store pa n v).cores = s.cores := rfl
@[simp] theorem State.store_blocks : (s.store pa n v).blocks = s.blocks := rfl
@[simp] theorem State.store_clusters : (s.store pa n v).clusters = s.clusters := rfl
@[simp] theorem State.store_groups : (s.store pa n v).groups = s.groups := rfl
@[simp] theorem State.store_threads : (s.store pa n v).threads = s.threads := rfl
@[simp] theorem State.store_records : (s.store pa n v).records = s.records := rfl
@[simp] theorem State.store_saved : (s.store pa n v).saved = s.saved := rfl
@[simp] theorem State.store_migrations : (s.store pa n v).migrations = s.migrations := rfl
@[simp] theorem State.store_relocs : (s.store pa n v).relocs = s.relocs := rfl
@[simp] theorem State.store_turns : (s.store pa n v).turns = s.turns := rfl
@[simp] theorem State.store_issue : (s.store pa n v).issue = s.issue := rfl
@[simp] theorem State.store_fresh : (s.store pa n v).fresh = s.fresh := rfl
@[simp] theorem State.store_tick : (s.store pa n v).tick = s.tick := rfl

end

section
variable (s : State) (b off n v : Nat)

@[simp] theorem State.storeShared_mgmt : (s.storeShared b off n v).mgmt = s.mgmt := rfl
@[simp] theorem State.storeShared_host : (s.storeShared b off n v).host = s.host := rfl
@[simp] theorem State.storeShared_counters : (s.storeShared b off n v).counters = s.counters := rfl
@[simp] theorem State.storeShared_mem : (s.storeShared b off n v).mem = s.mem := rfl
@[simp] theorem State.storeShared_poison : (s.storeShared b off n v).poison = s.poison := rfl
@[simp] theorem State.storeShared_found : (s.storeShared b off n v).found = s.found := rfl
@[simp] theorem State.storeShared_weak : (s.storeShared b off n v).weak = s.weak := rfl
@[simp] theorem State.storeShared_upsets : (s.storeShared b off n v).upsets = s.upsets := rfl
@[simp] theorem State.storeShared_cells : (s.storeShared b off n v).cells = s.cells := rfl
@[simp] theorem State.storeShared_tlb : (s.storeShared b off n v).tlb = s.tlb := rfl
@[simp] theorem State.storeShared_samples : (s.storeShared b off n v).samples = s.samples := rfl
@[simp] theorem State.storeShared_sampling : (s.storeShared b off n v).sampling = s.sampling := rfl
@[simp] theorem State.storeShared_order : (s.storeShared b off n v).order = s.order.plainWrite (sharedLoc s b off) n := rfl
@[simp] theorem State.storeShared_banks : (s.storeShared b off n v).banks = s.banks := rfl
@[simp] theorem State.storeShared_queues : (s.storeShared b off n v).queues = s.queues := rfl
@[simp] theorem State.storeShared_grids : (s.storeShared b off n v).grids = s.grids := rfl
@[simp] theorem State.storeShared_nextGrid : (s.storeShared b off n v).nextGrid = s.nextGrid := rfl
@[simp] theorem State.storeShared_reservations : (s.storeShared b off n v).reservations = s.reservations := rfl
@[simp] theorem State.storeShared_cores : (s.storeShared b off n v).cores = s.cores := rfl
@[simp] theorem State.storeShared_blocks : (s.storeShared b off n v).blocks = tabModify s.blocks b fun x => { x with shared := bytesSet x.shared off n v } := rfl
@[simp] theorem State.storeShared_clusters : (s.storeShared b off n v).clusters = s.clusters := rfl
@[simp] theorem State.storeShared_groups : (s.storeShared b off n v).groups = s.groups := rfl
@[simp] theorem State.storeShared_threads : (s.storeShared b off n v).threads = s.threads := rfl
@[simp] theorem State.storeShared_records : (s.storeShared b off n v).records = s.records := rfl
@[simp] theorem State.storeShared_saved : (s.storeShared b off n v).saved = s.saved := rfl
@[simp] theorem State.storeShared_migrations : (s.storeShared b off n v).migrations = s.migrations := rfl
@[simp] theorem State.storeShared_relocs : (s.storeShared b off n v).relocs = s.relocs := rfl
@[simp] theorem State.storeShared_turns : (s.storeShared b off n v).turns = s.turns := rfl
@[simp] theorem State.storeShared_issue : (s.storeShared b off n v).issue = s.issue := rfl
@[simp] theorem State.storeShared_fresh : (s.storeShared b off n v).fresh = s.fresh := rfl
@[simp] theorem State.storeShared_tick : (s.storeShared b off n v).tick = s.tick := rfl

end

end Sys2Proof.Machine
end

