-- ==== Sys2Proof/Laws/Lanes.lean ====
section
/-! SUPPORT. What the shared course of a thread instruction and the lane model of R204 do: when an instruction completes,
what each lane's registers hold then, and what is left as it was. -/

namespace Sys2Proof.Machine

/-! ## Checks -/

theorem lowestReason_none {l : List (Nat × Bool)} (h : ∀ x ∈ l, x.2 = false) : lowestReason l = none := by
  have : l.filter (·.2) = [] := by
    rw [List.filter_eq_nil_iff]
    intro x hx
    simp [h x hx]
  simp [lowestReason, this]

/-- A thread instruction that passes its checks answers the state its body gives. -/
theorem onThreads_next {s : State} {c : Class} {h : InHandler} {checks : List (Nat × Bool)} {body : State → State}
    (r : Runs s c) (hh : h = .yes ∨ (h = .no ∧ s.inHandler = false) ∨ (h = .only ∧ s.inHandler = true))
    (hc : ∀ x ∈ checks, x.2 = false) : onThreads s c h checks body = .next (body s) := by
  unfold onThreads
  rw [if_neg (by simp [r.threads])]
  obtain ⟨k, ks, hm⟩ := List.exists_cons_of_ne_nil r.some
  simp only [State.members, hm]
  rw [if_neg (by rcases hh with rfl | ⟨rfl, e⟩ | ⟨rfl, e⟩ <;> simp_all)]
  rw [if_neg (by simp [r.die])]
  rw [lowestReason_none hc]

theorem qWait_ok {s : State} {f : BitVec 8} {wide : Bool} (h : SrcOk s f wide) : (qWait s (codeOf f)).2 = false := by
  simp only [qWait]
  by_cases h1 : 100 ≤ codeOf f
  · by_cases h2 : codeOf f < 116
    · have := h.uniform h1 h2
      simp only [h1, h2, decide_true, Bool.true_and, List.any_eq_false]
      intro k hk
      have := this k hk
      cases e : (s.blockOf (grpOf k)).qView (viewPos s k (s.thread k)) (codeOf f - 100) <;> simp_all
    · simp [h2]
  · simp [h1]

theorem srcChecks_ok {s : State} {f : BitVec 8} {wide : Bool} (h : SrcOk s f wide) : ∀ x ∈ srcChecks s f wide, x.2 = false := by
  have lead : s.thread (s.issue.members.headD 0) = s.lead := rfl
  have rmax : s.regMaxOf (grpOf (s.issue.members.headD 0)) = s.regMax := rfl
  intro x hx
  simp only [srcChecks, fieldChecks, lead, rmax, List.mem_append, List.mem_cons, List.not_mem_nil, or_false] at hx
  rcases hx with (rfl | rfl | rfl) | rfl | rfl
  · by_cases h1 : 96 ≤ codeOf f
    · have hl := h.last h1
      by_cases h2 : codeOf f < 100
      · have := h.latch h1 h2
        cases e : s.lead.latch (codeOf f - 96) <;> simp_all [badLatch]
      · simp [badLatch, hl, h2]
    · simp [badLatch, h1]
  · by_cases h1 : codeOf f < 96
    · have := h.reg h1
      cases wide
      · simp; omega
      · have := h.pair h1 rfl
        simp; omega
    · simp [h1]
  · by_cases h1 : codeOf f < 96
    · cases wide
      · simp
      · have := h.pair h1 rfl
        simp; omega
    · simp [h1]
  · exact qWait_ok h
  · exact h.free

theorem bit_cases (w : BitVec 1) : w = 0 ∨ w = 1 := by
  revert w; decide

theorem dstChecks_ok {s : State} {d : BitVec 7} {w : BitVec 1} {wide : Bool} (h : DstOk s d w wide) :
    ∀ x ∈ dstChecks s d w wide, x.2 = false := by
  intro x hx
  rcases bit_cases w with rfl | rfl
  · have h0 := h.reg rfl
    simp only [dstChecks] at hx
    rw [if_neg (by decide)] at hx
    simp only [List.mem_cons, List.not_mem_nil, or_false] at hx
    cases wide
    · rcases hx with rfl | rfl | rfl | rfl
      · simp; omega
      · simp; omega
      · simp
      · exact h.free rfl
    · have := h.pair rfl rfl
      rcases hx with rfl | rfl | rfl | rfl
      · simp; omega
      · simp; omega
      · simp; omega
      · exact h.free rfl
  · have := h.latch rfl
    subst this
    simp [dstChecks] at hx
    simp [hx]

theorem hintChecks_ok {s : State} {lit blk : Bool} (hl : lit = true ∨ NoLit s) (hb : blk = true ∨ NoBlk s) :
    ∀ x ∈ hintChecks s.lead lit false blk, x.2 = false := by
  intro x hx
  unfold NoLit Thread.lit at hl
  unfold NoBlk at hb
  simp only [hintChecks, List.mem_cons, List.not_mem_nil, or_false] at hx
  cases e : s.lead.hints with
  | none => rcases hx with rfl | rfl <;> simp [e]
  | some g => rcases hx with rfl | rfl <;> rcases hl with rfl | hl <;> rcases hb with rfl | hb <;> simp_all

/-! ## Registers of a thread -/

/-- A register after a release. -/
theorem reg_drop (v : Tab Word) (n m : Nat) : tabGetD (dropReg v n false) m 0 = if m = n then 0 else tabGetD v m 0 :=
  tabGetD_drop v n m 0

/-- One register after a write; the canonical table lists no zero. -/
theorem reg_one (v : Tab Word) (n m : Nat) (y : Word) :
    tabGetD (if y = 0 then tabDrop v n else tabSet v n y) m 0 = if m = n then y else tabGetD v m 0 := by
  split
  · rename_i h; rw [tabGetD_drop, h]
  · rw [tabGetD_set]

/-- A register after a write of one register. -/
theorem reg_put (v : Tab Word) (n m : Nat) (x : DWord) :
    tabGetD (putReg v n false x) m 0 = if m = n then x.setWidth 32 else tabGetD v m 0 := reg_one v n m _

/-- A register after a write of a pair. -/
theorem reg_putPair (v : Tab Word) (n m : Nat) (x : DWord) :
    tabGetD (putReg v n true x) m 0 =
      if m = n + 1 then (x >>> 32).setWidth 32 else if m = n then x.setWidth 32 else tabGetD v m 0 := by
  simp only [putReg, if_true]
  rw [reg_one, reg_one]

/-- Registers after several releases. -/
theorem reg_drops (l : List Nat) : ∀ (v : Tab Word) (m : Nat), m ∉ l →
    tabGetD (l.foldl (fun v n => dropReg v n false) v) m 0 = tabGetD v m 0 := by
  induction l with
  | nil => intros; rfl
  | cons n l ih =>
    intro v m h
    simp only [List.mem_cons, not_or] at h
    rw [List.foldl_cons, ih _ _ h.2, reg_drop, if_neg h.1]

/-- A pair read as a double word is the two halves. -/
theorem pair_halves (x : DWord) :
    ((x.setWidth 32 : Word).setWidth 64 ||| (((x >>> 32).setWidth 32 : Word).setWidth 64 <<< 32) : DWord) = x := by
  ext i hi
  simp only [BitVec.getElem_or, BitVec.getElem_setWidth, BitVec.getLsbD_setWidth, BitVec.getElem_shiftLeft,
    BitVec.getLsbD_ushiftRight]
  by_cases h : i < 32
  · simp [h, BitVec.getLsbD_eq_getElem hi]
  · have e : 32 + (i - 32) = i := by omega
    have g : i - 32 < 32 := by omega
    simp [h, g, e, BitVec.getLsbD_eq_getElem hi]

/-! ## Groups after the write rule -/

theorem setShadow_rest (g : Group) (n : Nat) (i : Interval) : (g.setShadow n i).rest = g.rest := by
  unfold Group.setShadow
  split
  · rfl
  · split <;> rfl

theorem setShadow_fstat (g : Group) (n : Nat) (i : Interval) : (g.setShadow n i).fstat = g.fstat := by
  unfold Group.setShadow
  split
  · rfl
  · split <;> rfl

theorem rest_of_rows (g : Group) (r : Tab Word) (b : Tab Nat) : ({ g with rows := r, banks := b } : Group).rest = g.rest := rfl

theorem lastUse_rest (g : Group) (live m : Word) (n : Nat) : (g.lastUse live m n).rest = g.rest := by
  unfold Group.lastUse
  split
  · rfl
  · dsimp only
    split
    · exact (rest_of_rows _ _ _).trans (setShadow_rest _ _ _)
    · exact (rest_of_rows _ _ _).trans (setShadow_rest _ _ _)

theorem lastUse_fstat (g : Group) (live m : Word) (n : Nat) : (g.lastUse live m n).fstat = g.fstat := by
  unfold Group.lastUse
  split
  · rfl
  · dsimp only
    split
    · exact setShadow_fstat _ _ _
    · exact setShadow_fstat _ _ _

theorem wrote_rest (g : Group) (live m : Word) (n : Nat) (i : Interval) : (g.wrote live m n i).rest = g.rest := by
  unfold Group.wrote
  split
  · rfl
  · exact (setShadow_rest g n _ :)

theorem wrote_fstat (g : Group) (live m : Word) (n : Nat) (i : Interval) : (g.wrote live m n i).fstat = g.fstat := by
  unfold Group.wrote
  split
  · rfl
  · exact (setShadow_fstat g n _ :)

theorem groupWrite_rest (g : Group) (live m : Word) (n : Nat) (wide : Bool) (i : Interval) :
    (groupWrite live m n wide i g).rest = g.rest := by
  unfold groupWrite
  split
  · rw [wrote_rest, wrote_rest]
  · rw [wrote_rest]

theorem groupWrite_fstat (g : Group) (live m : Word) (n : Nat) (wide : Bool) (i : Interval) :
    (groupWrite live m n wide i g).fstat = g.fstat := by
  unfold groupWrite
  split
  · rw [wrote_fstat, wrote_fstat]
  · rw [wrote_fstat]

/-- A property of a fold whose steps keep it. -/
theorem foldl_keeps {α β γ : Type} (p : α → γ) (f : α → β → α) (h : ∀ a b, p (f a b) = p a) :
    ∀ (l : List β) (a : α), p (l.foldl f a) = p a := by
  intro l
  induction l with
  | nil => intros; rfl
  | cons b l ih => intro a; rw [List.foldl_cons, ih, h]

theorem groupStep_rest (s : State) (op : Alu) (f : Fields) (g : Nat) (x : Group) : (groupStep s op f g x).rest = x.rest := by
  unfold groupStep
  dsimp only
  split
  · rfl
  · refine (foldl_keeps Group.rest _ (fun _ _ => by rfl) _ _).trans ?_
    split
    · rw [groupWrite_rest, foldl_keeps Group.rest _ fun _ _ => lastUse_rest _ _ _ _]
    · rw [foldl_keeps Group.rest _ fun _ _ => lastUse_rest _ _ _ _]

/-- An operation whose lanes raise no flag leaves FSTAT (R62). -/
theorem groupStep_fstat (s : State) (op : Alu) (f : Fields) (g : Nat) (x : Group) (h : ∀ i, (op.fn i).flags = 0) :
    (groupStep s op f g x).fstat = x.fstat := by
  unfold groupStep
  dsimp only
  split
  · rfl
  · refine (foldl_keeps Group.fstat _ (fun a b => by simp [Group.flag, h]) _ _).trans ?_
    split
    · rw [groupWrite_fstat, foldl_keeps Group.fstat _ fun _ _ => lastUse_fstat _ _ _ _]
    · rw [foldl_keeps Group.fstat _ fun _ _ => lastUse_fstat _ _ _ _]

/-! ## The advance of a bundle -/

theorem settleRuns_rest (s : State) (ks : List Nat) : (settleRuns s ks).rest = s.rest := by
  unfold settleRuns
  dsimp only
  split <;> rfl

theorem settleRuns_threads (s : State) (ks : List Nat) : (settleRuns s ks).threads = s.threads := by
  unfold settleRuns
  dsimp only
  split <;> rfl

theorem settleRuns_groups (s : State) (ks : List Nat) : (settleRuns s ks).groups = s.groups := by
  unfold settleRuns
  dsimp only
  split <;> rfl

theorem settleRuns_core (s : State) (ks : List Nat) (c : Nat) : ((settleRuns s ks).core c).rest = (s.core c).rest := by
  unfold settleRuns
  dsimp only
  split
  · rfl
  · simp only [State.core, State.setCore_cores, tabGetD_set]
    split
    · subst_vars; rfl
    · rfl

theorem advanceAll_rest (s : State) (w : Bool) (l : Nat → Option Latch) : (advanceAll s w l).rest = s.rest :=
  settleRuns_rest _ _

theorem advanceAll_groups (s : State) (w : Bool) (l : Nat → Option Latch) : (advanceAll s w l).groups = s.groups :=
  settleRuns_groups _ _

theorem advanceAll_core (s : State) (w : Bool) (l : Nat → Option Latch) (c : Nat) :
    ((advanceAll s w l).core c).rest = (s.core c).rest := settleRuns_core _ _ _

theorem advanceAll_get (s : State) (w : Bool) (l : Nat → Option Latch) (k : Nat) :
    tabGet (advanceAll s w l).threads k =
      if k ∈ s.issue.members then (tabGet s.threads k).map (fun t => t.advance s.now w (l k)) else tabGet s.threads k := by
  unfold advanceAll
  rw [settleRuns_threads]
  exact tabGet_over s.threads s.members (fun k t => t.advance s.now w (l k)) k

/-! ## An element of the lane model -/

theorem elemStep_rest (s : State) (op : Alu) (f : Fields) : (elemStep s op f).rest = s.rest := rfl

theorem elemStep_get (s : State) (op : Alu) (f : Fields) (k : Nat) :
    tabGet (elemStep s op f).threads k =
      if k ∈ s.issue.members then (tabGet s.threads k).map (laneStep s op f k) else tabGet s.threads k :=
  tabGet_over _ _ _ _

theorem elemStep_group (s : State) (op : Alu) (f : Fields) (g : Nat) :
    tabGet (elemStep s op f).groups g =
      if g ∈ (s.issue.members.map grpOf).eraseDups then (tabGet s.groups g).map (groupStep s op f g) else tabGet s.groups g :=
  tabGet_over _ _ _ _

/-- A thread of the bundle after an operation of one element. -/
theorem alu_thread {s : State} (op : Alu) (f : Fields) {k : Nat} (h : s.issues k) :
    (advanceAll (elemStep s op f) (f.w = 1) (latchOf s op f)).thread k =
      (laneStep s op f k (s.thread k)).advance s.now (f.w = 1) (latchOf s op f k) := by
  obtain ⟨hm, hs⟩ := h
  obtain ⟨t, ht⟩ := Option.isSome_iff_exists.mp hs
  have e : tabGet (advanceAll (elemStep s op f) (f.w = 1) (latchOf s op f)).threads k =
      some ((laneStep s op f k t).advance s.now (f.w = 1) (latchOf s op f k)) := by
    rw [advanceAll_get, elemStep_get, if_pos hm, ht]
    exact if_pos hm
  simp only [State.thread, tabGetD, e, ht, Option.getD_some]

/-- The registers of a lane that takes part. -/
theorem laneStep_reg {s : State} {op : Alu} {f : Fields} {k : Nat} {t : Thread} {n : Nat}
    (hp : takesPart op t = true) (hn : n ∉ released op f) (hd : n ∉ dstRegs f.d f.w op.wd) :
    (laneStep s op f k t).reg n = t.reg n := by
  simp only [laneStep, hp, if_true, Thread.reg]
  split
  · rename_i hw
    cases e : op.wd
    · simp only [dstRegs, hw, e] at hd
      simp at hd
      rw [reg_put, if_neg hd, reg_drops _ _ _ hn]
    · simp only [dstRegs, hw, e] at hd
      simp at hd
      rw [reg_putPair, if_neg hd.2, if_neg hd.1, reg_drops _ _ _ hn]
  · rw [reg_drops _ _ _ hn]

/-! ## An instruction of formats R, I and U -/

/-- Operand fields that pass their checks for an operation. -/
structure FieldsOk (s : State) (op : Alu) (f : Fields) : Prop where
  d : DstOk s f.d f.w op.wd
  a : SrcOk s f.a op.wa
  b : f.imm = none → op.useB = true → SrcOk s f.b op.wb
  freed : f.freed = none

/-- An instruction of formats R, I and U that passes its checks answers the state of its one element. -/
theorem execAlu_next {s : State} {c : Class} {op : Alu} {f : Fields} {more : List (Nat × Bool)} {lit : Bool}
    (r : Runs s c) (u : NoBlk s) (hl : lit = true ∨ NoLit s) (hm : ∀ x ∈ more, x.2 = false) (hf : FieldsOk s op f) :
    execAlu c op f more lit s = .next (advanceAll (elemStep s op f) (f.w = 1) (latchOf s op f)) := by
  have hb : s.lead.hints.any (·.blk.isSome) = false := by
    have := u
    unfold NoBlk at this
    cases e : s.lead.hints with
    | none => rfl
    | some g => simp_all
  unfold execAlu
  rw [onThreads_next r (.inl rfl)]
  · simp only [aluBody, show s.lead.hints.bind (·.blk) = none from u]
  · intro x hx
    simp only [aluChecks, hb, Bool.false_and, Bool.false_eq_true, if_false, show s.lead.hints.bind (·.blk) = none from u, List.append_nil, List.mem_append] at hx
    rcases hx with h | ((h | h) | h) | h
    · exact hm x h
    · rw [if_neg] at h
      · exact dstChecks_ok hf.d x h
      · intro e
        simp only [Bool.and_eq_true, decide_eq_true_eq] at e
        have := (hf.d.reg e.1.2).1
        omega
    · exact srcChecks_ok hf.a x h
    · split at h
      · cases h
      · rename_i hn
        simp only [Bool.or_eq_true, Bool.not_eq_true', not_or, Bool.not_eq_false, Option.not_isSome_iff_eq_none] at hn
        exact srcChecks_ok (hf.b hn.1 hn.2) x h
    · exact hintChecks_ok hl (.inr u) x h

/-- What it leaves as it was. -/
theorem alu_completed {s : State} {op : Alu} {f : Fields} :
    Completed s (advanceAll (elemStep s op f) (f.w = 1) (latchOf s op f)) (dstRegs f.d f.w op.wd) (released op f) where
  rest := advanceAll_rest _ _ _
  cores c := advanceAll_core _ _ _ c
  groups g := by
    simp only [State.group, tabGetD, advanceAll_groups, elemStep_group]
    split
    · cases e : tabGet s.groups g
      · rfl
      · exact groupStep_rest s op f g _
    · rfl
  others k h := by
    rw [advanceAll_get, elemStep_get, if_neg h]
    exact if_neg h
  pc k h := by
    rw [alu_thread op f h]
    simp only [Thread.advance, laneStep]
    split <;> rfl
  threads k := by
    by_cases h : k ∈ s.issue.members
    · cases e : tabGet s.threads k with
      | none =>
        have : tabGet (advanceAll (elemStep s op f) (f.w = 1) (latchOf s op f)).threads k = none := by
          rw [advanceAll_get, elemStep_get, if_pos h, e]
          exact if_pos h
        simp only [State.thread, tabGetD, this, e]
      | some t =>
        rw [alu_thread op f ⟨h, by simp [e]⟩]
        simp only [laneStep]
        split <;> rfl
    · have : tabGet (advanceAll (elemStep s op f) (f.w = 1) (latchOf s op f)).threads k = tabGet s.threads k := by
        rw [advanceAll_get, elemStep_get, if_neg h]
        exact if_neg h
      simp only [State.thread, tabGetD, this]
  regs k h n hd hn := by
    rw [alu_thread op f h]
    show (laneStep s op f k (s.thread k)).reg n = _
    cases e : takesPart op (s.thread k)
    · simp [laneStep, e]
    · exact laneStep_reg e hn hd

/-- A thread field that neither a lane nor the advance changes. -/
theorem alu_field {γ : Type} {s : State} {op : Alu} {f : Fields} (p : Thread → γ)
    (h1 : ∀ k t, p (laneStep s op f k t) = p t) (h2 : ∀ (t : Thread) n w l, p (t.advance n w l) = p t) (k : Nat) :
    p ((advanceAll (elemStep s op f) (f.w = 1) (latchOf s op f)).thread k) = p (s.thread k) := by
  by_cases hm : k ∈ s.issue.members
  · cases e : tabGet s.threads k with
    | none =>
      have : tabGet (advanceAll (elemStep s op f) (f.w = 1) (latchOf s op f)).threads k = none := by
        rw [advanceAll_get, elemStep_get, if_pos hm, e]
        exact if_pos hm
      simp only [State.thread, tabGetD, this, e]
    | some t => rw [alu_thread op f ⟨hm, by simp [e]⟩, h2, h1]
  · have : tabGet (advanceAll (elemStep s op f) (f.w = 1) (latchOf s op f)).threads k = tabGet s.threads k := by
      rw [advanceAll_get, elemStep_get, if_neg hm]
      exact if_neg hm
    simp only [State.thread, tabGetD, this]

/-- It leaves the predicates. -/
theorem alu_preds (s : State) (op : Alu) (f : Fields) :
    SamePreds s (advanceAll (elemStep s op f) (f.w = 1) (latchOf s op f)) :=
  alu_field Thread.p (fun k t => by simp only [laneStep]; split <;> rfl) fun _ _ _ _ => rfl

/-- It leaves the generators where no lane draws. -/
theorem alu_gens {s : State} {op : Alu} {f : Fields} (h : ∀ i, (op.fn i).gen = i.gen) :
    SameGens s (advanceAll (elemStep s op f) (f.w = 1) (latchOf s op f)) :=
  alu_field Thread.gen (fun k t => by simp only [laneStep]; split; exact h _; rfl) fun _ _ _ _ => rfl

/-- It leaves FSTAT where no lane raises a flag. -/
theorem alu_flags {s : State} {op : Alu} {f : Fields} (h : ∀ i, (op.fn i).flags = 0) :
    SameFlags s (advanceAll (elemStep s op f) (f.w = 1) (latchOf s op f)) := by
  intro g
  simp only [State.group, tabGetD, advanceAll_groups, elemStep_group]
  split
  · cases e : tabGet s.groups g
    · rfl
    · exact groupStep_fstat s op f g _ h
  · rfl

/-- It leaves FSTAT, the generators and the predicates where no lane raises a flag or draws. -/
theorem alu_quiet {s : State} {op : Alu} {f : Fields} (h : ∀ i, (op.fn i).flags = 0 ∧ (op.fn i).gen = i.gen) :
    Quiet s (advanceAll (elemStep s op f) (f.w = 1) (latchOf s op f)) :=
  ⟨alu_flags fun i => (h i).1, alu_gens fun i => (h i).2, alu_preds s op f⟩

/-- A thread that goes on in its latch run, or opens one, holds its latch value as y0 (R143). -/
theorem advance_latch {t : Thread} {tick : Nat} {w : Bool} {l : Option Latch} (h : w = true ∨ t.run.isSome = true)
    (hn : (t.run.getD []).length < 4) : (t.advance tick w l).latch 0 = l := by
  cases e : t.run with
  | none => simp_all [Thread.advance, Thread.latch, nextRun]
  | some r => simp_all [Thread.advance, Thread.latch, nextRun]

/-- The latches of its lanes: the results, and zero where a lane does not take part. -/
theorem alu_latches {s : State} {op : Alu} {f : Fields} :
    Latches s (advanceAll (elemStep s op f) (f.w = 1) (latchOf s op f)) f.w fun k v =>
      v = if takesPart op (s.thread k) then (op.fn (laneIn s op f k (s.thread k))).x else 0 := by
  intro k h hw hn
  have e : (laneStep s op f k (s.thread k)).run = (s.thread k).run := by
    simp only [laneStep]
    split <;> try split
    all_goals (try split) <;> rfl
  refine ⟨{ value := if takesPart op (s.thread k) then (op.fn (laneIn s op f k (s.thread k))).x else 0
            iv := resultIv s op f }, ?_, rfl⟩
  rw [alu_thread op f h, advance_latch (by rw [e]; simpa using hw) (by rw [e]; exact hn)]
  rfl

/-- The 32-bit results of its lanes. -/
theorem alu_gives {s : State} {op : Alu} {f : Fields} (hd : op.wd = false) (hs : op.sel = false) :
    Gives s (advanceAll (elemStep s op f) (f.w = 1) (latchOf s op f)) f.d f.w
      (fun k => (op.fn (laneIn s op f k (s.thread k))).x.setWidth 32) where
  value k h he hw := by
    rw [alu_thread op f h]
    simp only [Thread.advance, laneStep, takesPart, hs, Bool.false_or, he, if_true, hw, Thread.reg, hd]
    rw [reg_put, if_pos rfl]
  disabled k h he := by
    rw [alu_thread op f h]
    simp only [Thread.advance, laneStep, takesPart, hs, Bool.false_or, he, Bool.false_eq_true, if_false]
  latch k h hw hn := by
    obtain ⟨l, hl, hv⟩ := alu_latches k h hw hn
    refine ⟨l, hl, ?_⟩
    rw [hv]
    cases he : (s.thread k).enabled <;> simp [takesPart, hs, he]

/-- The 64-bit results of its lanes. -/
theorem alu_givesPair {s : State} {op : Alu} {f : Fields} (hd : op.wd = true) (hs : op.sel = false) :
    GivesPair s (advanceAll (elemStep s op f) (f.w = 1) (latchOf s op f)) f.d f.w
      (fun k => (op.fn (laneIn s op f k (s.thread k))).x) where
  value k h he hw := by
    rw [alu_thread op f h]
    simp only [Thread.advance, laneStep, takesPart, hs, Bool.false_or, he, if_true, hw, Thread.pair, Thread.reg, hd]
    rw [reg_putPair, reg_putPair, if_pos rfl, if_neg (by omega), if_pos rfl, pair_halves]
  disabled k h he := by
    rw [alu_thread op f h]
    simp only [Thread.advance, laneStep, takesPart, hs, Bool.false_or, he, Bool.false_eq_true, if_false]
  latch k h hw hn := by
    obtain ⟨l, hl, hv⟩ := alu_latches k h hw hn
    refine ⟨l, hl, ?_⟩
    rw [hv]
    cases he : (s.thread k).enabled <;> simp [takesPart, hs, he]

end Sys2Proof.Machine
end

