-- ==== Sys2Proof/Laws/PerInstr.lean ====
section
/-! SUPPORT. Decode of encode, instruction by instruction (R135 to R147): no bit of an encoding is dropped. -/

namespace Sys2Proof.Laws.Encoding

open Sys2Proof

/-- The word of an instruction decodes to it. -/
def Statement (i : Instr) : Prop := ∀ w : Word, encode i = some w → decode w = .ok i

theorem mov (d : BitVec 7) (w : BitVec 1) (a : BitVec 8) : Statement (.mov d w a) := by
  intro word hw
  obtain ⟨e0, e1, e2, e3, e4, e5⟩ := layout_7_1_8_8 1#8 d w a 0#8 word (Option.some.inj hw).symm
  refine decode_of_fields ?_
  simp only [decodeFields, e0, e1]
  change decode01 word = _
  simp [decode01, e2, e3, e4, e5]

theorem not (d : BitVec 7) (w : BitVec 1) (a : BitVec 8) : Statement (.not d w a) := by
  intro word hw
  obtain ⟨e0, e1, e2, e3, e4, e5⟩ := layout_7_1_8_8 1#8 d w a 1#8 word (Option.some.inj hw).symm
  refine decode_of_fields ?_
  simp only [decodeFields, e0, e1]
  change decode01 word = _
  simp [decode01, e2, e3, e4, e5]

theorem neg (d : BitVec 7) (w : BitVec 1) (a : BitVec 8) : Statement (.neg d w a) := by
  intro word hw
  obtain ⟨e0, e1, e2, e3, e4, e5⟩ := layout_7_1_8_8 1#8 d w a 2#8 word (Option.some.inj hw).symm
  refine decode_of_fields ?_
  simp only [decodeFields, e0, e1]
  change decode01 word = _
  simp [decode01, e2, e3, e4, e5]

theorem abs (d : BitVec 7) (w : BitVec 1) (a : BitVec 8) : Statement (.abs d w a) := by
  intro word hw
  obtain ⟨e0, e1, e2, e3, e4, e5⟩ := layout_7_1_8_8 1#8 d w a 3#8 word (Option.some.inj hw).symm
  refine decode_of_fields ?_
  simp only [decodeFields, e0, e1]
  change decode01 word = _
  simp [decode01, e2, e3, e4, e5]

theorem popc (d : BitVec 7) (w : BitVec 1) (a : BitVec 8) : Statement (.popc d w a) := by
  intro word hw
  obtain ⟨e0, e1, e2, e3, e4, e5⟩ := layout_7_1_8_8 1#8 d w a 4#8 word (Option.some.inj hw).symm
  refine decode_of_fields ?_
  simp only [decodeFields, e0, e1]
  change decode01 word = _
  simp [decode01, e2, e3, e4, e5]

theorem clz (d : BitVec 7) (w : BitVec 1) (a : BitVec 8) : Statement (.clz d w a) := by
  intro word hw
  obtain ⟨e0, e1, e2, e3, e4, e5⟩ := layout_7_1_8_8 1#8 d w a 5#8 word (Option.some.inj hw).symm
  refine decode_of_fields ?_
  simp only [decodeFields, e0, e1]
  change decode01 word = _
  simp [decode01, e2, e3, e4, e5]

theorem brev (d : BitVec 7) (w : BitVec 1) (a : BitVec 8) : Statement (.brev d w a) := by
  intro word hw
  obtain ⟨e0, e1, e2, e3, e4, e5⟩ := layout_7_1_8_8 1#8 d w a 6#8 word (Option.some.inj hw).symm
  refine decode_of_fields ?_
  simp only [decodeFields, e0, e1]
  change decode01 word = _
  simp [decode01, e2, e3, e4, e5]

theorem sxtI8 (d : BitVec 7) (w : BitVec 1) (a : BitVec 8) : Statement (.sxtI8 d w a) := by
  intro word hw
  obtain ⟨e0, e1, e2, e3, e4, e5⟩ := layout_7_1_8_8 1#8 d w a 8#8 word (Option.some.inj hw).symm
  refine decode_of_fields ?_
  simp only [decodeFields, e0, e1]
  change decode01 word = _
  simp [decode01, e2, e3, e4, e5]

theorem sxtI16 (d : BitVec 7) (w : BitVec 1) (a : BitVec 8) : Statement (.sxtI16 d w a) := by
  intro word hw
  obtain ⟨e0, e1, e2, e3, e4, e5⟩ := layout_7_1_8_8 1#8 d w a 9#8 word (Option.some.inj hw).symm
  refine decode_of_fields ?_
  simp only [decodeFields, e0, e1]
  change decode01 word = _
  simp [decode01, e2, e3, e4, e5]

theorem zxtN8 (d : BitVec 7) (w : BitVec 1) (a : BitVec 8) : Statement (.zxtN8 d w a) := by
  intro word hw
  obtain ⟨e0, e1, e2, e3, e4, e5⟩ := layout_7_1_8_8 1#8 d w a 10#8 word (Option.some.inj hw).symm
  refine decode_of_fields ?_
  simp only [decodeFields, e0, e1]
  change decode01 word = _
  simp [decode01, e2, e3, e4, e5]

theorem zxtN16 (d : BitVec 7) (w : BitVec 1) (a : BitVec 8) : Statement (.zxtN16 d w a) := by
  intro word hw
  obtain ⟨e0, e1, e2, e3, e4, e5⟩ := layout_7_1_8_8 1#8 d w a 11#8 word (Option.some.inj hw).symm
  refine decode_of_fields ?_
  simp only [decodeFields, e0, e1]
  change decode01 word = _
  simp [decode01, e2, e3, e4, e5]

theorem sxtI64 (d : BitVec 7) (w : BitVec 1) (a : BitVec 8) : Statement (.sxtI64 d w a) := by
  intro word hw
  obtain ⟨e0, e1, e2, e3, e4, e5⟩ := layout_7_1_8_8 1#8 d w a 12#8 word (Option.some.inj hw).symm
  refine decode_of_fields ?_
  simp only [decodeFields, e0, e1]
  change decode01 word = _
  simp [decode01, e2, e3, e4, e5]

theorem zxtN64 (d : BitVec 7) (w : BitVec 1) (a : BitVec 8) : Statement (.zxtN64 d w a) := by
  intro word hw
  obtain ⟨e0, e1, e2, e3, e4, e5⟩ := layout_7_1_8_8 1#8 d w a 13#8 word (Option.some.inj hw).symm
  refine decode_of_fields ?_
  simp only [decodeFields, e0, e1]
  change decode01 word = _
  simp [decode01, e2, e3, e4, e5]

theorem mov64 (d : BitVec 7) (w : BitVec 1) (a : BitVec 8) : Statement (.mov64 d w a) := by
  intro word hw
  obtain ⟨e0, e1, e2, e3, e4, e5⟩ := layout_7_1_8_8 1#8 d w a 14#8 word (Option.some.inj hw).symm
  refine decode_of_fields ?_
  simp only [decodeFields, e0, e1]
  change decode01 word = _
  simp [decode01, e2, e3, e4, e5]

theorem addI32 (d : BitVec 7) (w : BitVec 1) (a : BitVec 8) (b : BitVec 8) : Statement (.addI32 d w a b) := by
  intro word hw
  obtain ⟨e0, e1, e2, e3, e4, e5⟩ := layout_7_1_8_8 2#8 d w a b word (Option.some.inj hw).symm
  refine decode_of_fields ?_
  simp only [decodeFields, e0, e1]
  change some (_) = _
  simp [e2, e3, e4, e5]

theorem addI32Imm (d : BitVec 7) (w : BitVec 1) (a : BitVec 8) (i : BitVec 8) : Statement (.addI32Imm d w a i) := by
  intro word hw
  obtain ⟨e0, e1, e2, e3, e4, e5⟩ := layout_7_1_8_8 3#8 d w a i word (Option.some.inj hw).symm
  refine decode_of_fields ?_
  simp only [decodeFields, e0, e1]
  change some (_) = _
  simp [e2, e3, e4, e5]

theorem subI32 (d : BitVec 7) (w : BitVec 1) (a : BitVec 8) (b : BitVec 8) : Statement (.subI32 d w a b) := by
  intro word hw
  obtain ⟨e0, e1, e2, e3, e4, e5⟩ := layout_7_1_8_8 4#8 d w a b word (Option.some.inj hw).symm
  refine decode_of_fields ?_
  simp only [decodeFields, e0, e1]
  change some (_) = _
  simp [e2, e3, e4, e5]

theorem subI32Imm (d : BitVec 7) (w : BitVec 1) (a : BitVec 8) (i : BitVec 8) : Statement (.subI32Imm d w a i) := by
  intro word hw
  obtain ⟨e0, e1, e2, e3, e4, e5⟩ := layout_7_1_8_8 5#8 d w a i word (Option.some.inj hw).symm
  refine decode_of_fields ?_
  simp only [decodeFields, e0, e1]
  change some (_) = _
  simp [e2, e3, e4, e5]

theorem addSatI32 (d : BitVec 7) (w : BitVec 1) (a : BitVec 8) (b : BitVec 8) : Statement (.addSatI32 d w a b) := by
  intro word hw
  obtain ⟨e0, e1, e2, e3, e4, e5⟩ := layout_7_1_8_8 6#8 d w a b word (Option.some.inj hw).symm
  refine decode_of_fields ?_
  simp only [decodeFields, e0, e1]
  change some (_) = _
  simp [e2, e3, e4, e5]

theorem addSatI32Imm (d : BitVec 7) (w : BitVec 1) (a : BitVec 8) (i : BitVec 8) : Statement (.addSatI32Imm d w a i) := by
  intro word hw
  obtain ⟨e0, e1, e2, e3, e4, e5⟩ := layout_7_1_8_8 7#8 d w a i word (Option.some.inj hw).symm
  refine decode_of_fields ?_
  simp only [decodeFields, e0, e1]
  change some (_) = _
  simp [e2, e3, e4, e5]

theorem addSatN32 (d : BitVec 7) (w : BitVec 1) (a : BitVec 8) (b : BitVec 8) : Statement (.addSatN32 d w a b) := by
  intro word hw
  obtain ⟨e0, e1, e2, e3, e4, e5⟩ := layout_7_1_8_8 8#8 d w a b word (Option.some.inj hw).symm
  refine decode_of_fields ?_
  simp only [decodeFields, e0, e1]
  change some (_) = _
  simp [e2, e3, e4, e5]

theorem addSatN32Imm (d : BitVec 7) (w : BitVec 1) (a : BitVec 8) (i : BitVec 8) : Statement (.addSatN32Imm d w a i) := by
  intro word hw
  obtain ⟨e0, e1, e2, e3, e4, e5⟩ := layout_7_1_8_8 9#8 d w a i word (Option.some.inj hw).symm
  refine decode_of_fields ?_
  simp only [decodeFields, e0, e1]
  change some (_) = _
  simp [e2, e3, e4, e5]

theorem subSatI32 (d : BitVec 7) (w : BitVec 1) (a : BitVec 8) (b : BitVec 8) : Statement (.subSatI32 d w a b) := by
  intro word hw
  obtain ⟨e0, e1, e2, e3, e4, e5⟩ := layout_7_1_8_8 10#8 d w a b word (Option.some.inj hw).symm
  refine decode_of_fields ?_
  simp only [decodeFields, e0, e1]
  change some (_) = _
  simp [e2, e3, e4, e5]

theorem subSatI32Imm (d : BitVec 7) (w : BitVec 1) (a : BitVec 8) (i : BitVec 8) : Statement (.subSatI32Imm d w a i) := by
  intro word hw
  obtain ⟨e0, e1, e2, e3, e4, e5⟩ := layout_7_1_8_8 11#8 d w a i word (Option.some.inj hw).symm
  refine decode_of_fields ?_
  simp only [decodeFields, e0, e1]
  change some (_) = _
  simp [e2, e3, e4, e5]

theorem subSatN32 (d : BitVec 7) (w : BitVec 1) (a : BitVec 8) (b : BitVec 8) : Statement (.subSatN32 d w a b) := by
  intro word hw
  obtain ⟨e0, e1, e2, e3, e4, e5⟩ := layout_7_1_8_8 12#8 d w a b word (Option.some.inj hw).symm
  refine decode_of_fields ?_
  simp only [decodeFields, e0, e1]
  change some (_) = _
  simp [e2, e3, e4, e5]

theorem subSatN32Imm (d : BitVec 7) (w : BitVec 1) (a : BitVec 8) (i : BitVec 8) : Statement (.subSatN32Imm d w a i) := by
  intro word hw
  obtain ⟨e0, e1, e2, e3, e4, e5⟩ := layout_7_1_8_8 13#8 d w a i word (Option.some.inj hw).symm
  refine decode_of_fields ?_
  simp only [decodeFields, e0, e1]
  change some (_) = _
  simp [e2, e3, e4, e5]

theorem mulI32 (d : BitVec 7) (w : BitVec 1) (a : BitVec 8) (b : BitVec 8) : Statement (.mulI32 d w a b) := by
  intro word hw
  obtain ⟨e0, e1, e2, e3, e4, e5⟩ := layout_7_1_8_8 14#8 d w a b word (Option.some.inj hw).symm
  refine decode_of_fields ?_
  simp only [decodeFields, e0, e1]
  change some (_) = _
  simp [e2, e3, e4, e5]

theorem mulI32Imm (d : BitVec 7) (w : BitVec 1) (a : BitVec 8) (i : BitVec 8) : Statement (.mulI32Imm d w a i) := by
  intro word hw
  obtain ⟨e0, e1, e2, e3, e4, e5⟩ := layout_7_1_8_8 15#8 d w a i word (Option.some.inj hw).symm
  refine decode_of_fields ?_
  simp only [decodeFields, e0, e1]
  change some (_) = _
  simp [e2, e3, e4, e5]

theorem mulSatI32 (d : BitVec 7) (w : BitVec 1) (a : BitVec 8) (b : BitVec 8) : Statement (.mulSatI32 d w a b) := by
  intro word hw
  obtain ⟨e0, e1, e2, e3, e4, e5⟩ := layout_7_1_8_8 16#8 d w a b word (Option.some.inj hw).symm
  refine decode_of_fields ?_
  simp only [decodeFields, e0, e1]
  change some (_) = _
  simp [e2, e3, e4, e5]

theorem mulSatI32Imm (d : BitVec 7) (w : BitVec 1) (a : BitVec 8) (i : BitVec 8) : Statement (.mulSatI32Imm d w a i) := by
  intro word hw
  obtain ⟨e0, e1, e2, e3, e4, e5⟩ := layout_7_1_8_8 17#8 d w a i word (Option.some.inj hw).symm
  refine decode_of_fields ?_
  simp only [decodeFields, e0, e1]
  change some (_) = _
  simp [e2, e3, e4, e5]

theorem mulSatN32 (d : BitVec 7) (w : BitVec 1) (a : BitVec 8) (b : BitVec 8) : Statement (.mulSatN32 d w a b) := by
  intro word hw
  obtain ⟨e0, e1, e2, e3, e4, e5⟩ := layout_7_1_8_8 18#8 d w a b word (Option.some.inj hw).symm
  refine decode_of_fields ?_
  simp only [decodeFields, e0, e1]
  change some (_) = _
  simp [e2, e3, e4, e5]

theorem mulSatN32Imm (d : BitVec 7) (w : BitVec 1) (a : BitVec 8) (i : BitVec 8) : Statement (.mulSatN32Imm d w a i) := by
  intro word hw
  obtain ⟨e0, e1, e2, e3, e4, e5⟩ := layout_7_1_8_8 19#8 d w a i word (Option.some.inj hw).symm
  refine decode_of_fields ?_
  simp only [decodeFields, e0, e1]
  change some (_) = _
  simp [e2, e3, e4, e5]

theorem mulhiI32 (d : BitVec 7) (w : BitVec 1) (a : BitVec 8) (b : BitVec 8) : Statement (.mulhiI32 d w a b) := by
  intro word hw
  obtain ⟨e0, e1, e2, e3, e4, e5⟩ := layout_7_1_8_8 20#8 d w a b word (Option.some.inj hw).symm
  refine decode_of_fields ?_
  simp only [decodeFields, e0, e1]
  change some (_) = _
  simp [e2, e3, e4, e5]

theorem mulhiI32Imm (d : BitVec 7) (w : BitVec 1) (a : BitVec 8) (i : BitVec 8) : Statement (.mulhiI32Imm d w a i) := by
  intro word hw
  obtain ⟨e0, e1, e2, e3, e4, e5⟩ := layout_7_1_8_8 21#8 d w a i word (Option.some.inj hw).symm
  refine decode_of_fields ?_
  simp only [decodeFields, e0, e1]
  change some (_) = _
  simp [e2, e3, e4, e5]

theorem mulhiN32 (d : BitVec 7) (w : BitVec 1) (a : BitVec 8) (b : BitVec 8) : Statement (.mulhiN32 d w a b) := by
  intro word hw
  obtain ⟨e0, e1, e2, e3, e4, e5⟩ := layout_7_1_8_8 22#8 d w a b word (Option.some.inj hw).symm
  refine decode_of_fields ?_
  simp only [decodeFields, e0, e1]
  change some (_) = _
  simp [e2, e3, e4, e5]

theorem mulhiN32Imm (d : BitVec 7) (w : BitVec 1) (a : BitVec 8) (i : BitVec 8) : Statement (.mulhiN32Imm d w a i) := by
  intro word hw
  obtain ⟨e0, e1, e2, e3, e4, e5⟩ := layout_7_1_8_8 23#8 d w a i word (Option.some.inj hw).symm
  refine decode_of_fields ?_
  simp only [decodeFields, e0, e1]
  change some (_) = _
  simp [e2, e3, e4, e5]

theorem mulwI32 (d : BitVec 7) (w : BitVec 1) (a : BitVec 8) (b : BitVec 8) : Statement (.mulwI32 d w a b) := by
  intro word hw
  obtain ⟨e0, e1, e2, e3, e4, e5⟩ := layout_7_1_8_8 24#8 d w a b word (Option.some.inj hw).symm
  refine decode_of_fields ?_
  simp only [decodeFields, e0, e1]
  change some (_) = _
  simp [e2, e3, e4, e5]

theorem mulwI32Imm (d : BitVec 7) (w : BitVec 1) (a : BitVec 8) (i : BitVec 8) : Statement (.mulwI32Imm d w a i) := by
  intro word hw
  obtain ⟨e0, e1, e2, e3, e4, e5⟩ := layout_7_1_8_8 25#8 d w a i word (Option.some.inj hw).symm
  refine decode_of_fields ?_
  simp only [decodeFields, e0, e1]
  change some (_) = _
  simp [e2, e3, e4, e5]

theorem mulwN32 (d : BitVec 7) (w : BitVec 1) (a : BitVec 8) (b : BitVec 8) : Statement (.mulwN32 d w a b) := by
  intro word hw
  obtain ⟨e0, e1, e2, e3, e4, e5⟩ := layout_7_1_8_8 26#8 d w a b word (Option.some.inj hw).symm
  refine decode_of_fields ?_
  simp only [decodeFields, e0, e1]
  change some (_) = _
  simp [e2, e3, e4, e5]

theorem mulwN32Imm (d : BitVec 7) (w : BitVec 1) (a : BitVec 8) (i : BitVec 8) : Statement (.mulwN32Imm d w a i) := by
  intro word hw
  obtain ⟨e0, e1, e2, e3, e4, e5⟩ := layout_7_1_8_8 27#8 d w a i word (Option.some.inj hw).symm
  refine decode_of_fields ?_
  simp only [decodeFields, e0, e1]
  change some (_) = _
  simp [e2, e3, e4, e5]

theorem addI64 (d : BitVec 7) (w : BitVec 1) (a : BitVec 8) (b : BitVec 8) : Statement (.addI64 d w a b) := by
  intro word hw
  obtain ⟨e0, e1, e2, e3, e4, e5⟩ := layout_7_1_8_8 28#8 d w a b word (Option.some.inj hw).symm
  refine decode_of_fields ?_
  simp only [decodeFields, e0, e1]
  change some (_) = _
  simp [e2, e3, e4, e5]

theorem addI64Imm (d : BitVec 7) (w : BitVec 1) (a : BitVec 8) (i : BitVec 8) : Statement (.addI64Imm d w a i) := by
  intro word hw
  obtain ⟨e0, e1, e2, e3, e4, e5⟩ := layout_7_1_8_8 29#8 d w a i word (Option.some.inj hw).symm
  refine decode_of_fields ?_
  simp only [decodeFields, e0, e1]
  change some (_) = _
  simp [e2, e3, e4, e5]

theorem subI64 (d : BitVec 7) (w : BitVec 1) (a : BitVec 8) (b : BitVec 8) : Statement (.subI64 d w a b) := by
  intro word hw
  obtain ⟨e0, e1, e2, e3, e4, e5⟩ := layout_7_1_8_8 30#8 d w a b word (Option.some.inj hw).symm
  refine decode_of_fields ?_
  simp only [decodeFields, e0, e1]
  change some (_) = _
  simp [e2, e3, e4, e5]

theorem subI64Imm (d : BitVec 7) (w : BitVec 1) (a : BitVec 8) (i : BitVec 8) : Statement (.subI64Imm d w a i) := by
  intro word hw
  obtain ⟨e0, e1, e2, e3, e4, e5⟩ := layout_7_1_8_8 31#8 d w a i word (Option.some.inj hw).symm
  refine decode_of_fields ?_
  simp only [decodeFields, e0, e1]
  change some (_) = _
  simp [e2, e3, e4, e5]

theorem divI32 (d : BitVec 7) (w : BitVec 1) (a : BitVec 8) (b : BitVec 8) : Statement (.divI32 d w a b) := by
  intro word hw
  obtain ⟨e0, e1, e2, e3, e4, e5⟩ := layout_7_1_8_8 32#8 d w a b word (Option.some.inj hw).symm
  refine decode_of_fields ?_
  simp only [decodeFields, e0, e1]
  change some (_) = _
  simp [e2, e3, e4, e5]

theorem divI32Imm (d : BitVec 7) (w : BitVec 1) (a : BitVec 8) (i : BitVec 8) : Statement (.divI32Imm d w a i) := by
  intro word hw
  obtain ⟨e0, e1, e2, e3, e4, e5⟩ := layout_7_1_8_8 33#8 d w a i word (Option.some.inj hw).symm
  refine decode_of_fields ?_
  simp only [decodeFields, e0, e1]
  change some (_) = _
  simp [e2, e3, e4, e5]

theorem divN32 (d : BitVec 7) (w : BitVec 1) (a : BitVec 8) (b : BitVec 8) : Statement (.divN32 d w a b) := by
  intro word hw
  obtain ⟨e0, e1, e2, e3, e4, e5⟩ := layout_7_1_8_8 34#8 d w a b word (Option.some.inj hw).symm
  refine decode_of_fields ?_
  simp only [decodeFields, e0, e1]
  change some (_) = _
  simp [e2, e3, e4, e5]

theorem divN32Imm (d : BitVec 7) (w : BitVec 1) (a : BitVec 8) (i : BitVec 8) : Statement (.divN32Imm d w a i) := by
  intro word hw
  obtain ⟨e0, e1, e2, e3, e4, e5⟩ := layout_7_1_8_8 35#8 d w a i word (Option.some.inj hw).symm
  refine decode_of_fields ?_
  simp only [decodeFields, e0, e1]
  change some (_) = _
  simp [e2, e3, e4, e5]

theorem remI32 (d : BitVec 7) (w : BitVec 1) (a : BitVec 8) (b : BitVec 8) : Statement (.remI32 d w a b) := by
  intro word hw
  obtain ⟨e0, e1, e2, e3, e4, e5⟩ := layout_7_1_8_8 36#8 d w a b word (Option.some.inj hw).symm
  refine decode_of_fields ?_
  simp only [decodeFields, e0, e1]
  change some (_) = _
  simp [e2, e3, e4, e5]

theorem remI32Imm (d : BitVec 7) (w : BitVec 1) (a : BitVec 8) (i : BitVec 8) : Statement (.remI32Imm d w a i) := by
  intro word hw
  obtain ⟨e0, e1, e2, e3, e4, e5⟩ := layout_7_1_8_8 37#8 d w a i word (Option.some.inj hw).symm
  refine decode_of_fields ?_
  simp only [decodeFields, e0, e1]
  change some (_) = _
  simp [e2, e3, e4, e5]

theorem remN32 (d : BitVec 7) (w : BitVec 1) (a : BitVec 8) (b : BitVec 8) : Statement (.remN32 d w a b) := by
  intro word hw
  obtain ⟨e0, e1, e2, e3, e4, e5⟩ := layout_7_1_8_8 38#8 d w a b word (Option.some.inj hw).symm
  refine decode_of_fields ?_
  simp only [decodeFields, e0, e1]
  change some (_) = _
  simp [e2, e3, e4, e5]

theorem remN32Imm (d : BitVec 7) (w : BitVec 1) (a : BitVec 8) (i : BitVec 8) : Statement (.remN32Imm d w a i) := by
  intro word hw
  obtain ⟨e0, e1, e2, e3, e4, e5⟩ := layout_7_1_8_8 39#8 d w a i word (Option.some.inj hw).symm
  refine decode_of_fields ?_
  simp only [decodeFields, e0, e1]
  change some (_) = _
  simp [e2, e3, e4, e5]

theorem minI32 (d : BitVec 7) (w : BitVec 1) (a : BitVec 8) (b : BitVec 8) : Statement (.minI32 d w a b) := by
  intro word hw
  obtain ⟨e0, e1, e2, e3, e4, e5⟩ := layout_7_1_8_8 40#8 d w a b word (Option.some.inj hw).symm
  refine decode_of_fields ?_
  simp only [decodeFields, e0, e1]
  change some (_) = _
  simp [e2, e3, e4, e5]

theorem minI32Imm (d : BitVec 7) (w : BitVec 1) (a : BitVec 8) (i : BitVec 8) : Statement (.minI32Imm d w a i) := by
  intro word hw
  obtain ⟨e0, e1, e2, e3, e4, e5⟩ := layout_7_1_8_8 41#8 d w a i word (Option.some.inj hw).symm
  refine decode_of_fields ?_
  simp only [decodeFields, e0, e1]
  change some (_) = _
  simp [e2, e3, e4, e5]

theorem maxI32 (d : BitVec 7) (w : BitVec 1) (a : BitVec 8) (b : BitVec 8) : Statement (.maxI32 d w a b) := by
  intro word hw
  obtain ⟨e0, e1, e2, e3, e4, e5⟩ := layout_7_1_8_8 42#8 d w a b word (Option.some.inj hw).symm
  refine decode_of_fields ?_
  simp only [decodeFields, e0, e1]
  change some (_) = _
  simp [e2, e3, e4, e5]

theorem maxI32Imm (d : BitVec 7) (w : BitVec 1) (a : BitVec 8) (i : BitVec 8) : Statement (.maxI32Imm d w a i) := by
  intro word hw
  obtain ⟨e0, e1, e2, e3, e4, e5⟩ := layout_7_1_8_8 43#8 d w a i word (Option.some.inj hw).symm
  refine decode_of_fields ?_
  simp only [decodeFields, e0, e1]
  change some (_) = _
  simp [e2, e3, e4, e5]

theorem minN32 (d : BitVec 7) (w : BitVec 1) (a : BitVec 8) (b : BitVec 8) : Statement (.minN32 d w a b) := by
  intro word hw
  obtain ⟨e0, e1, e2, e3, e4, e5⟩ := layout_7_1_8_8 44#8 d w a b word (Option.some.inj hw).symm
  refine decode_of_fields ?_
  simp only [decodeFields, e0, e1]
  change some (_) = _
  simp [e2, e3, e4, e5]

theorem minN32Imm (d : BitVec 7) (w : BitVec 1) (a : BitVec 8) (i : BitVec 8) : Statement (.minN32Imm d w a i) := by
  intro word hw
  obtain ⟨e0, e1, e2, e3, e4, e5⟩ := layout_7_1_8_8 45#8 d w a i word (Option.some.inj hw).symm
  refine decode_of_fields ?_
  simp only [decodeFields, e0, e1]
  change some (_) = _
  simp [e2, e3, e4, e5]

theorem maxN32 (d : BitVec 7) (w : BitVec 1) (a : BitVec 8) (b : BitVec 8) : Statement (.maxN32 d w a b) := by
  intro word hw
  obtain ⟨e0, e1, e2, e3, e4, e5⟩ := layout_7_1_8_8 46#8 d w a b word (Option.some.inj hw).symm
  refine decode_of_fields ?_
  simp only [decodeFields, e0, e1]
  change some (_) = _
  simp [e2, e3, e4, e5]

theorem maxN32Imm (d : BitVec 7) (w : BitVec 1) (a : BitVec 8) (i : BitVec 8) : Statement (.maxN32Imm d w a i) := by
  intro word hw
  obtain ⟨e0, e1, e2, e3, e4, e5⟩ := layout_7_1_8_8 47#8 d w a i word (Option.some.inj hw).symm
  refine decode_of_fields ?_
  simp only [decodeFields, e0, e1]
  change some (_) = _
  simp [e2, e3, e4, e5]

theorem and (d : BitVec 7) (w : BitVec 1) (a : BitVec 8) (b : BitVec 8) : Statement (.and d w a b) := by
  intro word hw
  obtain ⟨e0, e1, e2, e3, e4, e5⟩ := layout_7_1_8_8 48#8 d w a b word (Option.some.inj hw).symm
  refine decode_of_fields ?_
  simp only [decodeFields, e0, e1]
  change some (_) = _
  simp [e2, e3, e4, e5]

theorem andImm (d : BitVec 7) (w : BitVec 1) (a : BitVec 8) (i : BitVec 8) : Statement (.andImm d w a i) := by
  intro word hw
  obtain ⟨e0, e1, e2, e3, e4, e5⟩ := layout_7_1_8_8 49#8 d w a i word (Option.some.inj hw).symm
  refine decode_of_fields ?_
  simp only [decodeFields, e0, e1]
  change some (_) = _
  simp [e2, e3, e4, e5]

theorem or (d : BitVec 7) (w : BitVec 1) (a : BitVec 8) (b : BitVec 8) : Statement (.or d w a b) := by
  intro word hw
  obtain ⟨e0, e1, e2, e3, e4, e5⟩ := layout_7_1_8_8 50#8 d w a b word (Option.some.inj hw).symm
  refine decode_of_fields ?_
  simp only [decodeFields, e0, e1]
  change some (_) = _
  simp [e2, e3, e4, e5]

theorem orImm (d : BitVec 7) (w : BitVec 1) (a : BitVec 8) (i : BitVec 8) : Statement (.orImm d w a i) := by
  intro word hw
  obtain ⟨e0, e1, e2, e3, e4, e5⟩ := layout_7_1_8_8 51#8 d w a i word (Option.some.inj hw).symm
  refine decode_of_fields ?_
  simp only [decodeFields, e0, e1]
  change some (_) = _
  simp [e2, e3, e4, e5]

theorem xor (d : BitVec 7) (w : BitVec 1) (a : BitVec 8) (b : BitVec 8) : Statement (.xor d w a b) := by
  intro word hw
  obtain ⟨e0, e1, e2, e3, e4, e5⟩ := layout_7_1_8_8 52#8 d w a b word (Option.some.inj hw).symm
  refine decode_of_fields ?_
  simp only [decodeFields, e0, e1]
  change some (_) = _
  simp [e2, e3, e4, e5]

theorem xorImm (d : BitVec 7) (w : BitVec 1) (a : BitVec 8) (i : BitVec 8) : Statement (.xorImm d w a i) := by
  intro word hw
  obtain ⟨e0, e1, e2, e3, e4, e5⟩ := layout_7_1_8_8 53#8 d w a i word (Option.some.inj hw).symm
  refine decode_of_fields ?_
  simp only [decodeFields, e0, e1]
  change some (_) = _
  simp [e2, e3, e4, e5]

theorem shl (d : BitVec 7) (w : BitVec 1) (a : BitVec 8) (b : BitVec 8) : Statement (.shl d w a b) := by
  intro word hw
  obtain ⟨e0, e1, e2, e3, e4, e5⟩ := layout_7_1_8_8 54#8 d w a b word (Option.some.inj hw).symm
  refine decode_of_fields ?_
  simp only [decodeFields, e0, e1]
  change some (_) = _
  simp [e2, e3, e4, e5]

theorem shlImm (d : BitVec 7) (w : BitVec 1) (a : BitVec 8) (i : BitVec 8) : Statement (.shlImm d w a i) := by
  intro word hw
  obtain ⟨e0, e1, e2, e3, e4, e5⟩ := layout_7_1_8_8 55#8 d w a i word (Option.some.inj hw).symm
  refine decode_of_fields ?_
  simp only [decodeFields, e0, e1]
  change some (_) = _
  simp [e2, e3, e4, e5]

theorem shrN32 (d : BitVec 7) (w : BitVec 1) (a : BitVec 8) (b : BitVec 8) : Statement (.shrN32 d w a b) := by
  intro word hw
  obtain ⟨e0, e1, e2, e3, e4, e5⟩ := layout_7_1_8_8 56#8 d w a b word (Option.some.inj hw).symm
  refine decode_of_fields ?_
  simp only [decodeFields, e0, e1]
  change some (_) = _
  simp [e2, e3, e4, e5]

theorem shrN32Imm (d : BitVec 7) (w : BitVec 1) (a : BitVec 8) (i : BitVec 8) : Statement (.shrN32Imm d w a i) := by
  intro word hw
  obtain ⟨e0, e1, e2, e3, e4, e5⟩ := layout_7_1_8_8 57#8 d w a i word (Option.some.inj hw).symm
  refine decode_of_fields ?_
  simp only [decodeFields, e0, e1]
  change some (_) = _
  simp [e2, e3, e4, e5]

theorem shrI32 (d : BitVec 7) (w : BitVec 1) (a : BitVec 8) (b : BitVec 8) : Statement (.shrI32 d w a b) := by
  intro word hw
  obtain ⟨e0, e1, e2, e3, e4, e5⟩ := layout_7_1_8_8 58#8 d w a b word (Option.some.inj hw).symm
  refine decode_of_fields ?_
  simp only [decodeFields, e0, e1]
  change some (_) = _
  simp [e2, e3, e4, e5]

theorem shrI32Imm (d : BitVec 7) (w : BitVec 1) (a : BitVec 8) (i : BitVec 8) : Statement (.shrI32Imm d w a i) := by
  intro word hw
  obtain ⟨e0, e1, e2, e3, e4, e5⟩ := layout_7_1_8_8 59#8 d w a i word (Option.some.inj hw).symm
  refine decode_of_fields ?_
  simp only [decodeFields, e0, e1]
  change some (_) = _
  simp [e2, e3, e4, e5]

theorem cmpI32 (p : BitVec 6) (c : BitVec 2) (a : BitVec 8) (b : BitVec 8) : Statement (.cmpI32 p c a b) := by
  intro word hw
  obtain ⟨e0, e1, e2, e3, e4, e5⟩ := layout_6_2_8_8 60#8 p c a b word (Option.some.inj hw).symm
  refine decode_of_fields ?_
  simp only [decodeFields, e0, e1]
  change some (_) = _
  simp [e2, e3, e4, e5]

theorem cmpI32Imm (p : BitVec 6) (c : BitVec 2) (a : BitVec 8) (i : BitVec 8) : Statement (.cmpI32Imm p c a i) := by
  intro word hw
  obtain ⟨e0, e1, e2, e3, e4, e5⟩ := layout_6_2_8_8 61#8 p c a i word (Option.some.inj hw).symm
  refine decode_of_fields ?_
  simp only [decodeFields, e0, e1]
  change some (_) = _
  simp [e2, e3, e4, e5]

theorem cmpN32 (p : BitVec 6) (c : BitVec 2) (a : BitVec 8) (b : BitVec 8) : Statement (.cmpN32 p c a b) := by
  intro word hw
  obtain ⟨e0, e1, e2, e3, e4, e5⟩ := layout_6_2_8_8 62#8 p c a b word (Option.some.inj hw).symm
  refine decode_of_fields ?_
  simp only [decodeFields, e0, e1]
  change some (_) = _
  simp [e2, e3, e4, e5]

theorem cmpN32Imm (p : BitVec 6) (c : BitVec 2) (a : BitVec 8) (i : BitVec 8) : Statement (.cmpN32Imm p c a i) := by
  intro word hw
  obtain ⟨e0, e1, e2, e3, e4, e5⟩ := layout_6_2_8_8 63#8 p c a i word (Option.some.inj hw).symm
  refine decode_of_fields ?_
  simp only [decodeFields, e0, e1]
  change some (_) = _
  simp [e2, e3, e4, e5]

theorem cmpI64 (p : BitVec 6) (c : BitVec 2) (a : BitVec 8) (b : BitVec 8) : Statement (.cmpI64 p c a b) := by
  intro word hw
  obtain ⟨e0, e1, e2, e3, e4, e5⟩ := layout_6_2_8_8 64#8 p c a b word (Option.some.inj hw).symm
  refine decode_of_fields ?_
  simp only [decodeFields, e0, e1]
  change some (_) = _
  simp [e2, e3, e4, e5]

theorem plut (p : BitVec 6) (a : BitVec 6) (b : BitVec 6) (l : BitVec 4) : Statement (.plut p a b l) := by
  intro word hw
  obtain ⟨e0, e1, e2, e3, e4, e5, e6⟩ := layout_6_2_6_6_4 65#8 p 0#2 a b l word (Option.some.inj hw).symm
  refine decode_of_fields ?_
  simp only [decodeFields, e0, e1]
  change decode41 word = _
  simp [decode41, e2, e3, e4, e5, e6]

theorem sel (d : BitVec 7) (w : BitVec 1) (a : BitVec 8) (b : BitVec 8) : Statement (.sel d w a b) := by
  intro word hw
  obtain ⟨e0, e1, e2, e3, e4, e5⟩ := layout_7_1_8_8 66#8 d w a b word (Option.some.inj hw).symm
  refine decode_of_fields ?_
  simp only [decodeFields, e0, e1]
  change some (_) = _
  simp [e2, e3, e4, e5]

theorem nop : Statement (.nop) := by
  intro word hw
  obtain ⟨e0, e1, e2⟩ := layout_24 67#8 0#24 word (Option.some.inj hw).symm
  refine decode_of_fields ?_
  simp only [decodeFields, e0, e1]
  change decode43 word = _
  simp [decode43, e2]

theorem br (g : BitVec 6) (n : BitVec 1) (o : BitVec 16) : Statement (.br g n o) := by
  intro word hw
  obtain ⟨e0, e1, e2, e3, e4, e5⟩ := layout_6_1_1_16 72#8 g n 0#1 o word (Option.some.inj hw).symm
  refine decode_of_fields ?_
  simp only [decodeFields, e0, e1]
  change decode48 word = _
  simp [decode48, e2, e3, e4, e5]

theorem bru (g : BitVec 6) (n : BitVec 1) (o : BitVec 16) : Statement (.bru g n o) := by
  intro word hw
  obtain ⟨e0, e1, e2, e3, e4, e5⟩ := layout_6_1_1_16 73#8 g n 0#1 o word (Option.some.inj hw).symm
  refine decode_of_fields ?_
  simp only [decodeFields, e0, e1]
  change decode49 word = _
  simp [decode49, e2, e3, e4, e5]

theorem call (g : BitVec 6) (n : BitVec 1) (o : BitVec 16) : Statement (.call g n o) := by
  intro word hw
  obtain ⟨e0, e1, e2, e3, e4, e5⟩ := layout_6_1_1_16 74#8 g n 0#1 o word (Option.some.inj hw).symm
  refine decode_of_fields ?_
  simp only [decodeFields, e0, e1]
  change decode4A word = _
  simp [decode4A, e2, e3, e4, e5]

theorem calli (a : BitVec 8) : Statement (.calli a) := by
  intro word hw
  obtain ⟨e0, e1, e2, e3, e4⟩ := layout_8_8_8 75#8 0#8 a 0#8 word (Option.some.inj hw).symm
  refine decode_of_fields ?_
  simp only [decodeFields, e0, e1]
  change decode4B word = _
  simp [decode4B, e2, e3, e4]

theorem ret : Statement (.ret) := by
  intro word hw
  obtain ⟨e0, e1, e2⟩ := layout_24 76#8 0#24 word (Option.some.inj hw).symm
  refine decode_of_fields ?_
  simp only [decodeFields, e0, e1]
  change decode4C word = _
  simp [decode4C, e2]

theorem join (a : BitVec 8) : Statement (.join a) := by
  intro word hw
  obtain ⟨e0, e1, e2, e3, e4⟩ := layout_8_8_8 77#8 0#8 a 0#8 word (Option.some.inj hw).symm
  refine decode_of_fields ?_
  simp only [decodeFields, e0, e1]
  change decode4D word = _
  simp [decode4D, e2, e3, e4]

theorem tail : Statement (.tail) := by
  intro word hw
  obtain ⟨e0, e1, e2⟩ := layout_24 78#8 0#24 word (Option.some.inj hw).symm
  refine decode_of_fields ?_
  simp only [decodeFields, e0, e1]
  change decode4E word = _
  simp [decode4E, e2]

theorem exit : Statement (.exit) := by
  intro word hw
  obtain ⟨e0, e1, e2⟩ := layout_24 79#8 0#24 word (Option.some.inj hw).symm
  refine decode_of_fields ?_
  simp only [decodeFields, e0, e1]
  change decode4F word = _
  simp [decode4F, e2]

theorem brl (g : BitVec 6) (n : BitVec 1) (o : BitVec 16) : Statement (.brl g n o) := by
  intro word hw
  obtain ⟨e0, e1, e2, e3, e4, e5⟩ := layout_6_1_1_16 80#8 g n 0#1 o word (Option.some.inj hw).symm
  refine decode_of_fields ?_
  simp only [decodeFields, e0, e1]
  change decode50 word = _
  simp [decode50, e2, e3, e4, e5]

theorem calll (g : BitVec 6) (n : BitVec 1) (o : BitVec 16) : Statement (.calll g n o) := by
  intro word hw
  obtain ⟨e0, e1, e2, e3, e4, e5⟩ := layout_6_1_1_16 81#8 g n 0#1 o word (Option.some.inj hw).symm
  refine decode_of_fields ?_
  simp only [decodeFields, e0, e1]
  change decode51 word = _
  simp [decode51, e2, e3, e4, e5]

theorem uadd (d : BitVec 6) (a : BitVec 6) (b : BitVec 6) (i : BitVec 1) : Statement (.uadd d a b i) := by
  intro word hw
  obtain ⟨e0, e1, e2, e3, e4, e5, e6⟩ := layout_6_6_6_1_5 82#8 d a b i 0#5 word (Option.some.inj hw).symm
  refine decode_of_fields ?_
  simp only [decodeFields, e0, e1]
  change decode52 word = _
  simp [decode52, e2, e3, e4, e5, e6]

theorem usub (d : BitVec 6) (a : BitVec 6) (b : BitVec 6) (i : BitVec 1) : Statement (.usub d a b i) := by
  intro word hw
  obtain ⟨e0, e1, e2, e3, e4, e5, e6⟩ := layout_6_6_6_1_5 82#8 d a b i 1#5 word (Option.some.inj hw).symm
  refine decode_of_fields ?_
  simp only [decodeFields, e0, e1]
  change decode52 word = _
  simp [decode52, e2, e3, e4, e5, e6]

theorem umul (d : BitVec 6) (a : BitVec 6) (b : BitVec 6) (i : BitVec 1) : Statement (.umul d a b i) := by
  intro word hw
  obtain ⟨e0, e1, e2, e3, e4, e5, e6⟩ := layout_6_6_6_1_5 82#8 d a b i 2#5 word (Option.some.inj hw).symm
  refine decode_of_fields ?_
  simp only [decodeFields, e0, e1]
  change decode52 word = _
  simp [decode52, e2, e3, e4, e5, e6]

theorem uand (d : BitVec 6) (a : BitVec 6) (b : BitVec 6) (i : BitVec 1) : Statement (.uand d a b i) := by
  intro word hw
  obtain ⟨e0, e1, e2, e3, e4, e5, e6⟩ := layout_6_6_6_1_5 82#8 d a b i 3#5 word (Option.some.inj hw).symm
  refine decode_of_fields ?_
  simp only [decodeFields, e0, e1]
  change decode52 word = _
  simp [decode52, e2, e3, e4, e5, e6]

theorem uor (d : BitVec 6) (a : BitVec 6) (b : BitVec 6) (i : BitVec 1) : Statement (.uor d a b i) := by
  intro word hw
  obtain ⟨e0, e1, e2, e3, e4, e5, e6⟩ := layout_6_6_6_1_5 82#8 d a b i 4#5 word (Option.some.inj hw).symm
  refine decode_of_fields ?_
  simp only [decodeFields, e0, e1]
  change decode52 word = _
  simp [decode52, e2, e3, e4, e5, e6]

theorem uxor (d : BitVec 6) (a : BitVec 6) (b : BitVec 6) (i : BitVec 1) : Statement (.uxor d a b i) := by
  intro word hw
  obtain ⟨e0, e1, e2, e3, e4, e5, e6⟩ := layout_6_6_6_1_5 82#8 d a b i 5#5 word (Option.some.inj hw).symm
  refine decode_of_fields ?_
  simp only [decodeFields, e0, e1]
  change decode52 word = _
  simp [decode52, e2, e3, e4, e5, e6]

theorem ushl (d : BitVec 6) (a : BitVec 6) (b : BitVec 6) (i : BitVec 1) : Statement (.ushl d a b i) := by
  intro word hw
  obtain ⟨e0, e1, e2, e3, e4, e5, e6⟩ := layout_6_6_6_1_5 82#8 d a b i 6#5 word (Option.some.inj hw).symm
  refine decode_of_fields ?_
  simp only [decodeFields, e0, e1]
  change decode52 word = _
  simp [decode52, e2, e3, e4, e5, e6]

theorem ushrN64 (d : BitVec 6) (a : BitVec 6) (b : BitVec 6) (i : BitVec 1) : Statement (.ushrN64 d a b i) := by
  intro word hw
  obtain ⟨e0, e1, e2, e3, e4, e5, e6⟩ := layout_6_6_6_1_5 82#8 d a b i 7#5 word (Option.some.inj hw).symm
  refine decode_of_fields ?_
  simp only [decodeFields, e0, e1]
  change decode52 word = _
  simp [decode52, e2, e3, e4, e5, e6]

theorem ushrI64 (d : BitVec 6) (a : BitVec 6) (b : BitVec 6) (i : BitVec 1) : Statement (.ushrI64 d a b i) := by
  intro word hw
  obtain ⟨e0, e1, e2, e3, e4, e5, e6⟩ := layout_6_6_6_1_5 82#8 d a b i 8#5 word (Option.some.inj hw).symm
  refine decode_of_fields ?_
  simp only [decodeFields, e0, e1]
  change decode52 word = _
  simp [decode52, e2, e3, e4, e5, e6]

theorem uminI64 (d : BitVec 6) (a : BitVec 6) (b : BitVec 6) (i : BitVec 1) : Statement (.uminI64 d a b i) := by
  intro word hw
  obtain ⟨e0, e1, e2, e3, e4, e5, e6⟩ := layout_6_6_6_1_5 82#8 d a b i 9#5 word (Option.some.inj hw).symm
  refine decode_of_fields ?_
  simp only [decodeFields, e0, e1]
  change decode52 word = _
  simp [decode52, e2, e3, e4, e5, e6]

theorem umaxI64 (d : BitVec 6) (a : BitVec 6) (b : BitVec 6) (i : BitVec 1) : Statement (.umaxI64 d a b i) := by
  intro word hw
  obtain ⟨e0, e1, e2, e3, e4, e5, e6⟩ := layout_6_6_6_1_5 82#8 d a b i 10#5 word (Option.some.inj hw).symm
  refine decode_of_fields ?_
  simp only [decodeFields, e0, e1]
  change decode52 word = _
  simp [decode52, e2, e3, e4, e5, e6]

theorem uminN64 (d : BitVec 6) (a : BitVec 6) (b : BitVec 6) (i : BitVec 1) : Statement (.uminN64 d a b i) := by
  intro word hw
  obtain ⟨e0, e1, e2, e3, e4, e5, e6⟩ := layout_6_6_6_1_5 82#8 d a b i 11#5 word (Option.some.inj hw).symm
  refine decode_of_fields ?_
  simp only [decodeFields, e0, e1]
  change decode52 word = _
  simp [decode52, e2, e3, e4, e5, e6]

theorem umaxN64 (d : BitVec 6) (a : BitVec 6) (b : BitVec 6) (i : BitVec 1) : Statement (.umaxN64 d a b i) := by
  intro word hw
  obtain ⟨e0, e1, e2, e3, e4, e5, e6⟩ := layout_6_6_6_1_5 82#8 d a b i 12#5 word (Option.some.inj hw).symm
  refine decode_of_fields ?_
  simp only [decodeFields, e0, e1]
  change decode52 word = _
  simp [decode52, e2, e3, e4, e5, e6]

theorem umov (d : BitVec 6) (a : BitVec 6) (b : BitVec 6) (i : BitVec 1) : Statement (.umov d a b i) := by
  intro word hw
  obtain ⟨e0, e1, e2, e3, e4, e5, e6⟩ := layout_6_6_6_1_5 82#8 d a b i 13#5 word (Option.some.inj hw).symm
  refine decode_of_fields ?_
  simp only [decodeFields, e0, e1]
  change decode52 word = _
  simp [decode52, e2, e3, e4, e5, e6]

theorem udivN64 (d : BitVec 6) (a : BitVec 6) (b : BitVec 6) (i : BitVec 1) : Statement (.udivN64 d a b i) := by
  intro word hw
  obtain ⟨e0, e1, e2, e3, e4, e5, e6⟩ := layout_6_6_6_1_5 82#8 d a b i 14#5 word (Option.some.inj hw).symm
  refine decode_of_fields ?_
  simp only [decodeFields, e0, e1]
  change decode52 word = _
  simp [decode52, e2, e3, e4, e5, e6]

theorem uremN64 (d : BitVec 6) (a : BitVec 6) (b : BitVec 6) (i : BitVec 1) : Statement (.uremN64 d a b i) := by
  intro word hw
  obtain ⟨e0, e1, e2, e3, e4, e5, e6⟩ := layout_6_6_6_1_5 82#8 d a b i 15#5 word (Option.some.inj hw).symm
  refine decode_of_fields ?_
  simp only [decodeFields, e0, e1]
  change decode52 word = _
  simp [decode52, e2, e3, e4, e5, e6]

theorem udivI64 (d : BitVec 6) (a : BitVec 6) (b : BitVec 6) (i : BitVec 1) : Statement (.udivI64 d a b i) := by
  intro word hw
  obtain ⟨e0, e1, e2, e3, e4, e5, e6⟩ := layout_6_6_6_1_5 82#8 d a b i 16#5 word (Option.some.inj hw).symm
  refine decode_of_fields ?_
  simp only [decodeFields, e0, e1]
  change decode52 word = _
  simp [decode52, e2, e3, e4, e5, e6]

theorem uremI64 (d : BitVec 6) (a : BitVec 6) (b : BitVec 6) (i : BitVec 1) : Statement (.uremI64 d a b i) := by
  intro word hw
  obtain ⟨e0, e1, e2, e3, e4, e5, e6⟩ := layout_6_6_6_1_5 82#8 d a b i 17#5 word (Option.some.inj hw).symm
  refine decode_of_fields ?_
  simp only [decodeFields, e0, e1]
  change decode52 word = _
  simp [decode52, e2, e3, e4, e5, e6]

theorem ugetFirst (d : BitVec 6) (x : BitVec 8) (w : BitVec 1) : Statement (.ugetFirst d x w) := by
  intro word hw
  obtain ⟨e0, e1, e2, e3, e4, e5, e6⟩ := layout_6_2_8_1_7 83#8 d 0#2 x w 0#7 word (Option.some.inj hw).symm
  refine decode_of_fields ?_
  simp only [decodeFields, e0, e1]
  change decode53 word = _
  simp [decode53, e2, e3, e4, e5, e6]

theorem ugetAdd (d : BitVec 6) (x : BitVec 8) (w : BitVec 1) : Statement (.ugetAdd d x w) := by
  intro word hw
  obtain ⟨e0, e1, e2, e3, e4, e5, e6⟩ := layout_6_2_8_1_7 83#8 d 0#2 x w 1#7 word (Option.some.inj hw).symm
  refine decode_of_fields ?_
  simp only [decodeFields, e0, e1]
  change decode53 word = _
  simp [decode53, e2, e3, e4, e5, e6]

theorem ugetMinI (d : BitVec 6) (x : BitVec 8) (w : BitVec 1) : Statement (.ugetMinI d x w) := by
  intro word hw
  obtain ⟨e0, e1, e2, e3, e4, e5, e6⟩ := layout_6_2_8_1_7 83#8 d 0#2 x w 2#7 word (Option.some.inj hw).symm
  refine decode_of_fields ?_
  simp only [decodeFields, e0, e1]
  change decode53 word = _
  simp [decode53, e2, e3, e4, e5, e6]

theorem ugetMaxI (d : BitVec 6) (x : BitVec 8) (w : BitVec 1) : Statement (.ugetMaxI d x w) := by
  intro word hw
  obtain ⟨e0, e1, e2, e3, e4, e5, e6⟩ := layout_6_2_8_1_7 83#8 d 0#2 x w 3#7 word (Option.some.inj hw).symm
  refine decode_of_fields ?_
  simp only [decodeFields, e0, e1]
  change decode53 word = _
  simp [decode53, e2, e3, e4, e5, e6]

theorem ugetMinN (d : BitVec 6) (x : BitVec 8) (w : BitVec 1) : Statement (.ugetMinN d x w) := by
  intro word hw
  obtain ⟨e0, e1, e2, e3, e4, e5, e6⟩ := layout_6_2_8_1_7 83#8 d 0#2 x w 4#7 word (Option.some.inj hw).symm
  refine decode_of_fields ?_
  simp only [decodeFields, e0, e1]
  change decode53 word = _
  simp [decode53, e2, e3, e4, e5, e6]

theorem ugetMaxN (d : BitVec 6) (x : BitVec 8) (w : BitVec 1) : Statement (.ugetMaxN d x w) := by
  intro word hw
  obtain ⟨e0, e1, e2, e3, e4, e5, e6⟩ := layout_6_2_8_1_7 83#8 d 0#2 x w 5#7 word (Option.some.inj hw).symm
  refine decode_of_fields ?_
  simp only [decodeFields, e0, e1]
  change decode53 word = _
  simp [decode53, e2, e3, e4, e5, e6]

theorem ugetAnd (d : BitVec 6) (x : BitVec 8) (w : BitVec 1) : Statement (.ugetAnd d x w) := by
  intro word hw
  obtain ⟨e0, e1, e2, e3, e4, e5, e6⟩ := layout_6_2_8_1_7 83#8 d 0#2 x w 6#7 word (Option.some.inj hw).symm
  refine decode_of_fields ?_
  simp only [decodeFields, e0, e1]
  change decode53 word = _
  simp [decode53, e2, e3, e4, e5, e6]

theorem ugetOr (d : BitVec 6) (x : BitVec 8) (w : BitVec 1) : Statement (.ugetOr d x w) := by
  intro word hw
  obtain ⟨e0, e1, e2, e3, e4, e5, e6⟩ := layout_6_2_8_1_7 83#8 d 0#2 x w 7#7 word (Option.some.inj hw).symm
  refine decode_of_fields ?_
  simp only [decodeFields, e0, e1]
  change decode53 word = _
  simp [decode53, e2, e3, e4, e5, e6]

theorem ugetXor (d : BitVec 6) (x : BitVec 8) (w : BitVec 1) : Statement (.ugetXor d x w) := by
  intro word hw
  obtain ⟨e0, e1, e2, e3, e4, e5, e6⟩ := layout_6_2_8_1_7 83#8 d 0#2 x w 8#7 word (Option.some.inj hw).symm
  refine decode_of_fields ?_
  simp only [decodeFields, e0, e1]
  change decode53 word = _
  simp [decode53, e2, e3, e4, e5, e6]

theorem ugetAny (d : BitVec 6) (x : BitVec 8) (w : BitVec 1) : Statement (.ugetAny d x w) := by
  intro word hw
  obtain ⟨e0, e1, e2, e3, e4, e5, e6⟩ := layout_6_2_8_1_7 83#8 d 0#2 x w 9#7 word (Option.some.inj hw).symm
  refine decode_of_fields ?_
  simp only [decodeFields, e0, e1]
  change decode53 word = _
  simp [decode53, e2, e3, e4, e5, e6]

theorem ugetAll (d : BitVec 6) (x : BitVec 8) (w : BitVec 1) : Statement (.ugetAll d x w) := by
  intro word hw
  obtain ⟨e0, e1, e2, e3, e4, e5, e6⟩ := layout_6_2_8_1_7 83#8 d 0#2 x w 10#7 word (Option.some.inj hw).symm
  refine decode_of_fields ?_
  simp only [decodeFields, e0, e1]
  change decode53 word = _
  simp [decode53, e2, e3, e4, e5, e6]

theorem ugetCount (d : BitVec 6) (x : BitVec 8) (w : BitVec 1) : Statement (.ugetCount d x w) := by
  intro word hw
  obtain ⟨e0, e1, e2, e3, e4, e5, e6⟩ := layout_6_2_8_1_7 83#8 d 0#2 x w 11#7 word (Option.some.inj hw).symm
  refine decode_of_fields ?_
  simp only [decodeFields, e0, e1]
  change decode53 word = _
  simp [decode53, e2, e3, e4, e5, e6]

theorem ucmpEq (d : BitVec 6) (a : BitVec 6) (b : BitVec 6) (i : BitVec 1) : Statement (.ucmpEq d a b i) := by
  intro word hw
  obtain ⟨e0, e1, e2, e3, e4, e5, e6⟩ := layout_6_6_6_1_5 84#8 d a b i 0#5 word (Option.some.inj hw).symm
  refine decode_of_fields ?_
  simp only [decodeFields, e0, e1]
  change decode54 word = _
  simp [decode54, e2, e3, e4, e5, e6]

theorem ucmpNe (d : BitVec 6) (a : BitVec 6) (b : BitVec 6) (i : BitVec 1) : Statement (.ucmpNe d a b i) := by
  intro word hw
  obtain ⟨e0, e1, e2, e3, e4, e5, e6⟩ := layout_6_6_6_1_5 84#8 d a b i 1#5 word (Option.some.inj hw).symm
  refine decode_of_fields ?_
  simp only [decodeFields, e0, e1]
  change decode54 word = _
  simp [decode54, e2, e3, e4, e5, e6]

theorem ucmpLtI64 (d : BitVec 6) (a : BitVec 6) (b : BitVec 6) (i : BitVec 1) : Statement (.ucmpLtI64 d a b i) := by
  intro word hw
  obtain ⟨e0, e1, e2, e3, e4, e5, e6⟩ := layout_6_6_6_1_5 84#8 d a b i 2#5 word (Option.some.inj hw).symm
  refine decode_of_fields ?_
  simp only [decodeFields, e0, e1]
  change decode54 word = _
  simp [decode54, e2, e3, e4, e5, e6]

theorem ucmpGeI64 (d : BitVec 6) (a : BitVec 6) (b : BitVec 6) (i : BitVec 1) : Statement (.ucmpGeI64 d a b i) := by
  intro word hw
  obtain ⟨e0, e1, e2, e3, e4, e5, e6⟩ := layout_6_6_6_1_5 84#8 d a b i 3#5 word (Option.some.inj hw).symm
  refine decode_of_fields ?_
  simp only [decodeFields, e0, e1]
  change decode54 word = _
  simp [decode54, e2, e3, e4, e5, e6]

theorem ucmpLtN64 (d : BitVec 6) (a : BitVec 6) (b : BitVec 6) (i : BitVec 1) : Statement (.ucmpLtN64 d a b i) := by
  intro word hw
  obtain ⟨e0, e1, e2, e3, e4, e5, e6⟩ := layout_6_6_6_1_5 84#8 d a b i 4#5 word (Option.some.inj hw).symm
  refine decode_of_fields ?_
  simp only [decodeFields, e0, e1]
  change decode54 word = _
  simp [decode54, e2, e3, e4, e5, e6]

theorem ucmpGeN64 (d : BitVec 6) (a : BitVec 6) (b : BitVec 6) (i : BitVec 1) : Statement (.ucmpGeN64 d a b i) := by
  intro word hw
  obtain ⟨e0, e1, e2, e3, e4, e5, e6⟩ := layout_6_6_6_1_5 84#8 d a b i 5#5 word (Option.some.inj hw).symm
  refine decode_of_fields ?_
  simp only [decodeFields, e0, e1]
  change decode54 word = _
  simp [decode54, e2, e3, e4, e5, e6]

theorem uld (d : BitVec 6) (a : BitVec 6) (b : BitVec 6) (s : BitVec 1) (z : BitVec 2) : Statement (.uld d a b s z) := by
  intro word hw
  obtain ⟨e0, e1, e2, e3, e4, e5, e6, e7⟩ := layout_6_6_6_3_1_2 85#8 d a b 0#3 s z word (Option.some.inj hw).symm
  refine decode_of_fields ?_
  simp only [decodeFields, e0, e1]
  change decode55 word = _
  simp [decode55, e2, e3, e4, e5, e6, e7]

theorem post (d : BitVec 6) (a : BitVec 6) (b : BitVec 6) : Statement (.post d a b) := by
  intro word hw
  obtain ⟨e0, e1, e2, e3, e4, e5⟩ := layout_6_6_6_6 86#8 d a b 0#6 word (Option.some.inj hw).symm
  refine decode_of_fields ?_
  simp only [decodeFields, e0, e1]
  change decode56 word = _
  simp [decode56, e2, e3, e4, e5]

theorem postSelf (d : BitVec 6) (a : BitVec 6) : Statement (.postSelf d a) := by
  intro word hw
  obtain ⟨e0, e1, e2, e3, e4, e5⟩ := layout_6_6_6_6 86#8 d a 0#6 1#6 word (Option.some.inj hw).symm
  refine decode_of_fields ?_
  simp only [decodeFields, e0, e1]
  change decode56 word = _
  simp [decode56, e2, e3, e4, e5]

theorem widen (d : BitVec 7) (a : BitVec 8) : Statement (.widen d a) := by
  intro word hw
  obtain ⟨e0, e1, e2, e3, e4, e5⟩ := layout_7_1_8_8 88#8 d 0#1 a 0#8 word (Option.some.inj hw).symm
  refine decode_of_fields ?_
  simp only [decodeFields, e0, e1]
  change decode58 word = _
  simp [decode58, e2, e3, e4, e5]

theorem widenCount (d : BitVec 7) (a : BitVec 8) : Statement (.widenCount d a) := by
  intro word hw
  obtain ⟨e0, e1, e2, e3, e4, e5⟩ := layout_7_1_8_8 88#8 d 0#1 a 1#8 word (Option.some.inj hw).symm
  refine decode_of_fields ?_
  simp only [decodeFields, e0, e1]
  change decode58 word = _
  simp [decode58, e2, e3, e4, e5]

theorem widenFull (d : BitVec 7) : Statement (.widenFull d) := by
  intro word hw
  obtain ⟨e0, e1, e2, e3, e4, e5⟩ := layout_7_1_8_8 88#8 d 0#1 127#8 2#8 word (Option.some.inj hw).symm
  refine decode_of_fields ?_
  simp only [decodeFields, e0, e1]
  change decode58 word = _
  simp [decode58, e2, e3, e4, e5]

theorem shrdLo (d : BitVec 7) (w : BitVec 1) (a : BitVec 8) : Statement (.shrdLo d w a) := by
  intro word hw
  obtain ⟨e0, e1, e2, e3, e4, e5⟩ := layout_7_1_8_8 89#8 d w a 0#8 word (Option.some.inj hw).symm
  refine decode_of_fields ?_
  simp only [decodeFields, e0, e1]
  change decode59 word = _
  simp [decode59, e2, e3, e4, e5]

theorem shrdHi (d : BitVec 7) (w : BitVec 1) (a : BitVec 8) : Statement (.shrdHi d w a) := by
  intro word hw
  obtain ⟨e0, e1, e2, e3, e4, e5⟩ := layout_7_1_8_8 89#8 d w a 1#8 word (Option.some.inj hw).symm
  refine decode_of_fields ?_
  simp only [decodeFields, e0, e1]
  change decode59 word = _
  simp [decode59, e2, e3, e4, e5]

theorem shwr (d : BitVec 7) (a : BitVec 8) (b : BitVec 8) : Statement (.shwr d a b) := by
  intro word hw
  obtain ⟨e0, e1, e2, e3, e4, e5⟩ := layout_7_1_8_8 90#8 d 0#1 a b word (Option.some.inj hw).symm
  refine decode_of_fields ?_
  simp only [decodeFields, e0, e1]
  change decode5A word = _
  simp [decode5A, e2, e3, e4, e5]

theorem arrget (d : BitVec 7) (w : BitVec 1) (f : BitVec 3) (n : BitVec 4) : Statement (.arrget d w f n) := by
  intro word hw
  obtain ⟨e0, e1, e2, e3, e4, e5, e6⟩ := layout_7_1_9_3_4 91#8 d w 254#9 f n word (Option.some.inj hw).symm
  refine decode_of_fields ?_
  simp only [decodeFields, e0, e1]
  change decode5B word = _
  simp [decode5B, e2, e3, e4, e5, e6]

theorem arrgetBase64 (d : BitVec 7) (w : BitVec 1) (n : BitVec 4) : Statement (.arrgetBase64 d w n) := by
  intro word hw
  obtain ⟨e0, e1, e2, e3, e4, e5, e6⟩ := layout_7_1_9_3_4 91#8 d w 255#9 0#3 n word (Option.some.inj hw).symm
  refine decode_of_fields ?_
  simp only [decodeFields, e0, e1]
  change decode5B word = _
  simp [decode5B, e2, e3, e4, e5, e6]

theorem arrset (n : BitVec 4) (a : BitVec 6) (f : BitVec 6) : Statement (.arrset n a f) := by
  intro word hw
  obtain ⟨e0, e1, e2, e3, e4, e5, e6⟩ := layout_2_4_6_6_6 92#8 0#2 n a 0#6 f word (Option.some.inj hw).symm
  refine decode_of_fields ?_
  simp only [decodeFields, e0, e1]
  change decode5C word = _
  simp [decode5C, e2, e3, e4, e5, e6]

theorem faddF32 (d : BitVec 7) (w : BitVec 1) (a : BitVec 8) (b : BitVec 8) : Statement (.faddF32 d w a b) := by
  intro word hw
  obtain ⟨e0, e1, e2, e3, e4, e5⟩ := layout_7_1_8_8 96#8 d w a b word (Option.some.inj hw).symm
  refine decode_of_fields ?_
  simp only [decodeFields, e0, e1]
  change some (_) = _
  simp [e2, e3, e4, e5]

theorem fsubF32 (d : BitVec 7) (w : BitVec 1) (a : BitVec 8) (b : BitVec 8) : Statement (.fsubF32 d w a b) := by
  intro word hw
  obtain ⟨e0, e1, e2, e3, e4, e5⟩ := layout_7_1_8_8 97#8 d w a b word (Option.some.inj hw).symm
  refine decode_of_fields ?_
  simp only [decodeFields, e0, e1]
  change some (_) = _
  simp [e2, e3, e4, e5]

theorem fmulF32 (d : BitVec 7) (w : BitVec 1) (a : BitVec 8) (b : BitVec 8) : Statement (.fmulF32 d w a b) := by
  intro word hw
  obtain ⟨e0, e1, e2, e3, e4, e5⟩ := layout_7_1_8_8 98#8 d w a b word (Option.some.inj hw).symm
  refine decode_of_fields ?_
  simp only [decodeFields, e0, e1]
  change some (_) = _
  simp [e2, e3, e4, e5]

theorem fmaF32 (d : BitVec 7) (w : BitVec 1) (a : BitVec 8) (b : BitVec 8) : Statement (.fmaF32 d w a b) := by
  intro word hw
  obtain ⟨e0, e1, e2, e3, e4, e5⟩ := layout_7_1_8_8 99#8 d w a b word (Option.some.inj hw).symm
  refine decode_of_fields ?_
  simp only [decodeFields, e0, e1]
  change some (_) = _
  simp [e2, e3, e4, e5]

theorem fminF32 (d : BitVec 7) (w : BitVec 1) (a : BitVec 8) (b : BitVec 8) : Statement (.fminF32 d w a b) := by
  intro word hw
  obtain ⟨e0, e1, e2, e3, e4, e5⟩ := layout_7_1_8_8 100#8 d w a b word (Option.some.inj hw).symm
  refine decode_of_fields ?_
  simp only [decodeFields, e0, e1]
  change some (_) = _
  simp [e2, e3, e4, e5]

theorem fmaxF32 (d : BitVec 7) (w : BitVec 1) (a : BitVec 8) (b : BitVec 8) : Statement (.fmaxF32 d w a b) := by
  intro word hw
  obtain ⟨e0, e1, e2, e3, e4, e5⟩ := layout_7_1_8_8 101#8 d w a b word (Option.some.inj hw).symm
  refine decode_of_fields ?_
  simp only [decodeFields, e0, e1]
  change some (_) = _
  simp [e2, e3, e4, e5]

theorem faddF16 (d : BitVec 7) (w : BitVec 1) (a : BitVec 8) (b : BitVec 8) : Statement (.faddF16 d w a b) := by
  intro word hw
  obtain ⟨e0, e1, e2, e3, e4, e5⟩ := layout_7_1_8_8 102#8 d w a b word (Option.some.inj hw).symm
  refine decode_of_fields ?_
  simp only [decodeFields, e0, e1]
  change some (_) = _
  simp [e2, e3, e4, e5]

theorem fmulF16 (d : BitVec 7) (w : BitVec 1) (a : BitVec 8) (b : BitVec 8) : Statement (.fmulF16 d w a b) := by
  intro word hw
  obtain ⟨e0, e1, e2, e3, e4, e5⟩ := layout_7_1_8_8 103#8 d w a b word (Option.some.inj hw).symm
  refine decode_of_fields ?_
  simp only [decodeFields, e0, e1]
  change some (_) = _
  simp [e2, e3, e4, e5]

theorem fmaF16 (d : BitVec 7) (w : BitVec 1) (a : BitVec 8) (b : BitVec 8) : Statement (.fmaF16 d w a b) := by
  intro word hw
  obtain ⟨e0, e1, e2, e3, e4, e5⟩ := layout_7_1_8_8 104#8 d w a b word (Option.some.inj hw).symm
  refine decode_of_fields ?_
  simp only [decodeFields, e0, e1]
  change some (_) = _
  simp [e2, e3, e4, e5]

theorem faddBf16 (d : BitVec 7) (w : BitVec 1) (a : BitVec 8) (b : BitVec 8) : Statement (.faddBf16 d w a b) := by
  intro word hw
  obtain ⟨e0, e1, e2, e3, e4, e5⟩ := layout_7_1_8_8 105#8 d w a b word (Option.some.inj hw).symm
  refine decode_of_fields ?_
  simp only [decodeFields, e0, e1]
  change some (_) = _
  simp [e2, e3, e4, e5]

theorem fmulBf16 (d : BitVec 7) (w : BitVec 1) (a : BitVec 8) (b : BitVec 8) : Statement (.fmulBf16 d w a b) := by
  intro word hw
  obtain ⟨e0, e1, e2, e3, e4, e5⟩ := layout_7_1_8_8 106#8 d w a b word (Option.some.inj hw).symm
  refine decode_of_fields ?_
  simp only [decodeFields, e0, e1]
  change some (_) = _
  simp [e2, e3, e4, e5]

theorem fmaBf16 (d : BitVec 7) (w : BitVec 1) (a : BitVec 8) (b : BitVec 8) : Statement (.fmaBf16 d w a b) := by
  intro word hw
  obtain ⟨e0, e1, e2, e3, e4, e5⟩ := layout_7_1_8_8 107#8 d w a b word (Option.some.inj hw).symm
  refine decode_of_fields ?_
  simp only [decodeFields, e0, e1]
  change some (_) = _
  simp [e2, e3, e4, e5]

theorem fmodFsub (d : BitVec 7) (w : BitVec 1) (a : BitVec 8) (t : BitVec 2) : Statement (.fmodFsub d w a t) := by
  intro word hw
  obtain ⟨e0, e1, e2, e3, e4, e5, e6⟩ := layout_7_1_8_2_6 108#8 d w a t 0#6 word (Option.some.inj hw).symm
  refine decode_of_fields ?_
  simp only [decodeFields, e0, e1]
  change decode6C word = _
  simp [decode6C, e2, e3, e4, e5, e6]

theorem fmodFmin (d : BitVec 7) (w : BitVec 1) (a : BitVec 8) (t : BitVec 2) : Statement (.fmodFmin d w a t) := by
  intro word hw
  obtain ⟨e0, e1, e2, e3, e4, e5, e6⟩ := layout_7_1_8_2_6 108#8 d w a t 1#6 word (Option.some.inj hw).symm
  refine decode_of_fields ?_
  simp only [decodeFields, e0, e1]
  change decode6C word = _
  simp [decode6C, e2, e3, e4, e5, e6]

theorem fmodFmax (d : BitVec 7) (w : BitVec 1) (a : BitVec 8) (t : BitVec 2) : Statement (.fmodFmax d w a t) := by
  intro word hw
  obtain ⟨e0, e1, e2, e3, e4, e5, e6⟩ := layout_7_1_8_2_6 108#8 d w a t 2#6 word (Option.some.inj hw).symm
  refine decode_of_fields ?_
  simp only [decodeFields, e0, e1]
  change decode6C word = _
  simp [decode6C, e2, e3, e4, e5, e6]

theorem fabs (d : BitVec 7) (w : BitVec 1) (a : BitVec 8) (t : BitVec 2) : Statement (.fabs d w a t) := by
  intro word hw
  obtain ⟨e0, e1, e2, e3, e4, e5, e6⟩ := layout_7_1_8_2_6 108#8 d w a t 3#6 word (Option.some.inj hw).symm
  refine decode_of_fields ?_
  simp only [decodeFields, e0, e1]
  change decode6C word = _
  simp [decode6C, e2, e3, e4, e5, e6]

theorem fneg (d : BitVec 7) (w : BitVec 1) (a : BitVec 8) (t : BitVec 2) : Statement (.fneg d w a t) := by
  intro word hw
  obtain ⟨e0, e1, e2, e3, e4, e5, e6⟩ := layout_7_1_8_2_6 108#8 d w a t 4#6 word (Option.some.inj hw).symm
  refine decode_of_fields ?_
  simp only [decodeFields, e0, e1]
  change decode6C word = _
  simp [decode6C, e2, e3, e4, e5, e6]

theorem fcps (d : BitVec 7) (w : BitVec 1) (a : BitVec 8) (t : BitVec 2) : Statement (.fcps d w a t) := by
  intro word hw
  obtain ⟨e0, e1, e2, e3, e4, e5, e6⟩ := layout_7_1_8_2_6 108#8 d w a t 5#6 word (Option.some.inj hw).symm
  refine decode_of_fields ?_
  simp only [decodeFields, e0, e1]
  change decode6C word = _
  simp [decode6C, e2, e3, e4, e5, e6]

theorem rcp (d : BitVec 7) (w : BitVec 1) (a : BitVec 8) (t : BitVec 2) : Statement (.rcp d w a t) := by
  intro word hw
  obtain ⟨e0, e1, e2, e3, e4, e5, e6⟩ := layout_7_1_8_2_6 109#8 d w a t 0#6 word (Option.some.inj hw).symm
  refine decode_of_fields ?_
  simp only [decodeFields, e0, e1]
  change decode6D word = _
  simp [decode6D, e2, e3, e4, e5, e6]

theorem rsq (d : BitVec 7) (w : BitVec 1) (a : BitVec 8) (t : BitVec 2) : Statement (.rsq d w a t) := by
  intro word hw
  obtain ⟨e0, e1, e2, e3, e4, e5, e6⟩ := layout_7_1_8_2_6 109#8 d w a t 1#6 word (Option.some.inj hw).symm
  refine decode_of_fields ?_
  simp only [decodeFields, e0, e1]
  change decode6D word = _
  simp [decode6D, e2, e3, e4, e5, e6]

theorem sqrt (d : BitVec 7) (w : BitVec 1) (a : BitVec 8) (t : BitVec 2) : Statement (.sqrt d w a t) := by
  intro word hw
  obtain ⟨e0, e1, e2, e3, e4, e5, e6⟩ := layout_7_1_8_2_6 109#8 d w a t 2#6 word (Option.some.inj hw).symm
  refine decode_of_fields ?_
  simp only [decodeFields, e0, e1]
  change decode6D word = _
  simp [decode6D, e2, e3, e4, e5, e6]

theorem ex2 (d : BitVec 7) (w : BitVec 1) (a : BitVec 8) (t : BitVec 2) : Statement (.ex2 d w a t) := by
  intro word hw
  obtain ⟨e0, e1, e2, e3, e4, e5, e6⟩ := layout_7_1_8_2_6 109#8 d w a t 3#6 word (Option.some.inj hw).symm
  refine decode_of_fields ?_
  simp only [decodeFields, e0, e1]
  change decode6D word = _
  simp [decode6D, e2, e3, e4, e5, e6]

theorem lg2 (d : BitVec 7) (w : BitVec 1) (a : BitVec 8) (t : BitVec 2) : Statement (.lg2 d w a t) := by
  intro word hw
  obtain ⟨e0, e1, e2, e3, e4, e5, e6⟩ := layout_7_1_8_2_6 109#8 d w a t 4#6 word (Option.some.inj hw).symm
  refine decode_of_fields ?_
  simp only [decodeFields, e0, e1]
  change decode6D word = _
  simp [decode6D, e2, e3, e4, e5, e6]

theorem sin (d : BitVec 7) (w : BitVec 1) (a : BitVec 8) (t : BitVec 2) : Statement (.sin d w a t) := by
  intro word hw
  obtain ⟨e0, e1, e2, e3, e4, e5, e6⟩ := layout_7_1_8_2_6 109#8 d w a t 5#6 word (Option.some.inj hw).symm
  refine decode_of_fields ?_
  simp only [decodeFields, e0, e1]
  change decode6D word = _
  simp [decode6D, e2, e3, e4, e5, e6]

theorem cos (d : BitVec 7) (w : BitVec 1) (a : BitVec 8) (t : BitVec 2) : Statement (.cos d w a t) := by
  intro word hw
  obtain ⟨e0, e1, e2, e3, e4, e5, e6⟩ := layout_7_1_8_2_6 109#8 d w a t 6#6 word (Option.some.inj hw).symm
  refine decode_of_fields ?_
  simp only [decodeFields, e0, e1]
  change decode6D word = _
  simp [decode6D, e2, e3, e4, e5, e6]

theorem tanh (d : BitVec 7) (w : BitVec 1) (a : BitVec 8) (t : BitVec 2) : Statement (.tanh d w a t) := by
  intro word hw
  obtain ⟨e0, e1, e2, e3, e4, e5, e6⟩ := layout_7_1_8_2_6 109#8 d w a t 7#6 word (Option.some.inj hw).symm
  refine decode_of_fields ?_
  simp only [decodeFields, e0, e1]
  change decode6D word = _
  simp [decode6D, e2, e3, e4, e5, e6]

theorem fcmpF32 (p : BitVec 6) (c : BitVec 2) (a : BitVec 8) (b : BitVec 8) : Statement (.fcmpF32 p c a b) := by
  intro word hw
  obtain ⟨e0, e1, e2, e3, e4, e5⟩ := layout_6_2_8_8 110#8 p c a b word (Option.some.inj hw).symm
  refine decode_of_fields ?_
  simp only [decodeFields, e0, e1]
  change some (_) = _
  simp [e2, e3, e4, e5]

theorem fcmpH (p : BitVec 6) (c : BitVec 2) (a : BitVec 8) (b : BitVec 8) : Statement (.fcmpH p c a b) := by
  intro word hw
  obtain ⟨e0, e1, e2, e3, e4, e5⟩ := layout_6_2_8_8 111#8 p c a b word (Option.some.inj hw).symm
  refine decode_of_fields ?_
  simp only [decodeFields, e0, e1]
  change some (_) = _
  simp [e2, e3, e4, e5]

theorem cvtF (d : BitVec 7) (w : BitVec 1) (a : BitVec 8) (r : BitVec 3) (e : BitVec 2) (s : BitVec 3) : Statement (.cvtF d w a r e s) := by
  intro word hw
  obtain ⟨e0, e1, e2, e3, e4, e5, e6, e7⟩ := layout_7_1_8_3_2_3 112#8 d w a r e s word (Option.some.inj hw).symm
  refine decode_of_fields ?_
  simp only [decodeFields, e0, e1]
  change some (_) = _
  simp [e2, e3, e4, e5, e6, e7]

theorem cvtI (d : BitVec 7) (w : BitVec 1) (a : BitVec 8) (r : BitVec 3) (s : BitVec 2) (e : BitVec 3) : Statement (.cvtI d w a r s e) := by
  intro word hw
  obtain ⟨e0, e1, e2, e3, e4, e5, e6, e7⟩ := layout_7_1_8_3_2_3 113#8 d w a r s e word (Option.some.inj hw).symm
  refine decode_of_fields ?_
  simp only [decodeFields, e0, e1]
  change some (_) = _
  simp [e2, e3, e4, e5, e6, e7]

theorem cvtn (d : BitVec 7) (w : BitVec 1) (a : BitVec 8) (i : BitVec 8) : Statement (.cvtn d w a i) := by
  intro word hw
  obtain ⟨e0, e1, e2, e3, e4, e5⟩ := layout_7_1_8_8 114#8 d w a i word (Option.some.inj hw).symm
  refine decode_of_fields ?_
  simp only [decodeFields, e0, e1]
  change some (_) = _
  simp [e2, e3, e4, e5]

theorem cvtnf (d : BitVec 7) (w : BitVec 1) (a : BitVec 8) (i : BitVec 8) : Statement (.cvtnf d w a i) := by
  intro word hw
  obtain ⟨e0, e1, e2, e3, e4, e5⟩ := layout_7_1_8_8 115#8 d w a i word (Option.some.inj hw).symm
  refine decode_of_fields ?_
  simp only [decodeFields, e0, e1]
  change some (_) = _
  simp [e2, e3, e4, e5]

theorem tunp (d : BitVec 7) (w : BitVec 1) (a : BitVec 8) (m : BitVec 1) (k : BitVec 2) : Statement (.tunp d w a m k) := by
  intro word hw
  obtain ⟨e0, e1, e2, e3, e4, e5, e6, e7⟩ := layout_7_1_8_5_1_2 116#8 d w a 0#5 m k word (Option.some.inj hw).symm
  refine decode_of_fields ?_
  simp only [decodeFields, e0, e1]
  change decode74 word = _
  simp [decode74, e2, e3, e4, e5, e6, e7]

theorem tdot (d : BitVec 7) (w : BitVec 1) (a : BitVec 8) (b : BitVec 8) : Statement (.tdot d w a b) := by
  intro word hw
  obtain ⟨e0, e1, e2, e3, e4, e5⟩ := layout_7_1_8_8 117#8 d w a b word (Option.some.inj hw).symm
  refine decode_of_fields ?_
  simp only [decodeFields, e0, e1]
  change some (_) = _
  simp [e2, e3, e4, e5]

theorem seed (a : BitVec 8) : Statement (.seed a) := by
  intro word hw
  obtain ⟨e0, e1, e2, e3, e4, e5⟩ := layout_7_1_8_8 118#8 0#7 0#1 a 0#8 word (Option.some.inj hw).symm
  refine decode_of_fields ?_
  simp only [decodeFields, e0, e1]
  change decode76 word = _
  simp [decode76, e2, e3, e4, e5]

theorem seedRd (d : BitVec 7) (w : BitVec 1) : Statement (.seedRd d w) := by
  intro word hw
  obtain ⟨e0, e1, e2, e3, e4, e5⟩ := layout_7_1_8_8 118#8 d w 127#8 1#8 word (Option.some.inj hw).symm
  refine decode_of_fields ?_
  simp only [decodeFields, e0, e1]
  change decode76 word = _
  simp [decode76, e2, e3, e4, e5]

theorem fsrd (d : BitVec 7) (w : BitVec 1) : Statement (.fsrd d w) := by
  intro word hw
  obtain ⟨e0, e1, e2, e3, e4, e5⟩ := layout_7_1_8_8 119#8 d w 127#8 0#8 word (Option.some.inj hw).symm
  refine decode_of_fields ?_
  simp only [decodeFields, e0, e1]
  change decode77 word = _
  simp [decode77, e2, e3, e4, e5]

theorem fsrdClr (d : BitVec 7) (w : BitVec 1) (a : BitVec 8) : Statement (.fsrdClr d w a) := by
  intro word hw
  obtain ⟨e0, e1, e2, e3, e4, e5⟩ := layout_7_1_8_8 119#8 d w a 1#8 word (Option.some.inj hw).symm
  refine decode_of_fields ?_
  simp only [decodeFields, e0, e1]
  change decode77 word = _
  simp [decode77, e2, e3, e4, e5]

theorem faddF64 (d : BitVec 7) (w : BitVec 1) (a : BitVec 8) (b : BitVec 8) : Statement (.faddF64 d w a b) := by
  intro word hw
  obtain ⟨e0, e1, e2, e3, e4, e5⟩ := layout_7_1_8_8 120#8 d w a b word (Option.some.inj hw).symm
  refine decode_of_fields ?_
  simp only [decodeFields, e0, e1]
  change some (_) = _
  simp [e2, e3, e4, e5]

theorem fsubF64 (d : BitVec 7) (w : BitVec 1) (a : BitVec 8) (b : BitVec 8) : Statement (.fsubF64 d w a b) := by
  intro word hw
  obtain ⟨e0, e1, e2, e3, e4, e5⟩ := layout_7_1_8_8 121#8 d w a b word (Option.some.inj hw).symm
  refine decode_of_fields ?_
  simp only [decodeFields, e0, e1]
  change some (_) = _
  simp [e2, e3, e4, e5]

theorem fmulF64 (d : BitVec 7) (w : BitVec 1) (a : BitVec 8) (b : BitVec 8) : Statement (.fmulF64 d w a b) := by
  intro word hw
  obtain ⟨e0, e1, e2, e3, e4, e5⟩ := layout_7_1_8_8 122#8 d w a b word (Option.some.inj hw).symm
  refine decode_of_fields ?_
  simp only [decodeFields, e0, e1]
  change some (_) = _
  simp [e2, e3, e4, e5]

theorem fmaF64 (d : BitVec 7) (w : BitVec 1) (a : BitVec 8) (b : BitVec 8) : Statement (.fmaF64 d w a b) := by
  intro word hw
  obtain ⟨e0, e1, e2, e3, e4, e5⟩ := layout_7_1_8_8 123#8 d w a b word (Option.some.inj hw).symm
  refine decode_of_fields ?_
  simp only [decodeFields, e0, e1]
  change some (_) = _
  simp [e2, e3, e4, e5]

theorem fminF64 (d : BitVec 7) (w : BitVec 1) (a : BitVec 8) : Statement (.fminF64 d w a) := by
  intro word hw
  obtain ⟨e0, e1, e2, e3, e4, e5⟩ := layout_7_1_8_8 124#8 d w a 1#8 word (Option.some.inj hw).symm
  refine decode_of_fields ?_
  simp only [decodeFields, e0, e1]
  change decode7C word = _
  simp [decode7C, e2, e3, e4, e5]

theorem fmaxF64 (d : BitVec 7) (w : BitVec 1) (a : BitVec 8) : Statement (.fmaxF64 d w a) := by
  intro word hw
  obtain ⟨e0, e1, e2, e3, e4, e5⟩ := layout_7_1_8_8 124#8 d w a 2#8 word (Option.some.inj hw).symm
  refine decode_of_fields ?_
  simp only [decodeFields, e0, e1]
  change decode7C word = _
  simp [decode7C, e2, e3, e4, e5]

theorem fabsF64 (d : BitVec 7) (w : BitVec 1) (a : BitVec 8) : Statement (.fabsF64 d w a) := by
  intro word hw
  obtain ⟨e0, e1, e2, e3, e4, e5⟩ := layout_7_1_8_8 124#8 d w a 3#8 word (Option.some.inj hw).symm
  refine decode_of_fields ?_
  simp only [decodeFields, e0, e1]
  change decode7C word = _
  simp [decode7C, e2, e3, e4, e5]

theorem fnegF64 (d : BitVec 7) (w : BitVec 1) (a : BitVec 8) : Statement (.fnegF64 d w a) := by
  intro word hw
  obtain ⟨e0, e1, e2, e3, e4, e5⟩ := layout_7_1_8_8 124#8 d w a 4#8 word (Option.some.inj hw).symm
  refine decode_of_fields ?_
  simp only [decodeFields, e0, e1]
  change decode7C word = _
  simp [decode7C, e2, e3, e4, e5]

theorem fcpsF64 (d : BitVec 7) (w : BitVec 1) (a : BitVec 8) : Statement (.fcpsF64 d w a) := by
  intro word hw
  obtain ⟨e0, e1, e2, e3, e4, e5⟩ := layout_7_1_8_8 124#8 d w a 5#8 word (Option.some.inj hw).symm
  refine decode_of_fields ?_
  simp only [decodeFields, e0, e1]
  change decode7C word = _
  simp [decode7C, e2, e3, e4, e5]

theorem fcmpF64 (p : BitVec 6) (c : BitVec 2) (a : BitVec 8) (b : BitVec 8) : Statement (.fcmpF64 p c a b) := by
  intro word hw
  obtain ⟨e0, e1, e2, e3, e4, e5⟩ := layout_6_2_8_8 125#8 p c a b word (Option.some.inj hw).symm
  refine decode_of_fields ?_
  simp only [decodeFields, e0, e1]
  change some (_) = _
  simp [e2, e3, e4, e5]

theorem cvtF64 (d : BitVec 7) (w : BitVec 1) (a : BitVec 8) (r : BitVec 3) (x : BitVec 1) (t : BitVec 4) : Statement (.cvtF64 d w a r x t) := by
  intro word hw
  obtain ⟨e0, e1, e2, e3, e4, e5, e6, e7⟩ := layout_7_1_8_3_1_4 126#8 d w a r x t word (Option.some.inj hw).symm
  refine decode_of_fields ?_
  simp only [decodeFields, e0, e1]
  change some (_) = _
  simp [e2, e3, e4, e5, e6, e7]

theorem rcpF64 (d : BitVec 7) (w : BitVec 1) (a : BitVec 8) : Statement (.rcpF64 d w a) := by
  intro word hw
  obtain ⟨e0, e1, e2, e3, e4, e5⟩ := layout_7_1_8_8 127#8 d w a 0#8 word (Option.some.inj hw).symm
  refine decode_of_fields ?_
  simp only [decodeFields, e0, e1]
  change decode7F word = _
  simp [decode7F, e2, e3, e4, e5]

theorem rsqF64 (d : BitVec 7) (w : BitVec 1) (a : BitVec 8) : Statement (.rsqF64 d w a) := by
  intro word hw
  obtain ⟨e0, e1, e2, e3, e4, e5⟩ := layout_7_1_8_8 127#8 d w a 1#8 word (Option.some.inj hw).symm
  refine decode_of_fields ?_
  simp only [decodeFields, e0, e1]
  change decode7F word = _
  simp [decode7F, e2, e3, e4, e5]

theorem sqrtF64 (d : BitVec 7) (w : BitVec 1) (a : BitVec 8) : Statement (.sqrtF64 d w a) := by
  intro word hw
  obtain ⟨e0, e1, e2, e3, e4, e5⟩ := layout_7_1_8_8 127#8 d w a 2#8 word (Option.some.inj hw).symm
  refine decode_of_fields ?_
  simp only [decodeFields, e0, e1]
  change decode7F word = _
  simp [decode7F, e2, e3, e4, e5]

theorem ldN8 (d : BitVec 7) (w : BitVec 1) (x : BitVec 8) (a : BitVec 4) (o : BitVec 4) : Statement (.ldN8 d w x a o) := by
  intro word hw
  obtain ⟨e0, e1, e2, e3, e4, e5, e6⟩ := layout_7_1_8_4_4 128#8 d w x a o word (Option.some.inj hw).symm
  refine decode_of_fields ?_
  simp only [decodeFields, e0, e1]
  change some (_) = _
  simp [e2, e3, e4, e5, e6]

theorem ldI8 (d : BitVec 7) (w : BitVec 1) (x : BitVec 8) (a : BitVec 4) (o : BitVec 4) : Statement (.ldI8 d w x a o) := by
  intro word hw
  obtain ⟨e0, e1, e2, e3, e4, e5, e6⟩ := layout_7_1_8_4_4 129#8 d w x a o word (Option.some.inj hw).symm
  refine decode_of_fields ?_
  simp only [decodeFields, e0, e1]
  change some (_) = _
  simp [e2, e3, e4, e5, e6]

theorem ldN16 (d : BitVec 7) (w : BitVec 1) (x : BitVec 8) (a : BitVec 4) (o : BitVec 4) : Statement (.ldN16 d w x a o) := by
  intro word hw
  obtain ⟨e0, e1, e2, e3, e4, e5, e6⟩ := layout_7_1_8_4_4 130#8 d w x a o word (Option.some.inj hw).symm
  refine decode_of_fields ?_
  simp only [decodeFields, e0, e1]
  change some (_) = _
  simp [e2, e3, e4, e5, e6]

theorem ldI16 (d : BitVec 7) (w : BitVec 1) (x : BitVec 8) (a : BitVec 4) (o : BitVec 4) : Statement (.ldI16 d w x a o) := by
  intro word hw
  obtain ⟨e0, e1, e2, e3, e4, e5, e6⟩ := layout_7_1_8_4_4 131#8 d w x a o word (Option.some.inj hw).symm
  refine decode_of_fields ?_
  simp only [decodeFields, e0, e1]
  change some (_) = _
  simp [e2, e3, e4, e5, e6]

theorem ld32 (d : BitVec 7) (w : BitVec 1) (x : BitVec 8) (a : BitVec 4) (o : BitVec 4) : Statement (.ld32 d w x a o) := by
  intro word hw
  obtain ⟨e0, e1, e2, e3, e4, e5, e6⟩ := layout_7_1_8_4_4 132#8 d w x a o word (Option.some.inj hw).symm
  refine decode_of_fields ?_
  simp only [decodeFields, e0, e1]
  change some (_) = _
  simp [e2, e3, e4, e5, e6]

theorem ld64 (d : BitVec 7) (w : BitVec 1) (x : BitVec 8) (a : BitVec 4) (o : BitVec 4) : Statement (.ld64 d w x a o) := by
  intro word hw
  obtain ⟨e0, e1, e2, e3, e4, e5, e6⟩ := layout_7_1_8_4_4 133#8 d w x a o word (Option.some.inj hw).symm
  refine decode_of_fields ?_
  simp only [decodeFields, e0, e1]
  change some (_) = _
  simp [e2, e3, e4, e5, e6]

theorem st8 (d : BitVec 7) (l : BitVec 1) (x : BitVec 8) (a : BitVec 4) (o : BitVec 4) : Statement (.st8 d l x a o) := by
  intro word hw
  obtain ⟨e0, e1, e2, e3, e4, e5, e6⟩ := layout_7_1_8_4_4 134#8 d l x a o word (Option.some.inj hw).symm
  refine decode_of_fields ?_
  simp only [decodeFields, e0, e1]
  change some (_) = _
  simp [e2, e3, e4, e5, e6]

theorem st16 (d : BitVec 7) (l : BitVec 1) (x : BitVec 8) (a : BitVec 4) (o : BitVec 4) : Statement (.st16 d l x a o) := by
  intro word hw
  obtain ⟨e0, e1, e2, e3, e4, e5, e6⟩ := layout_7_1_8_4_4 135#8 d l x a o word (Option.some.inj hw).symm
  refine decode_of_fields ?_
  simp only [decodeFields, e0, e1]
  change some (_) = _
  simp [e2, e3, e4, e5, e6]

theorem st32 (d : BitVec 7) (l : BitVec 1) (x : BitVec 8) (a : BitVec 4) (o : BitVec 4) : Statement (.st32 d l x a o) := by
  intro word hw
  obtain ⟨e0, e1, e2, e3, e4, e5, e6⟩ := layout_7_1_8_4_4 136#8 d l x a o word (Option.some.inj hw).symm
  refine decode_of_fields ?_
  simp only [decodeFields, e0, e1]
  change some (_) = _
  simp [e2, e3, e4, e5, e6]

theorem st64 (d : BitVec 7) (l : BitVec 1) (x : BitVec 8) (a : BitVec 4) (o : BitVec 4) : Statement (.st64 d l x a o) := by
  intro word hw
  obtain ⟨e0, e1, e2, e3, e4, e5, e6⟩ := layout_7_1_8_4_4 137#8 d l x a o word (Option.some.inj hw).symm
  refine decode_of_fields ?_
  simp only [decodeFields, e0, e1]
  change some (_) = _
  simp [e2, e3, e4, e5, e6]

theorem ldro32 (d : BitVec 7) (w : BitVec 1) (x : BitVec 8) (a : BitVec 4) (o : BitVec 4) : Statement (.ldro32 d w x a o) := by
  intro word hw
  obtain ⟨e0, e1, e2, e3, e4, e5, e6⟩ := layout_7_1_8_4_4 138#8 d w x a o word (Option.some.inj hw).symm
  refine decode_of_fields ?_
  simp only [decodeFields, e0, e1]
  change some (_) = _
  simp [e2, e3, e4, e5, e6]

theorem ldro64 (d : BitVec 7) (w : BitVec 1) (x : BitVec 8) (a : BitVec 4) (o : BitVec 4) : Statement (.ldro64 d w x a o) := by
  intro word hw
  obtain ⟨e0, e1, e2, e3, e4, e5, e6⟩ := layout_7_1_8_4_4 139#8 d w x a o word (Option.some.inj hw).symm
  refine decode_of_fields ?_
  simp only [decodeFields, e0, e1]
  change some (_) = _
  simp [e2, e3, e4, e5, e6]

theorem lds32 (d : BitVec 7) (w : BitVec 1) (x : BitVec 8) (a : BitVec 4) (o : BitVec 4) : Statement (.lds32 d w x a o) := by
  intro word hw
  obtain ⟨e0, e1, e2, e3, e4, e5, e6⟩ := layout_7_1_8_4_4 140#8 d w x a o word (Option.some.inj hw).symm
  refine decode_of_fields ?_
  simp only [decodeFields, e0, e1]
  change some (_) = _
  simp [e2, e3, e4, e5, e6]

theorem sts32 (d : BitVec 7) (l : BitVec 1) (x : BitVec 8) (a : BitVec 4) (o : BitVec 4) : Statement (.sts32 d l x a o) := by
  intro word hw
  obtain ⟨e0, e1, e2, e3, e4, e5, e6⟩ := layout_7_1_8_4_4 141#8 d l x a o word (Option.some.inj hw).symm
  refine decode_of_fields ?_
  simp only [decodeFields, e0, e1]
  change some (_) = _
  simp [e2, e3, e4, e5, e6]

theorem lds64 (d : BitVec 7) (w : BitVec 1) (x : BitVec 8) (a : BitVec 4) (o : BitVec 4) : Statement (.lds64 d w x a o) := by
  intro word hw
  obtain ⟨e0, e1, e2, e3, e4, e5, e6⟩ := layout_7_1_8_4_4 142#8 d w x a o word (Option.some.inj hw).symm
  refine decode_of_fields ?_
  simp only [decodeFields, e0, e1]
  change some (_) = _
  simp [e2, e3, e4, e5, e6]

theorem sts64 (d : BitVec 7) (l : BitVec 1) (x : BitVec 8) (a : BitVec 4) (o : BitVec 4) : Statement (.sts64 d l x a o) := by
  intro word hw
  obtain ⟨e0, e1, e2, e3, e4, e5, e6⟩ := layout_7_1_8_4_4 143#8 d l x a o word (Option.some.inj hw).symm
  refine decode_of_fields ?_
  simp only [decodeFields, e0, e1]
  change some (_) = _
  simp [e2, e3, e4, e5, e6]

theorem ldg32 (d : BitVec 7) (w : BitVec 1) (a : BitVec 8) (i : BitVec 8) : Statement (.ldg32 d w a i) := by
  intro word hw
  obtain ⟨e0, e1, e2, e3, e4, e5⟩ := layout_7_1_8_8 144#8 d w a i word (Option.some.inj hw).symm
  refine decode_of_fields ?_
  simp only [decodeFields, e0, e1]
  change some (_) = _
  simp [e2, e3, e4, e5]

theorem stg32 (d : BitVec 7) (l : BitVec 1) (a : BitVec 8) (i : BitVec 8) : Statement (.stg32 d l a i) := by
  intro word hw
  obtain ⟨e0, e1, e2, e3, e4, e5⟩ := layout_7_1_8_8 145#8 d l a i word (Option.some.inj hw).symm
  refine decode_of_fields ?_
  simp only [decodeFields, e0, e1]
  change some (_) = _
  simp [e2, e3, e4, e5]

theorem ldg64 (d : BitVec 7) (w : BitVec 1) (a : BitVec 8) (i : BitVec 8) : Statement (.ldg64 d w a i) := by
  intro word hw
  obtain ⟨e0, e1, e2, e3, e4, e5⟩ := layout_7_1_8_8 146#8 d w a i word (Option.some.inj hw).symm
  refine decode_of_fields ?_
  simp only [decodeFields, e0, e1]
  change some (_) = _
  simp [e2, e3, e4, e5]

theorem stg64 (d : BitVec 7) (l : BitVec 1) (a : BitVec 8) (i : BitVec 8) : Statement (.stg64 d l a i) := by
  intro word hw
  obtain ⟨e0, e1, e2, e3, e4, e5⟩ := layout_7_1_8_8 147#8 d l a i word (Option.some.inj hw).symm
  refine decode_of_fields ?_
  simp only [decodeFields, e0, e1]
  change some (_) = _
  simp [e2, e3, e4, e5]

theorem spill (a : BitVec 8) (k : BitVec 8) : Statement (.spill a k) := by
  intro word hw
  obtain ⟨e0, e1, e2, e3, e4⟩ := layout_8_8_8 148#8 0#8 a k word (Option.some.inj hw).symm
  refine decode_of_fields ?_
  simp only [decodeFields, e0, e1]
  change decode94 word = _
  simp [decode94, e2, e3, e4]

theorem fill (d : BitVec 7) (k : BitVec 8) : Statement (.fill d k) := by
  intro word hw
  obtain ⟨e0, e1, e2, e3, e4⟩ := layout_7_9_8 149#8 d 127#9 k word (Option.some.inj hw).symm
  refine decode_of_fields ?_
  simp only [decodeFields, e0, e1]
  change decode95 word = _
  simp [decode95, e2, e3, e4]

theorem tacq (x : BitVec 8) (p : BitVec 1) (n : BitVec 6) : Statement (.tacq x p n) := by
  intro word hw
  obtain ⟨e0, e1, e2, e3, e4, e5, e6⟩ := layout_8_8_1_1_6 150#8 0#8 x p 0#1 n word (Option.some.inj hw).symm
  refine decode_of_fields ?_
  simp only [decodeFields, e0, e1]
  change decode96 word = _
  simp [decode96, e2, e3, e4, e5, e6]

theorem tacqFill (i : BitVec 8) (x : BitVec 8) (p : BitVec 1) (n : BitVec 6) : Statement (.tacqFill i x p n) := by
  intro word hw
  obtain ⟨e0, e1, e2, e3, e4, e5, e6⟩ := layout_8_8_1_1_6 150#8 i x p 1#1 n word (Option.some.inj hw).symm
  refine decode_of_fields ?_
  simp only [decodeFields, e0, e1]
  change decode96 word = _
  simp [decode96, e2, e3, e4, e5, e6]

theorem trel (n : BitVec 6) : Statement (.trel n) := by
  intro word hw
  obtain ⟨e0, e1, e2, e3, e4, e5⟩ := layout_8_8_2_6 151#8 0#8 127#8 0#2 n word (Option.some.inj hw).symm
  refine decode_of_fields ?_
  simp only [decodeFields, e0, e1]
  change decode97 word = _
  simp [decode97, e2, e3, e4, e5]

theorem trelWb (i : BitVec 8) (x : BitVec 8) (n : BitVec 6) : Statement (.trelWb i x n) := by
  intro word hw
  obtain ⟨e0, e1, e2, e3, e4, e5⟩ := layout_8_8_2_6 151#8 i x 1#2 n word (Option.some.inj hw).symm
  refine decode_of_fields ?_
  simp only [decodeFields, e0, e1]
  change decode97 word = _
  simp [decode97, e2, e3, e4, e5]

theorem copy (i : BitVec 8) (x : BitVec 8) (y : BitVec 1) : Statement (.copy i x y) := by
  intro word hw
  obtain ⟨e0, e1, e2, e3, e4, e5⟩ := layout_8_8_7_1 152#8 i x 0#7 y word (Option.some.inj hw).symm
  refine decode_of_fields ?_
  simp only [decodeFields, e0, e1]
  change decode98 word = _
  simp [decode98, e2, e3, e4, e5]

theorem copym (i : BitVec 8) (x : BitVec 8) (y : BitVec 1) : Statement (.copym i x y) := by
  intro word hw
  obtain ⟨e0, e1, e2, e3, e4, e5⟩ := layout_8_8_7_1 153#8 i x 0#7 y word (Option.some.inj hw).symm
  refine decode_of_fields ?_
  simp only [decodeFields, e0, e1]
  change decode99 word = _
  simp [decode99, e2, e3, e4, e5]

theorem mcast (i : BitVec 8) (x : BitVec 8) (y : BitVec 1) (n : BitVec 6) : Statement (.mcast i x y n) := by
  intro word hw
  obtain ⟨e0, e1, e2, e3, e4, e5, e6⟩ := layout_8_8_1_1_6 154#8 i x 0#1 y n word (Option.some.inj hw).symm
  refine decode_of_fields ?_
  simp only [decodeFields, e0, e1]
  change decode9A word = _
  simp [decode9A, e2, e3, e4, e5, e6]

theorem pfxL2 (i : BitVec 8) (x : BitVec 8) : Statement (.pfxL2 i x) := by
  intro word hw
  obtain ⟨e0, e1, e2, e3, e4⟩ := layout_8_8_8 155#8 i x 0#8 word (Option.some.inj hw).symm
  refine decode_of_fields ?_
  simp only [decodeFields, e0, e1]
  change decode9B word = _
  simp [decode9B, e2, e3, e4]

theorem pfxVault (i : BitVec 8) (x : BitVec 8) : Statement (.pfxVault i x) := by
  intro word hw
  obtain ⟨e0, e1, e2, e3, e4⟩ := layout_8_8_8 155#8 i x 1#8 word (Option.some.inj hw).symm
  refine decode_of_fields ?_
  simp only [decodeFields, e0, e1]
  change decode9B word = _
  simp [decode9B, e2, e3, e4]

theorem ldt (d : BitVec 7) (w : BitVec 1) (a : BitVec 8) (z : BitVec 1) (n : BitVec 6) : Statement (.ldt d w a z n) := by
  intro word hw
  obtain ⟨e0, e1, e2, e3, e4, e5, e6, e7⟩ := layout_7_1_8_1_1_6 156#8 d w a 0#1 z n word (Option.some.inj hw).symm
  refine decode_of_fields ?_
  simp only [decodeFields, e0, e1]
  change decode9C word = _
  simp [decode9C, e2, e3, e4, e5, e6, e7]

theorem stt (d : BitVec 7) (l : BitVec 1) (a : BitVec 8) (z : BitVec 1) (n : BitVec 6) : Statement (.stt d l a z n) := by
  intro word hw
  obtain ⟨e0, e1, e2, e3, e4, e5, e6, e7⟩ := layout_7_1_8_1_1_6 157#8 d l a 0#1 z n word (Option.some.inj hw).symm
  refine decode_of_fields ?_
  simp only [decodeFields, e0, e1]
  change decode9D word = _
  simp [decode9D, e2, e3, e4, e5, e6, e7]

theorem dsld (d : BitVec 7) (w : BitVec 1) (a : BitVec 8) (z : BitVec 1) (k : BitVec 1) (r : BitVec 4) : Statement (.dsld d w a z k r) := by
  intro word hw
  obtain ⟨e0, e1, e2, e3, e4, e5, e6, e7, e8⟩ := layout_7_1_8_2_1_1_4 158#8 d w a 0#2 z k r word (Option.some.inj hw).symm
  refine decode_of_fields ?_
  simp only [decodeFields, e0, e1]
  change decode9E word = _
  simp [decode9E, e2, e3, e4, e5, e6, e7, e8]

theorem dsst (d : BitVec 7) (l : BitVec 1) (a : BitVec 8) (z : BitVec 1) (k : BitVec 1) (r : BitVec 4) : Statement (.dsst d l a z k r) := by
  intro word hw
  obtain ⟨e0, e1, e2, e3, e4, e5, e6, e7, e8⟩ := layout_7_1_8_2_1_1_4 159#8 d l a 0#2 z k r word (Option.some.inj hw).symm
  refine decode_of_fields ?_
  simp only [decodeFields, e0, e1]
  change decode9F word = _
  simp [decode9F, e2, e3, e4, e5, e6, e7, e8]

theorem mma (i : BitVec 8) (x : BitVec 8) (t : BitVec 1) (z : BitVec 1) (b : BitVec 1) (a : BitVec 1) (k : BitVec 1) (d : BitVec 2) : Statement (.mma i x t z b a k d) := by
  intro word hw
  obtain ⟨e0, e1, e2, e3, e4, e5, e6, e7, e8, e9, e10⟩ := layout_8_8_1_1_1_1_1_1_2 160#8 i x 0#1 t z b a k d word (Option.some.inj hw).symm
  refine decode_of_fields ?_
  simp only [decodeFields, e0, e1]
  change decodeA0 word = _
  simp [decodeA0, e2, e3, e4, e5, e6, e7, e8, e9, e10]

theorem mmaNf (i : BitVec 8) (x : BitVec 8) (t : BitVec 1) (z : BitVec 1) (b : BitVec 1) (a : BitVec 1) (k : BitVec 1) (d : BitVec 2) : Statement (.mmaNf i x t z b a k d) := by
  intro word hw
  obtain ⟨e0, e1, e2, e3, e4, e5, e6, e7, e8, e9, e10⟩ := layout_8_8_1_1_1_1_1_1_2 161#8 i x 0#1 t z b a k d word (Option.some.inj hw).symm
  refine decode_of_fields ?_
  simp only [decodeFields, e0, e1]
  change decodeA1 word = _
  simp [decodeA1, e2, e3, e4, e5, e6, e7, e8, e9, e10]

theorem mmaF64 (i : BitVec 8) (x : BitVec 8) (t : BitVec 1) (z : BitVec 1) (b : BitVec 1) (a : BitVec 1) (k : BitVec 1) (d : BitVec 2) : Statement (.mmaF64 i x t z b a k d) := by
  intro word hw
  obtain ⟨e0, e1, e2, e3, e4, e5, e6, e7, e8, e9, e10⟩ := layout_8_8_1_1_1_1_1_1_2 162#8 i x 0#1 t z b a k d word (Option.some.inj hw).symm
  refine decode_of_fields ?_
  simp only [decodeFields, e0, e1]
  change decodeA2 word = _
  simp [decodeA2, e2, e3, e4, e5, e6, e7, e8, e9, e10]

theorem mmaCont (x : BitVec 8) : Statement (.mmaCont x) := by
  intro word hw
  obtain ⟨e0, e1, e2, e3, e4⟩ := layout_8_8_8 163#8 0#8 x 0#8 word (Option.some.inj hw).symm
  refine decode_of_fields ?_
  simp only [decodeFields, e0, e1]
  change decodeA3 word = _
  simp [decodeA3, e2, e3, e4]

theorem mmat (i : BitVec 8) (x : BitVec 8) (z : BitVec 1) (b : BitVec 1) (a : BitVec 1) (p : BitVec 2) (y : BitVec 1) : Statement (.mmat i x z b a p y) := by
  intro word hw
  obtain ⟨e0, e1, e2, e3, e4, e5, e6, e7, e8, e9⟩ := layout_8_8_2_1_1_1_2_1 164#8 i x 0#2 z b a p y word (Option.some.inj hw).symm
  refine decode_of_fields ?_
  simp only [decodeFields, e0, e1]
  change decodeA4 word = _
  simp [decodeA4, e2, e3, e4, e5, e6, e7, e8, e9]

theorem mmatCont (x : BitVec 8) : Statement (.mmatCont x) := by
  intro word hw
  obtain ⟨e0, e1, e2, e3, e4⟩ := layout_8_8_8 165#8 0#8 x 0#8 word (Option.some.inj hw).symm
  refine decode_of_fields ?_
  simp only [decodeFields, e0, e1]
  change decodeA5 word = _
  simp [decodeA5, e2, e3, e4]

theorem mmatNf (i : BitVec 8) (x : BitVec 8) (z : BitVec 1) (b : BitVec 1) (a : BitVec 1) (p : BitVec 2) (y : BitVec 1) : Statement (.mmatNf i x z b a p y) := by
  intro word hw
  obtain ⟨e0, e1, e2, e3, e4, e5, e6, e7, e8, e9⟩ := layout_8_8_2_1_1_1_2_1 166#8 i x 0#2 z b a p y word (Option.some.inj hw).symm
  refine decode_of_fields ?_
  simp only [decodeFields, e0, e1]
  change decodeA6 word = _
  simp [decodeA6, e2, e3, e4, e5, e6, e7, e8, e9]

theorem slset (n : BitVec 4) (x : BitVec 8) : Statement (.slset n x) := by
  intro word hw
  obtain ⟨e0, e1, e2, e3, e4, e5⟩ := layout_4_4_8_8 168#8 0#4 n x 0#8 word (Option.some.inj hw).symm
  refine decode_of_fields ?_
  simp only [decodeFields, e0, e1]
  change decodeA8 word = _
  simp [decodeA8, e2, e3, e4, e5]

theorem slgrow (n : BitVec 4) (x : BitVec 8) (d : BitVec 6) : Statement (.slgrow n x d) := by
  intro word hw
  obtain ⟨e0, e1, e2, e3, e4, e5, e6⟩ := layout_4_4_8_2_6 169#8 0#4 n x 0#2 d word (Option.some.inj hw).symm
  refine decode_of_fields ?_
  simp only [decodeFields, e0, e1]
  change decodeA9 word = _
  simp [decodeA9, e2, e3, e4, e5, e6]

theorem slxl (d : BitVec 7) (w : BitVec 1) (a : BitVec 8) (n : BitVec 4) : Statement (.slxl d w a n) := by
  intro word hw
  obtain ⟨e0, e1, e2, e3, e4, e5, e6⟩ := layout_7_1_8_4_4 170#8 d w a 0#4 n word (Option.some.inj hw).symm
  refine decode_of_fields ?_
  simp only [decodeFields, e0, e1]
  change decodeAA word = _
  simp [decodeAA, e2, e3, e4, e5, e6]

theorem slxlPg (d : BitVec 7) (w : BitVec 1) (a : BitVec 8) (n : BitVec 4) : Statement (.slxlPg d w a n) := by
  intro word hw
  obtain ⟨e0, e1, e2, e3, e4, e5, e6⟩ := layout_7_1_8_4_4 170#8 d w a 1#4 n word (Option.some.inj hw).symm
  refine decode_of_fields ?_
  simp only [decodeFields, e0, e1]
  change decodeAA word = _
  simp [decodeAA, e2, e3, e4, e5, e6]

theorem slapp (n : BitVec 4) (x : BitVec 8) (d : BitVec 6) : Statement (.slapp n x d) := by
  intro word hw
  obtain ⟨e0, e1, e2, e3, e4, e5, e6⟩ := layout_4_4_8_2_6 171#8 0#4 n x 0#2 d word (Option.some.inj hw).symm
  refine decode_of_fields ?_
  simp only [decodeFields, e0, e1]
  change decodeAB word = _
  simp [decodeAB, e2, e3, e4, e5, e6]

theorem osm (r : BitVec 7) (x : BitVec 8) (s : BitVec 7) : Statement (.osm r x s) := by
  intro word hw
  obtain ⟨e0, e1, e2, e3, e4, e5, e6⟩ := layout_1_7_8_1_7 172#8 0#1 r x 0#1 s word (Option.some.inj hw).symm
  refine decode_of_fields ?_
  simp only [decodeFields, e0, e1]
  change decodeAC word = _
  simp [decodeAC, e2, e3, e4, e5, e6]

theorem osmMrg (r : BitVec 7) (x : BitVec 8) (s : BitVec 7) : Statement (.osmMrg r x s) := by
  intro word hw
  obtain ⟨e0, e1, e2, e3, e4, e5, e6⟩ := layout_1_7_8_1_7 172#8 0#1 r x 1#1 s word (Option.some.inj hw).symm
  refine decode_of_fields ?_
  simp only [decodeFields, e0, e1]
  change decodeAC word = _
  simp [decodeAC, e2, e3, e4, e5, e6]

theorem osmn (d : BitVec 7) (x : BitVec 8) (s : BitVec 7) : Statement (.osmn d x s) := by
  intro word hw
  obtain ⟨e0, e1, e2, e3, e4, e5, e6⟩ := layout_1_7_8_1_7 173#8 0#1 d x 0#1 s word (Option.some.inj hw).symm
  refine decode_of_fields ?_
  simp only [decodeFields, e0, e1]
  change decodeAD word = _
  simp [decodeAD, e2, e3, e4, e5, e6]

theorem sbsend (n : BitVec 6) (x : BitVec 8) : Statement (.sbsend n x) := by
  intro word hw
  obtain ⟨e0, e1, e2, e3, e4, e5⟩ := layout_2_6_8_8 174#8 0#2 n x 0#8 word (Option.some.inj hw).symm
  refine decode_of_fields ?_
  simp only [decodeFields, e0, e1]
  change decodeAE word = _
  simp [decodeAE, e2, e3, e4, e5]

theorem sbmrg (n : BitVec 6) (x : BitVec 8) (m : BitVec 1) : Statement (.sbmrg n x m) := by
  intro word hw
  obtain ⟨e0, e1, e2, e3, e4, e5, e6⟩ := layout_2_6_8_7_1 175#8 0#2 n x 0#7 m word (Option.some.inj hw).symm
  refine decode_of_fields ?_
  simp only [decodeFields, e0, e1]
  change decodeAF word = _
  simp [decodeAF, e2, e3, e4, e5, e6]

theorem psel (n : BitVec 4) (x : BitVec 8) : Statement (.psel n x) := by
  intro word hw
  obtain ⟨e0, e1, e2, e3, e4, e5⟩ := layout_4_4_8_8 176#8 0#4 n x 0#8 word (Option.some.inj hw).symm
  refine decode_of_fields ?_
  simp only [decodeFields, e0, e1]
  change decodeB0 word = _
  simp [decodeB0, e2, e3, e4, e5]

theorem kvpk (n : BitVec 4) (x : BitVec 8) : Statement (.kvpk n x) := by
  intro word hw
  obtain ⟨e0, e1, e2, e3, e4, e5⟩ := layout_4_4_8_8 177#8 0#4 n x 0#8 word (Option.some.inj hw).symm
  refine decode_of_fields ?_
  simp only [decodeFields, e0, e1]
  change decodeB1 word = _
  simp [decodeB1, e2, e3, e4, e5]

theorem kvunp (n : BitVec 4) (x : BitVec 8) : Statement (.kvunp n x) := by
  intro word hw
  obtain ⟨e0, e1, e2, e3, e4, e5⟩ := layout_4_4_8_8 178#8 0#4 n x 0#8 word (Option.some.inj hw).symm
  refine decode_of_fields ?_
  simp only [decodeFields, e0, e1]
  change decodeB2 word = _
  simp [decodeB2, e2, e3, e4, e5]

theorem nbmode (t : BitVec 1) (b : BitVec 1) : Statement (.nbmode t b) := by
  intro word hw
  obtain ⟨e0, e1, e2, e3, e4⟩ := layout_22_1_1 180#8 8128#22 t b word (Option.some.inj hw).symm
  refine decode_of_fields ?_
  simp only [decodeFields, e0, e1]
  change decodeB4 word = _
  simp [decodeB4, e2, e3, e4]

theorem nbbc (b : BitVec 7) (x : BitVec 8) (i : BitVec 3) : Statement (.nbbc b x i) := by
  intro word hw
  obtain ⟨e0, e1, e2, e3, e4, e5, e6⟩ := layout_1_7_8_5_3 181#8 0#1 b x 0#5 i word (Option.some.inj hw).symm
  refine decode_of_fields ?_
  simp only [decodeFields, e0, e1]
  change decodeB5 word = _
  simp [decodeB5, e2, e3, e4, e5, e6]

theorem nbmac (i : BitVec 3) (k : BitVec 3) (x : BitVec 8) (a : BitVec 1) (z : BitVec 1) (s : BitVec 1) (n : BitVec 5) : Statement (.nbmac i k x a z s n) := by
  intro word hw
  obtain ⟨e0, e1, e2, e3, e4, e5, e6, e7, e8, e9⟩ := layout_2_3_3_8_1_1_1_5 182#8 0#2 i k x a z s n word (Option.some.inj hw).symm
  refine decode_of_fields ?_
  simp only [decodeFields, e0, e1]
  change decodeB6 word = _
  simp [decodeB6, e2, e3, e4, e5, e6, e7, e8, e9]

theorem nbrd (k : BitVec 3) (x : BitVec 8) (c : BitVec 1) (h : BitVec 1) (n : BitVec 3) : Statement (.nbrd k x c h n) := by
  intro word hw
  obtain ⟨e0, e1, e2, e3, e4, e5, e6, e7, e8⟩ := layout_5_3_8_3_1_1_3 183#8 0#5 k x 0#3 c h n word (Option.some.inj hw).symm
  refine decode_of_fields ?_
  simp only [decodeFields, e0, e1]
  change decodeB7 word = _
  simp [decodeB7, e2, e3, e4, e5, e6, e7, e8]

theorem nbldw (i : BitVec 3) (x : BitVec 8) : Statement (.nbldw i x) := by
  intro word hw
  obtain ⟨e0, e1, e2, e3, e4, e5⟩ := layout_5_3_8_8 184#8 0#5 i x 0#8 word (Option.some.inj hw).symm
  refine decode_of_fields ?_
  simp only [decodeFields, e0, e1]
  change decodeB8 word = _
  simp [decodeB8, e2, e3, e4, e5]

theorem fenceBank (x : BitVec 8) (s : BitVec 2) : Statement (.fenceBank x s) := by
  intro word hw
  obtain ⟨e0, e1, e2, e3, e4, e5⟩ := layout_8_8_6_2 185#8 0#8 x 0#6 s word (Option.some.inj hw).symm
  refine decode_of_fields ?_
  simp only [decodeFields, e0, e1]
  change decodeB9 word = _
  simp [decodeB9, e2, e3, e4, e5]

theorem nbclr (z : BitVec 8) (x : BitVec 8) (w : BitVec 8) : Statement (.nbclr z x w) := by
  intro word hw
  obtain ⟨e0, e1, e2, e3, e4⟩ := layout_8_8_8 186#8 z x w word (Option.some.inj hw).symm
  refine decode_of_fields ?_
  simp only [decodeFields, e0, e1]
  change some (_) = _
  simp [e2, e3, e4]

theorem bar (b : BitVec 10) (x : BitVec 8) : Statement (.bar b x) := by
  intro word hw
  obtain ⟨e0, e1, e2, e3, e4⟩ := layout_10_6_8 188#8 b 0#6 x word (Option.some.inj hw).symm
  refine decode_of_fields ?_
  simp only [decodeFields, e0, e1]
  change decodeBC word = _
  simp [decodeBC, e2, e3, e4]

theorem bara (b : BitVec 10) (x : BitVec 8) : Statement (.bara b x) := by
  intro word hw
  obtain ⟨e0, e1, e2, e3, e4⟩ := layout_10_6_8 189#8 b 0#6 x word (Option.some.inj hw).symm
  refine decode_of_fields ?_
  simp only [decodeFields, e0, e1]
  change decodeBD word = _
  simp [decodeBD, e2, e3, e4]

theorem cbar (b : BitVec 10) (x : BitVec 8) : Statement (.cbar b x) := by
  intro word hw
  obtain ⟨e0, e1, e2, e3, e4⟩ := layout_10_6_8 190#8 b 0#6 x word (Option.some.inj hw).symm
  refine decode_of_fields ?_
  simp only [decodeFields, e0, e1]
  change decodeBE word = _
  simp [decodeBE, e2, e3, e4]

theorem cbara (b : BitVec 10) (x : BitVec 8) : Statement (.cbara b x) := by
  intro word hw
  obtain ⟨e0, e1, e2, e3, e4⟩ := layout_10_6_8 191#8 b 0#6 x word (Option.some.inj hw).symm
  refine decode_of_fields ?_
  simp only [decodeFields, e0, e1]
  change decodeBF word = _
  simp [decodeBF, e2, e3, e4]

theorem atom32 (d : BitVec 7) (s : BitVec 3) (o : BitVec 3) (i : BitVec 7) (a : BitVec 4) : Statement (.atom32 d s o i a) := by
  intro word hw
  obtain ⟨e0, e1, e2, e3, e4, e5, e6⟩ := layout_7_3_3_7_4 192#8 d s o i a word (Option.some.inj hw).symm
  refine decode_of_fields ?_
  simp only [decodeFields, e0, e1]
  change some (_) = _
  simp [e2, e3, e4, e5, e6]

theorem atom64 (d : BitVec 7) (s : BitVec 3) (o : BitVec 3) (i : BitVec 7) (a : BitVec 4) : Statement (.atom64 d s o i a) := by
  intro word hw
  obtain ⟨e0, e1, e2, e3, e4, e5, e6⟩ := layout_7_3_3_7_4 193#8 d s o i a word (Option.some.inj hw).symm
  refine decode_of_fields ?_
  simp only [decodeFields, e0, e1]
  change some (_) = _
  simp [e2, e3, e4, e5, e6]

theorem cas32 (d : BitVec 7) (s : BitVec 3) (i : BitVec 7) (a : BitVec 4) : Statement (.cas32 d s i a) := by
  intro word hw
  obtain ⟨e0, e1, e2, e3, e4, e5, e6⟩ := layout_7_3_3_7_4 194#8 d s 0#3 i a word (Option.some.inj hw).symm
  refine decode_of_fields ?_
  simp only [decodeFields, e0, e1]
  change decodeC2 word = _
  simp [decodeC2, e2, e3, e4, e5, e6]

theorem cas64 (d : BitVec 7) (s : BitVec 3) (i : BitVec 7) (a : BitVec 4) : Statement (.cas64 d s i a) := by
  intro word hw
  obtain ⟨e0, e1, e2, e3, e4, e5, e6⟩ := layout_7_3_3_7_4 195#8 d s 0#3 i a word (Option.some.inj hw).symm
  refine decode_of_fields ?_
  simp only [decodeFields, e0, e1]
  change decodeC3 word = _
  simp [decodeC3, e2, e3, e4, e5, e6]

theorem red32 (d : BitVec 7) (s : BitVec 3) (o : BitVec 3) (i : BitVec 7) (a : BitVec 4) : Statement (.red32 d s o i a) := by
  intro word hw
  obtain ⟨e0, e1, e2, e3, e4, e5, e6⟩ := layout_7_3_3_7_4 196#8 d s o i a word (Option.some.inj hw).symm
  refine decode_of_fields ?_
  simp only [decodeFields, e0, e1]
  change some (_) = _
  simp [e2, e3, e4, e5, e6]

theorem red64 (d : BitVec 7) (s : BitVec 3) (o : BitVec 3) (i : BitVec 7) (a : BitVec 4) : Statement (.red64 d s o i a) := by
  intro word hw
  obtain ⟨e0, e1, e2, e3, e4, e5, e6⟩ := layout_7_3_3_7_4 197#8 d s o i a word (Option.some.inj hw).symm
  refine decode_of_fields ?_
  simp only [decodeFields, e0, e1]
  change some (_) = _
  simp [e2, e3, e4, e5, e6]

theorem fence (s : BitVec 3) : Statement (.fence s) := by
  intro word hw
  obtain ⟨e0, e1, e2, e3⟩ := layout_21_3 198#8 0#21 s word (Option.some.inj hw).symm
  refine decode_of_fields ?_
  simp only [decodeFields, e0, e1]
  change decodeC6 word = _
  simp [decodeC6, e2, e3]

theorem waitCopy (n : BitVec 6) : Statement (.waitCopy n) := by
  intro word hw
  obtain ⟨e0, e1, e2, e3, e4⟩ := layout_15_6_3 199#8 0#15 n 0#3 word (Option.some.inj hw).symm
  refine decode_of_fields ?_
  simp only [decodeFields, e0, e1]
  change decodeC7 word = _
  simp [decodeC7, e2, e3, e4]

theorem waitMatrix (n : BitVec 6) : Statement (.waitMatrix n) := by
  intro word hw
  obtain ⟨e0, e1, e2, e3, e4⟩ := layout_15_6_3 199#8 0#15 n 1#3 word (Option.some.inj hw).symm
  refine decode_of_fields ?_
  simp only [decodeFields, e0, e1]
  change decodeC7 word = _
  simp [decodeC7, e2, e3, e4]

theorem waitGather (n : BitVec 6) : Statement (.waitGather n) := by
  intro word hw
  obtain ⟨e0, e1, e2, e3, e4⟩ := layout_15_6_3 199#8 0#15 n 2#3 word (Option.some.inj hw).symm
  refine decode_of_fields ?_
  simp only [decodeFields, e0, e1]
  change decodeC7 word = _
  simp [decodeC7, e2, e3, e4]

theorem waitNearBank (n : BitVec 6) : Statement (.waitNearBank n) := by
  intro word hw
  obtain ⟨e0, e1, e2, e3, e4⟩ := layout_15_6_3 199#8 0#15 n 3#3 word (Option.some.inj hw).symm
  refine decode_of_fields ?_
  simp only [decodeFields, e0, e1]
  change decodeC7 word = _
  simp [decodeC7, e2, e3, e4]

theorem waitCollective (n : BitVec 6) : Statement (.waitCollective n) := by
  intro word hw
  obtain ⟨e0, e1, e2, e3, e4⟩ := layout_15_6_3 199#8 0#15 n 4#3 word (Option.some.inj hw).symm
  refine decode_of_fields ?_
  simp only [decodeFields, e0, e1]
  change decodeC7 word = _
  simp [decodeC7, e2, e3, e4]

theorem sigwSt (v : BitVec 8) (x : BitVec 8) : Statement (.sigwSt v x) := by
  intro word hw
  obtain ⟨e0, e1, e2, e3, e4⟩ := layout_8_8_8 200#8 v x 0#8 word (Option.some.inj hw).symm
  refine decode_of_fields ?_
  simp only [decodeFields, e0, e1]
  change decodeC8 word = _
  simp [decodeC8, e2, e3, e4]

theorem sigwAdd (v : BitVec 8) (x : BitVec 8) : Statement (.sigwAdd v x) := by
  intro word hw
  obtain ⟨e0, e1, e2, e3, e4⟩ := layout_8_8_8 200#8 v x 1#8 word (Option.some.inj hw).symm
  refine decode_of_fields ?_
  simp only [decodeFields, e0, e1]
  change decodeC8 word = _
  simp [decodeC8, e2, e3, e4]

theorem sigwMax (v : BitVec 8) (x : BitVec 8) : Statement (.sigwMax v x) := by
  intro word hw
  obtain ⟨e0, e1, e2, e3, e4⟩ := layout_8_8_8 200#8 v x 2#8 word (Option.some.inj hw).symm
  refine decode_of_fields ?_
  simp only [decodeFields, e0, e1]
  change decodeC8 word = _
  simp [decodeC8, e2, e3, e4]

theorem ldacq (d : BitVec 7) (s : BitVec 3) (z : BitVec 1) (i : BitVec 7) (a : BitVec 4) : Statement (.ldacq d s z i a) := by
  intro word hw
  obtain ⟨e0, e1, e2, e3, e4, e5, e6, e7⟩ := layout_7_3_2_1_7_4 201#8 d s 0#2 z i a word (Option.some.inj hw).symm
  refine decode_of_fields ?_
  simp only [decodeFields, e0, e1]
  change decodeC9 word = _
  simp [decodeC9, e2, e3, e4, e5, e6, e7]

theorem strel (d : BitVec 7) (s : BitVec 3) (z : BitVec 1) (i : BitVec 7) (a : BitVec 4) : Statement (.strel d s z i a) := by
  intro word hw
  obtain ⟨e0, e1, e2, e3, e4, e5, e6, e7⟩ := layout_7_3_2_1_7_4 202#8 d s 0#2 z i a word (Option.some.inj hw).symm
  refine decode_of_fields ?_
  simp only [decodeFields, e0, e1]
  change decodeCA word = _
  simp [decodeCA, e2, e3, e4, e5, e6, e7]

theorem trap (c : BitVec 16) : Statement (.trap c) := by
  intro word hw
  obtain ⟨e0, e1, e2, e3⟩ := layout_8_16 208#8 0#8 c word (Option.some.inj hw).symm
  refine decode_of_fields ?_
  simp only [decodeFields, e0, e1]
  change decodeD0 word = _
  simp [decodeD0, e2, e3]

theorem brk : Statement (.brk) := by
  intro word hw
  obtain ⟨e0, e1, e2⟩ := layout_24 209#8 0#24 word (Option.some.inj hw).symm
  refine decode_of_fields ?_
  simp only [decodeFields, e0, e1]
  change decodeD1 word = _
  simp [decodeD1, e2]

theorem tretResume : Statement (.tretResume) := by
  intro word hw
  obtain ⟨e0, e1, e2⟩ := layout_24 210#8 0#24 word (Option.some.inj hw).symm
  refine decode_of_fields ?_
  simp only [decodeFields, e0, e1]
  change decodeD2 word = _
  simp [decodeD2, e2]

theorem tretKill : Statement (.tretKill) := by
  intro word hw
  obtain ⟨e0, e1, e2⟩ := layout_24 210#8 1#24 word (Option.some.inj hw).symm
  refine decode_of_fields ?_
  simp only [decodeFields, e0, e1]
  change decodeD2 word = _
  simp [decodeD2, e2]

theorem tretKillgrid : Statement (.tretKillgrid) := by
  intro word hw
  obtain ⟨e0, e1, e2⟩ := layout_24 210#8 2#24 word (Option.some.inj hw).symm
  refine decode_of_fields ?_
  simp only [decodeFields, e0, e1]
  change decodeD2 word = _
  simp [decodeD2, e2]

theorem tretHost : Statement (.tretHost) := by
  intro word hw
  obtain ⟨e0, e1, e2⟩ := layout_24 210#8 3#24 word (Option.some.inj hw).symm
  refine decode_of_fields ?_
  simp only [decodeFields, e0, e1]
  change decodeD2 word = _
  simp [decodeD2, e2]

theorem trrd (d : BitVec 7) (w : BitVec 1) (a : BitVec 8) (h : BitVec 1) (k : BitVec 4) : Statement (.trrd d w a h k) := by
  intro word hw
  obtain ⟨e0, e1, e2, e3, e4, e5, e6, e7⟩ := layout_7_1_8_3_1_4 211#8 d w a 0#3 h k word (Option.some.inj hw).symm
  refine decode_of_fields ?_
  simp only [decodeFields, e0, e1]
  change decodeD3 word = _
  simp [decodeD3, e2, e3, e4, e5, e6, e7]

theorem trwr (v : BitVec 7) (a : BitVec 8) (k : BitVec 4) : Statement (.trwr v a k) := by
  intro word hw
  obtain ⟨e0, e1, e2, e3, e4, e5, e6⟩ := layout_7_1_8_4_4 212#8 v 0#1 a 0#4 k word (Option.some.inj hw).symm
  refine decode_of_fields ?_
  simp only [decodeFields, e0, e1]
  change decodeD4 word = _
  simp [decodeD4, e2, e3, e4, e5, e6]

theorem evrd (d : BitVec 7) (w : BitVec 1) (h : BitVec 1) (e : BitVec 1) (n : BitVec 6) : Statement (.evrd d w h e n) := by
  intro word hw
  obtain ⟨e0, e1, e2, e3, e4, e5, e6, e7⟩ := layout_7_1_8_1_1_6 213#8 d w 127#8 h e n word (Option.some.inj hw).symm
  refine decode_of_fields ?_
  simp only [decodeFields, e0, e1]
  change decodeD5 word = _
  simp [decodeD5, e2, e3, e4, e5, e6, e7]

theorem lit (v : BitVec 24) : Statement (.lit v) := by
  intro word hw
  obtain ⟨e0, e1, e2⟩ := layout_24 224#8 v word (Option.some.inj hw).symm
  refine decode_of_fields ?_
  simp only [decodeFields, e0, e1]
  change some (_) = _
  simp [e2]

theorem blk (m : BitVec 3) (n : BitVec 3) (s : BitVec 6) (d : BitVec 1) (a : BitVec 1) (b : BitVec 1) : Statement (.blk m n s d a b) := by
  intro word hw
  obtain ⟨e0, e1, e2, e3, e4, e5, e6, e7, e8⟩ := layout_3_3_6_1_1_1_9 225#8 m n s d a b 0#9 word (Option.some.inj hw).symm
  refine decode_of_fields ?_
  simp only [decodeFields, e0, e1]
  change decodeE1 word = _
  simp [decodeE1, e2, e3, e4, e5, e6, e7, e8]

theorem grd (g : BitVec 6) (e : BitVec 1) (n : BitVec 3) : Statement (.grd g e n) := by
  intro word hw
  obtain ⟨e0, e1, e2, e3, e4, e5⟩ := layout_6_1_3_14 226#8 g e n 0#14 word (Option.some.inj hw).symm
  refine decode_of_fields ?_
  simp only [decodeFields, e0, e1]
  change decodeE2 word = _
  simp [decodeE2, e2, e3, e4, e5]

theorem live (o : BitVec 24) : Statement (.live o) := by
  intro word hw
  obtain ⟨e0, e1, e2⟩ := layout_24 227#8 o word (Option.some.inj hw).symm
  refine decode_of_fields ?_
  simp only [decodeFields, e0, e1]
  change some (_) = _
  simp [e2]

theorem step (s : BitVec 24) : Statement (.step s) := by
  intro word hw
  obtain ⟨e0, e1, e2⟩ := layout_24 228#8 s word (Option.some.inj hw).symm
  refine decode_of_fields ?_
  simp only [decodeFields, e0, e1]
  change some (_) = _
  simp [e2]

theorem region : Statement (.region) := by
  intro word hw
  obtain ⟨e0, e1, e2⟩ := layout_24 229#8 0#24 word (Option.some.inj hw).symm
  refine decode_of_fields ?_
  simp only [decodeFields, e0, e1]
  change decodeE5 word = _
  simp [decodeE5, e2]

theorem pref (d : BitVec 2) : Statement (.pref d) := by
  intro word hw
  obtain ⟨e0, e1, e2, e3⟩ := layout_2_22 230#8 d 0#22 word (Option.some.inj hw).symm
  refine decode_of_fields ?_
  simp only [decodeFields, e0, e1]
  change decodeE6 word = _
  simp [decodeE6, e2, e3]

theorem sched (y : BitVec 1) (h : BitVec 6) : Statement (.sched y h) := by
  intro word hw
  obtain ⟨e0, e1, e2, e3, e4⟩ := layout_1_6_17 231#8 y h 0#17 word (Option.some.inj hw).symm
  refine decode_of_fields ?_
  simp only [decodeFields, e0, e1]
  change decodeE7 word = _
  simp [decodeE7, e2, e3, e4]

theorem registerWrite a0 a1 a2 : Statement (.registerWrite a0 a1 a2) := fun _ h => by cases h

theorem apertureRead a0 a1 : Statement (.apertureRead a0 a1) := fun _ h => by cases h

theorem apertureWrite a0 a1 a2 : Statement (.apertureWrite a0 a1 a2) := fun _ h => by cases h

theorem clkceilWrite a0 a1 : Statement (.clkceilWrite a0 a1) := fun _ h => by cases h

theorem evmaskClear a0 : Statement (.evmaskClear a0) := fun _ h => by cases h

theorem msixDelayedInterrupt : Statement (.msixDelayedInterrupt) := fun _ h => by cases h

theorem qtailDoorbell a0 a1 a2 : Statement (.qtailDoorbell a0 a1 a2) := fun _ h => by cases h

theorem abort a0 a1 : Statement (.abort a0 a1) := fun _ h => by cases h

theorem poke a0 a1 : Statement (.poke a0 a1) := fun _ h => by cases h

theorem queueEnable a0 a1 a2 : Statement (.queueEnable a0 a1 a2) := fun _ h => by cases h

theorem queueEntryTake a0 a1 : Statement (.queueEntryTake a0 a1) := fun _ h => by cases h

theorem dependencePoll a0 : Statement (.dependencePoll a0) := fun _ h => by cases h

theorem clusterReservation a0 : Statement (.clusterReservation a0) := fun _ h => by cases h

theorem blockPlace a0 : Statement (.blockPlace a0) := fun _ h => by cases h

theorem clusterPlace a0 : Statement (.clusterPlace a0) := fun _ h => by cases h

theorem localCardCheck a0 : Statement (.localCardCheck a0) := fun _ h => by cases h

theorem loadComplete a0 a1 : Statement (.loadComplete a0 a1) := fun _ h => by cases h

theorem writeComplete a0 : Statement (.writeComplete a0) := fun _ h => by cases h

theorem atomicComplete a0 a1 : Statement (.atomicComplete a0 a1) := fun _ h => by cases h

theorem translationWalk a0 a1 : Statement (.translationWalk a0 a1) := fun _ h => by cases h

theorem invgo a0 a1 : Statement (.invgo a0 a1) := fun _ h => by cases h

theorem invalidationComplete a0 : Statement (.invalidationComplete a0) := fun _ h => by cases h

theorem placerEpoch : Statement (.placerEpoch) := fun _ h => by cases h

theorem pageMove : Statement (.pageMove) := fun _ h => by cases h

theorem syncCommandStart a0 : Statement (.syncCommandStart a0) := fun _ h => by cases h

theorem tileFillLanded a0 a1 : Statement (.tileFillLanded a0 a1) := fun _ h => by cases h

theorem tileDrainDone a0 a1 : Statement (.tileDrainDone a0 a1) := fun _ h => by cases h

theorem copyCommandComplete a0 : Statement (.copyCommandComplete a0) := fun _ h => by cases h

theorem copyFault a0 : Statement (.copyFault a0) := fun _ h => by cases h

theorem mmaComplete a0 : Statement (.mmaComplete a0) := fun _ h => by cases h

theorem mmatStart a0 : Statement (.mmatStart a0) := fun _ h => by cases h

theorem mmatComplete a0 : Statement (.mmatComplete a0) := fun _ h => by cases h

theorem bankCommandExecute a0 : Statement (.bankCommandExecute a0) := fun _ h => by cases h

theorem sideboardFold a0 a1 : Statement (.sideboardFold a0 a1) := fun _ h => by cases h

theorem slabChunkMove a0 : Statement (.slabChunkMove a0) := fun _ h => by cases h

theorem slabMoveRetry a0 : Statement (.slabMoveRetry a0) := fun _ h => by cases h

theorem joinPass a0 : Statement (.joinPass a0) := fun _ h => by cases h

theorem joinDeadlockDetect a0 : Statement (.joinDeadlockDetect a0) := fun _ h => by cases h

theorem allocationDeadlock a0 : Statement (.allocationDeadlock a0) := fun _ h => by cases h

theorem barrierPhaseComplete a0 a1 a2 : Statement (.barrierPhaseComplete a0 a1 a2) := fun _ h => by cases h

theorem ugetCombine a0 : Statement (.ugetCombine a0) := fun _ h => by cases h

theorem postAct a0 : Statement (.postAct a0) := fun _ h => by cases h

theorem trapAckPoll a0 : Statement (.trapAckPoll a0) := fun _ h => by cases h

theorem handlerStart a0 : Statement (.handlerStart a0) := fun _ h => by cases h

theorem tractResume a0 : Statement (.tractResume a0) := fun _ h => by cases h

theorem tractKillGroup a0 : Statement (.tractKillGroup a0) := fun _ h => by cases h

theorem tractKillGrid a0 : Statement (.tractKillGrid a0) := fun _ h => by cases h

theorem preemptRequeue : Statement (.preemptRequeue) := fun _ h => by cases h

theorem preemptHold : Statement (.preemptHold) := fun _ h => by cases h

theorem cut : Statement (.cut) := fun _ h => by cases h

theorem releaseHeld : Statement (.releaseHeld) := fun _ h => by cases h

theorem resumeFromCut : Statement (.resumeFromCut) := fun _ h => by cases h

theorem preemptDeadline a0 : Statement (.preemptDeadline a0) := fun _ h => by cases h

theorem preemptRestartDeadline a0 : Statement (.preemptRestartDeadline a0) := fun _ h => by cases h

theorem saveImageWrite a0 : Statement (.saveImageWrite a0) := fun _ h => by cases h

theorem restore a0 : Statement (.restore a0) := fun _ h => by cases h

theorem cutReduction a0 : Statement (.cutReduction a0) := fun _ h => by cases h

theorem cutComplete a0 : Statement (.cutComplete a0) := fun _ h => by cases h

theorem cutDeadline a0 : Statement (.cutDeadline a0) := fun _ h => by cases h

theorem migrationPlace a0 : Statement (.migrationPlace a0) := fun _ h => by cases h

theorem migrationDeadline a0 : Statement (.migrationDeadline a0) := fun _ h => by cases h

theorem blockComplete a0 : Statement (.blockComplete a0) := fun _ h => by cases h

theorem gridComplete a0 : Statement (.gridComplete a0) := fun _ h => by cases h

theorem nbownWrite a0 a1 : Statement (.nbownWrite a0 a1) := fun _ h => by cases h

theorem governorInterval a0 : Statement (.governorInterval a0) := fun _ h => by cases h

theorem supplyOverpower a0 : Statement (.supplyOverpower a0) := fun _ h => by cases h

theorem watchdogFire a0 a1 a2 : Statement (.watchdogFire a0 a1 a2) := fun _ h => by cases h

theorem dieReset a0 : Statement (.dieReset a0) := fun _ h => by cases h

theorem selfTestEnd a0 a1 a2 : Statement (.selfTestEnd a0 a1 a2) := fun _ h => by cases h

theorem mogo a0 : Statement (.mogo a0) := fun _ h => by cases h

theorem mapoutFrameCopy a0 : Statement (.mapoutFrameCopy a0) := fun _ h => by cases h

theorem scrubctlWrite a0 : Statement (.scrubctlWrite a0) := fun _ h => by cases h

theorem patrolScrub : Statement (.patrolScrub) := fun _ h => by cases h

theorem hotRowScrub : Statement (.hotRowScrub) := fun _ h => by cases h

theorem scoreHalving : Statement (.scoreHalving) := fun _ h => by cases h

theorem rowRetire : Statement (.rowRetire) := fun _ h => by cases h

theorem refreshManagement : Statement (.refreshManagement) := fun _ h => by cases h

theorem phyCalibration : Statement (.phyCalibration) := fun _ h => by cases h

theorem telemetrySample a0 a1 : Statement (.telemetrySample a0 a1) := fun _ h => by cases h

theorem deviceReset : Statement (.deviceReset) := fun _ h => by cases h

theorem bringUpStart a0 : Statement (.bringUpStart a0) := fun _ h => by cases h

theorem fullService a0 a1 : Statement (.fullService a0 a1) := fun _ h => by cases h

theorem attestSign : Statement (.attestSign) := fun _ h => by cases h

theorem attestSignDone : Statement (.attestSignDone) := fun _ h => by cases h

theorem illegalInstructionWord a0 : Statement (.illegalInstructionWord a0) := fun _ h => by cases h

theorem fetchFault : Statement (.fetchFault) := fun _ h => by cases h

end Sys2Proof.Laws.Encoding
end

