-- ==== Sys2Proof/Tests/Slice0.lean ====
section
/-! SUPPORT. Tests: words of the spec and ill-formed terms; one step on small states, with results worked out from the
rules; and, for each statement, a concrete state and operands that meet its hypotheses. -/

namespace Sys2Proof.Tests

open Sys2Proof Sys2Proof.Machine

set_option maxRecDepth 100000
set_option Elab.async false

/-! ## Small states -/

/-- A grid of one block whose group stands in slot 0 of a core, with two threads that issue together. -/
def grid0 : Grid :=
  let l : Launch := { loadLaunch with gridX := 4, blkX := 2 }
  { launch := l, stage := .eligible, nextBlock := 1 }

/-- Two threads, each with some registers. -/
def two (t0 t1 : Thread) (core : Nat) : State :=
  let u1 : Thread := { t1 with lin := 1 }
  { State.reset with
    mgmt := loadMgmt State.reset.mgmt
    grids := [(0, grid0)], nextGrid := 1
    blocks := [(bKey core 0, { gid := 0, slots := [0] })]
    groups := [(gKey core 0, { blk := bKey core 0 })]
    threads := [(tKey (gKey core 0) 0, t0), (tKey (gKey core 0) 1, u1)]
    issue := { agent := .threads, core := core, ctx := 0, members := [tKey (gKey core 0) 0, tKey (gKey core 0) 1] } }

/-- Registers v1 to v5 of the two threads. -/
def regs0 : Tab Word := [(1, 7), (2, 3), (3, 0), (4, 0x80000000), (5, 0xFFFFFFFF)]
def regs1 : Tab Word := [(1, 0xFFFFFFF9), (2, 40), (3, 1), (4, 5), (5, 2)]

/-- The two threads on core 0, a CD7 core, and on core 240, a CD6 core. -/
def st7 : State := two { v := regs0 } { v := regs1 } 0
def st6 : State := two { v := regs0 } { v := regs1 } 240

/-- The same with hints bound. -/
def hinted (h : HintGroup) : State := two { v := regs0, hints := some h } { v := regs1, hints := some h } 0

/-- The field of thread l of the bundle after an instruction; none where it does not give a next state. -/
def after {α : Type} (i : Instr) (s : State) (f : State → α) : Option α :=
  match exec i s with
  | .next t => some (f t)
  | _ => none

/-- Register n of both threads of core 0. -/
def regsOf (n : Nat) (s : State) : Word × Word := ((s.thread 0).reg n, (s.thread 1).reg n)

/-! ## Words (R137, R146) -/

/-- The two words of the package's example of R163: LD.32 v3, a1[v2 + 1] and SHR.i32 v4, y0, 2. -/
theorem test_words_of_the_example : decode 0x84060211 = .ok (.ld32 3 0 2 1 1) ∧
    decode 0x3B086002 = .ok (.shrI32Imm 4 0 96 2) := ⟨rfl, rfl⟩
/-- Control: BRU q3, +9; predicates: CMP.i32.ge p1, v4, 1. -/
theorem test_word_bru : decode 0x490C0009 = .ok (.bru 3 0 9) := rfl
theorem test_word_cmp : decode 0x3D070401 = .ok (.cmpI32Imm 1 3 4 1) := rfl
theorem test_word_uget : decode 0x53088501 = .ok (.ugetAdd 2 0x85 0) := rfl
/-- Floating point: FMA.f32 v40, v48, v52, and the BLK over it. -/
theorem test_word_fma : decode 0x63503034 = .ok (.fmaF32 40 0 48 52) := rfl
theorem test_word_blk : decode 0xE10C0800 = .ok (.blk 0 3 0 1 0 0) := rfl
theorem test_word_tacq_fill : decode 0x96046640 = .ok (.tacqFill 4 0x66 0 0) := rfl
theorem test_word_mma : decode 0xA0010026 = .ok (.mma 1 0 0 1 0 0 1 2) := rfl
theorem test_word_osm : decode 0xAC140608 = .ok (.osm 20 6 8) := rfl
theorem test_word_nbmac : decode 0xB60069E1 = .ok (.nbmac 0 0 0x69 1 1 1 1) := rfl
theorem test_word_atom : decode 0xC1108821 = .ok (.atom64 8 2 1 2 1) := rfl
theorem test_word_bar : decode 0xBC00C07E = .ok (.bar 3 0x7E) := rfl
theorem test_word_evrd : decode 0xD50A7F02 = .ok (.evrd 5 0 0 0 2) := rfl
theorem test_word_tret : decode 0xD2000001 = .ok .tretKill := rfl
/-- Opcodes 0x00 and 0xFF are permanently illegal, and one that the table leaves free is reserved. -/
theorem test_word_illegal : decode 0 = .error .permanentlyIllegal ∧ decode 0xFF000000 = .error .permanentlyIllegal ∧
    decode 0xF0000000 = .error .reservedOpcode := ⟨rfl, rfl, rfl⟩

/-! ## Ill-formed terms -/

/-- R138: a DST of 96, and a DST other than 0 with W = 1. -/
theorem test_wf_dst : (Instr.addI32 96 0 1 2).wf = false ∧ (Instr.addI32 1 1 1 2).wf = false ∧
    (Instr.addI32 95 0 1 2).wf = true ∧ (Instr.addI32 0 1 1 2).wf = true := by decide +kernel
/-- R142: a last-use bit on a code that is no v register, in the first and in the second source. -/
theorem test_wf_last_use : (Instr.addI32 1 0 0xE0 2).wf = false ∧ (Instr.addI32 1 0 2 0xE4).wf = false ∧
    (Instr.addI32 1 0 0x82 0x83).wf = true := by decide +kernel
/-- R25: a register write of 2 bytes, one that is not aligned, and an aperture access of 9 bytes. -/
theorem test_wf_access : (Instr.registerWrite 0 2 0).wf = false ∧ (Instr.registerWrite 4 8 0).wf = false ∧
    (Instr.apertureRead 0 9).wf = false ∧ (Instr.apertureWrite 0 0 0).wf = false := by decide +kernel
/-- R13 to R21, R95, R122: dies, queues, cores, address spaces, banks, pseudo-channels and stacks that the package lacks. -/
theorem test_wf_dies : (Instr.clkceilWrite 8 0).wf = false ∧ (Instr.qtailDoorbell 0 64 0).wf = false ∧
    (Instr.abort 8 0).wf = false ∧ (Instr.poke 0 64).wf = false ∧ (Instr.queueEnable 8 0 0).wf = false ∧
    (Instr.queueEntryTake 0 64).wf = false ∧ (Instr.clusterPlace 8).wf = false ∧ (Instr.dieReset 8).wf = false ∧
    (Instr.tractResume 8).wf = false ∧ (Instr.tractKillGroup 8).wf = false ∧ (Instr.tractKillGrid 8).wf = false := by
  decide +kernel
theorem test_wf_units : (Instr.blockPlace 304).wf = false ∧ (Instr.localCardCheck 304).wf = false ∧
    (Instr.allocationDeadlock 304).wf = false ∧ (Instr.handlerStart 304).wf = false ∧ (Instr.invgo 64 0).wf = false ∧
    (Instr.invalidationComplete 64).wf = false ∧ (Instr.bankCommandExecute 12288).wf = false ∧
    (Instr.nbownWrite 768 0).wf = false ∧ (Instr.watchdogFire 0 0 304).wf = false ∧
    (Instr.selfTestEnd 8 0 none).wf = false ∧ (Instr.mogo 12).wf = false ∧ (Instr.mapoutFrameCopy 12).wf = false ∧
    (Instr.telemetrySample 8 0).wf = false ∧ (Instr.bringUpStart [(8, 0, none)]).wf = false ∧
    (Instr.fullService 0 [(8, 0, none)]).wf = false := by decide +kernel

/-! ## Integer operations -/

theorem test_add_wraps : after (.addI32 6 0 5 1) st7 (regsOf 6) = some (6, 0xFFFFFFFB) := by decide +kernel
theorem test_div_by_zero : after (.divI32 6 0 1 3) st7 (regsOf 6) = some (0xFFFFFFFF, 0xFFFFFFF9) := by decide +kernel
theorem test_div_overflow : after (.divI32 6 0 4 5) st7 (regsOf 6) = some (0x80000000, 2) := by decide +kernel
/-- −7 by 40 leaves −7, and 7 by 3 leaves 1. -/
theorem test_rem_sign : after (.remI32 6 0 1 2) st7 (regsOf 6) = some (1, 0xFFFFFFF9) := by decide +kernel
/-- 7 × 2^3, and a count of 40 gives 0. -/
theorem test_shl_count : after (.shl 6 0 1 2) st7 (regsOf 6) = some (56, 0) := by decide +kernel
theorem test_shr_sign : after (.shrI32 6 0 1 2) st7 (regsOf 6) = some (0, 0xFFFFFFFF) := by decide +kernel
/-- A released register reads 0 afterwards (R139, R142). -/
theorem test_last_use : after (.addI32 6 0 0x81 2) st7 (regsOf 1) = some (0, 0) := by decide +kernel

/-! ## Witnesses: integers and predicates -/

theorem runs_base : Runs st7 .base := ⟨rfl, by decide, by decide⟩
theorem runs_double : Runs st6 .double := ⟨rfl, by decide, by decide⟩
theorem no_hints : NoBlk st7 ∧ NoLit st7 ∧ NoBlk st6 ∧ NoLit st6 := ⟨rfl, rfl, rfl, rfl⟩
/-- The last register of a 32-bit destination and source, and the last pair. -/
theorem dst_last : DstOk st7 95 0 false := ⟨by decide, by decide, by decide, by decide⟩
theorem dst_pair : DstOk st7 94 0 true := ⟨by decide, by decide, by decide, by decide⟩
theorem dst_latch : DstOk st7 0 1 true := ⟨by decide, by decide, by decide, by decide⟩
theorem src_last : SrcOk st7 (0x80 + 95) false := ⟨by decide, by decide, by decide, by decide, by decide, by decide⟩
theorem src_pair : SrcOk st7 94 true := ⟨by decide, by decide, by decide, by decide, by decide, by decide⟩
theorem src_uniform : SrcOk st7 115 true := ⟨by decide, by decide, by decide, by decide, by decide, by decide⟩
theorem pair6 : DstOk st6 94 0 true ∧ SrcOk st6 94 true :=
  ⟨⟨by decide, by decide, by decide, by decide⟩, ⟨by decide, by decide, by decide, by decide, by decide, by decide⟩⟩

theorem witness_EachWordHasOneMeaning : decode 0x02020203 = .ok (.addI32 1 0 2 3) ∧
    encode (.addI32 1 0 2 3) = some 0x02020203 ∧ Sys2Proof.opcodeOf 0x00123456 = 0 ∧
    assignedOpcode (Sys2Proof.opcodeOf 0xF0000000).toNat = false := ⟨rfl, rfl, rfl, rfl⟩
/-- A bound LIT, for the immediate forms. -/
theorem witness_IntegerOperations : Runs (hinted { start := 0, lit := some 1 }) .base ∧
    NoBlk (hinted { start := 0, lit := some 1 }) ∧ (hinted { start := 0, lit := some 1 }).lead.lit = some 1 :=
  ⟨⟨rfl, by decide, by decide⟩, rfl, rfl⟩
/-- BLK of 1 × 4 elements with step 4, from the bits of R155. -/
theorem witness_BlockElements : let s := hinted { start := 0, blk := some 0x0C4000 }
    Runs s .base ∧ NoLit s ∧ s.lead.hints.bind (·.blk) = some 0x0C4000 ∧ s.issues 0 ∧ (s.thread 0).enabled = true ∧
    (blkOf 0x0C4000).m = 1 ∧ (blkOf 0x0C4000).n = 4 ∧ (blkOf 0x0C4000).rs = 4 ∧
    (blkOf 0x0C4000).fd = false ∧ (blkOf 0x0C4000).fa = false ∧ (blkOf 0x0C4000).fb = false :=
  ⟨⟨rfl, by decide, by decide⟩, rfl, rfl, ⟨by decide, by decide⟩, by decide, rfl, rfl, rfl, rfl, rfl, rfl⟩

/-! ## Control, hints and shadows -/

/-- A branch taken by the lane whose p1 is 1 only. -/
def st7p : State := two { v := regs0, p := 3 } { v := regs1 } 0
theorem test_branch : after (.br 1 0 2) st7p (fun t => ((t.thread 0).pc, (t.thread 1).pc)) = some (12, 4) := by
  decide +kernel
theorem test_call_depth : after (.call 0 0 2) st7 (fun t => ((t.thread 0).cd, (t.thread 0).pc, bytesAt t.mem
    (Claim.callSlot st7 0) 8)) = some (1, 12, 4) := by decide +kernel
/-- The hull of 7 and −7 with the empty pair of `%nthr` and `%zero` (R194, R217). -/
theorem test_shwr : after (.shwr 1 126 127) st7 (fun t => ((t.group 0).shadow 1).lo) = some (-7) ∧
    after (.shwr 1 126 127) st7 (fun t => ((t.group 0).shadow 1).hi) = some 7 := by decide +kernel
theorem test_step_counts : after (.step 0) st7 (fun t => (t.thread 0).steps) = some 1 := by decide +kernel
theorem test_exit : after .exit st7 (fun t => t.threads.length) = some 0 := by decide +kernel

theorem witness_Branches : Runs st7p .base ∧ Claim.taken st7p 1 0 0 = true ∧ Claim.taken st7p 1 0 1 = false ∧
    Claim.taken st7p 1 1 1 = true := ⟨⟨rfl, by decide, by decide⟩, by decide, by decide, by decide⟩
/-- Depth 31 takes the last call, depth 32 none; depth 0 takes no return, depth 1 does. -/
theorem witness_CallsAndReturns : (∀ c ∈ [0, 1, 31, 32],
    let s := two { v := regs0, cd := c } { v := regs1, cd := c } 0
    s.issue.agent = .threads ∧ s.inHandler = false ∧ bytesWf s.mem = true ∧ s.poison = [] ∧ Claim.taken s 0 0 0 = true ∧
      (s.thread 0).cd = c) ∧ SrcOk st7 2 true :=
  ⟨by decide, ⟨by decide, by decide, by decide, by decide, by decide, by decide⟩⟩
theorem witness_ThreadEnds : (∀ k ∈ st7.issue.members, (st7.group (grpOf k)).mma = none) ∧
    (∃ k ∈ st7.issue.members, (st7.thread k).enabled = true) ∧ grpOf 0 ∈ wholeGroups st7 ∧
    (tabGet ({ st7 with issue := { agent := .lectern } }).blocks
      ({ st7 with issue := { agent := .lectern } } : State).issueBlock).isSome := by decide
theorem witness_Hints : (st7.lead.hints.bind (·.live) = none ∧ st7.lead.hints.bind (·.pref) = none ∧
    st7.lead.hints.bind (·.sched) = none ∧ (st7.lead.hints.map (·.grd)).getD false = false ∧
    (st7.lead.hints.map (·.region)).getD false = false ∧ (st7.thread 0).span = none) ∧
    (hinted { start := 0, lit := some 1 }).lead.lit.isSome ∧
    ((hinted { start := 0, step := some 1 }).lead.hints.bind (·.step)).isSome ∧
    ((hinted { start := 0, live := some 1 }).lead.hints.bind (·.live)).isSome := by decide
theorem witness_ShadowsAndArrays : Claim.UniOk st7 100 ∧ Claim.UniOk st7 115 ∧ SrcOk st7 126 false ∧ 0 < st7.regMax ∧
    31 < st7.regMax ∧ (tabGet st7.groups (grpOf 0)).isSome = true :=
  ⟨⟨by decide, by decide, by decide⟩, ⟨by decide, by decide, by decide⟩,
    ⟨by decide, by decide, by decide, by decide, by decide, by decide⟩, by decide, by decide, by decide⟩

/-! ## Floating point -/

/-- Two threads with 1.0 and −0 in v1, and 2.0 and a NaN in v2. -/
def stF : State :=
  two { v := [(1, 0x3F800000), (2, 0x40000000), (3, 0x3F800000)] } { v := [(1, 0x80000000), (2, 0x7FC00001)] } 0
/-- 1.0 × 2.0 + 1.0 = 3.0; a NaN operand gives the canonical NaN (R61, R240). -/
theorem test_fma : after (.fmaF32 3 0 1 2) stF (regsOf 3) = some (0x40400000, 0x7FC00000) := by decide +kernel
/-- The other operand of a NaN; −0 is below +0 (R242). -/
theorem test_fmin : after (.fminF32 3 0 1 2) stF (regsOf 3) = some (0x3F800000, 0x80000000) ∧
    after (.fmaxF32 3 0 1 0x7F) stF (regsOf 3) = some (0x3F800000, 0) := by decide +kernel
/-- 0xFFFFFFFF packed as five trits is no code: byte 255 sets TERNBAD (R69). -/
theorem test_tunp_bad : after (.tunp 6 0 5 0 0) st7 (fun t => (t.group 0).fstat) = some 8 := by decide +kernel
theorem test_seed_zero : after (.seed 3) st7 (fun t => (t.thread 0).gen) = some 1 := by decide +kernel

/-- The canonical NaN of R61 in FP32, and the order of −0 and +0 of R242. -/
theorem test_extremes : Claim.extreme f32 false 0x7FC00001 0xFF800001 = 0x7FC00000 ∧
    Claim.extreme f32 true 0x80000000 0 = 0 ∧ Claim.extreme f32 false 0 0x80000000 = 0x80000000 := by decide +kernel

/-- A thread that sees a narrow tensor t0 and a tensor t1 of another type. -/
def stN (h : Option HintGroup) : State :=
  let s := two { v := regs0, hints := h } { v := regs1, hints := h } 0
  let g : Grid := { grid0 with tensors := [{ etype := 12, fmt := 0xAF07, ndim := 1 }, { etype := 1, ndim := 1 }] }
  { s with grids := [(0, g)] }

/-- RM 4 and RM 0 are the last and the first mode; a CD7 core runs base and narrow, a CD6 core double. -/
theorem witness_FloatArithmetic : Claim.ModeIs (hinted { start := 0, lit := some 4 }) (rmOf 4) ∧ Claim.ModeIs st7 .rn ∧
    tabGetD st7.upsets st7.issue.core 0 = 0 ∧ Runs st6 .double ∧ DstOk st6 94 0 true ∧ SrcOk st6 94 true :=
  ⟨.inr ⟨4, rfl, by decide, rfl⟩, .inl ⟨rfl, rfl⟩, rfl, runs_double, pair6.1, pair6.2⟩
theorem witness_FloatSignsAndCompares : (1 : BitVec 2) ≠ 3 ∧ (1 : BitVec 2) ≠ 0 ∧ (2 : BitVec 2) ≠ 3 ∧
    (hinted { start := 0, lit := some 1 }).lead.lit = some 1 ∧ (hinted { start := 0, lit := some 0 }).lead.lit = some 0 ∧
    DstOk st7 95 0 false :=
  ⟨by decide, by decide, by decide, rfl, rfl, dst_last⟩
theorem witness_FormatConversions : Runs (stN none) .narrow ∧ (stN none).enabled ≠ [] ∧
    (tensorAt (stN none) ((stN none).group (stN none).leadGroup).blk 0).map (·.etype) = some 12 ∧
    (tensorAt (stN none) ((stN none).group (stN none).leadGroup).blk 1).map (·.etype) = some 1 ∧
    tensorAt (stN none) ((stN none).group (stN none).leadGroup).blk 2 = none ∧
    (stN (some { start := 0, lit := some 20 })).lead.lit = some 20 ∧ (20 : BitVec 24).toNat % 8 < 5 ∧
    SrcOk st7 94 true ∧ DstOk st6 94 0 true :=
  ⟨⟨rfl, by decide, by decide⟩, by decide, by decide, by decide, by decide, rfl, by decide, src_pair, pair6.1⟩
theorem witness_PackedTernary : Runs st7 .ternary ∧ DstOk st7 94 0 true ∧
    (∀ k ∈ (two {} {} 0).enabled, ((two {} {} 0).word 1 k).toNat / 256 ^ 0 % 256 < 243) :=
  ⟨⟨rfl, by decide, by decide⟩, dst_pair, by decide⟩
theorem witness_GeneratorStatusAndCounterReads : (∀ k ∈ st7.enabled, inFlight st7 (grpOf k) = false) ∧
    Runs st7 .base ∧ DstOk st7 95 0 false := ⟨by decide, runs_base, dst_last⟩

/-! ## The uniform stream -/

/-- Address space 0 maps its first GiB onto the first GiB of stack 0, and the block's own changes. -/
def mapped (s : State) (f : Block → Block) (stores : List (Nat × Nat × Nat)) : State :=
  let space : Space := { root := 0x1000, en := true }
  { s with
    host := { s.host with spaces := [(0, space)] }
    mem := stores.foldl (fun m e => bytesSet m e.1 e.2.1 e.2.2) (loadTables [])
    blocks := s.blocks.map fun e => (e.1, f e.2) }

/-- The Lectern of the block executes, with q1 = 0x200000 and q2 = 5. -/
def stL : State :=
  let s := mapped st7 (fun b => { b with lect := { b.lect with q := [(1, 0x200000), (2, 5)] } }) [(0x200008, 8, 0x1234567890)]
  { s with issue := { agent := .lectern, core := 0, ctx := 0 } }

/-- Both threads stand at the first entry of the decision queue, whose word stands at an address. -/
def stE (addr : DWord) : State := mapped st7 (fun b => { b with dq := [{ addr := addr, next := addr + 4 }] }) []

/-- The Lectern waits at a UGET.add, or a POST, that both threads have passed. -/
def stU (kind : UniKind) : State :=
  let e : DqEntry := { addr := 0, next := 4, kind := kind, wq := some (2, none), contrib := [(0, 3), (1, 4)] }
  mapped (two { upos := 1 } { upos := 1 } 0)
    (fun b => { b with dq := [e], lect := { b.lect with wait := .entry 0, q := [(1, 9)] } }) []

/-- q3 := q1 + q2 on the Lectern, and an 8-byte ULD at q1 + 8. -/
theorem test_uadd : after (.uadd 3 1 2 0) stL (fun t => tabGetD t.lect.q 3 0) = some 0x200005 := by decide +kernel
theorem test_uld : after (.uld 3 1 1 0 3) stL (fun t => tabGetD t.lect.q 3 0) = some 0x1234567890 := by decide +kernel
theorem test_uget_combine : after (.ugetCombine 0) (stU (.uget 1 false)) (fun t => tabGetD (t.block 0).lect.q 2 0) =
    some 7 := by decide +kernel
theorem test_bru_consumes : after (.bru 1 0 5) (stE 0) (fun t => ((t.thread 0).upos, (t.thread 0).pc)) = some (1, 4) := by
  decide +kernel
/-- A thread at another word raises CODE 0x000A (R174). -/
theorem test_uniform_order : after (.bru 1 0 5) (stE 8) (fun t => t.records.map (·.code)) = some [0x000A] := by
  decide +kernel

theorem lect_runs : Claim.LectRuns stL ∧ Claim.LectNoLit stL := ⟨⟨rfl, by decide, rfl⟩, rfl⟩
theorem witness_LecternBranchesAndOperations : Claim.LectRuns stL := lect_runs.1
/-- A load that succeeds, and one whose address no page maps. -/
theorem witness_LecternLoadsGetsAndPosts : Claim.LectRuns stL ∧ Claim.LectNoLit stL ∧ stL.issue.members = [] ∧
    (match readClean stL 0 0x200008 .load 8 with | .ok x => x == 0x1234567890 | .error _ => false) = true ∧
    (match readClean stL 0 0x40000000 .load 8 with | .ok _ => false | .error e => e.2 != poisonReason) = true ∧
    Claim.UGetSource stL 94 1 ∧ Claim.UGetSource stL 127 1 ∧ (5 : BitVec 6).toNat < 6 :=
  ⟨lect_runs.1, lect_runs.2, rfl, by decide +kernel, by decide +kernel, ⟨by decide, by decide, by decide⟩,
    ⟨by decide, by decide, by decide⟩, by decide⟩
theorem no_posts {s : State} (h : (s.issue.members.all fun k => match entryOf s k with
    | some e => !e.posts || drained s (grpOf k) | none => true) = true) : ∀ k ∈ s.issue.members, ∀ e, entryOf s k = some e →
    e.posts = true → drained s (grpOf k) = true := fun k hk e he p => by
  have := List.all_eq_true.mp h k hk
  simpa [he, p] using this
theorem witness_entries : Claim.AtEntries (stE 0) :=
  ⟨⟨rfl, by decide, by decide⟩, rfl, rfl, by decide, fun k hk => ⟨{ addr := 0, next := 4 }, by
    have : k ∈ [0, 1] := hk
    simp only [List.mem_cons, List.not_mem_nil, or_false] at this
    rcases this with rfl | rfl <;> exact ⟨rfl, rfl, by decide, by decide⟩⟩, no_posts (by decide +kernel)⟩
theorem witness_ThreadsAndTheLectern : disordered (stE 8) ≠ [] ∧
    (∃ k ∈ (two { span := some { left := 1, g := true } } {} 0).issue.members,
      ((two { span := some { left := 1, g := true } } {} 0).thread k).span.isSome) ∧
    (waitEntry (stU (.uget 1 false)) 0).map (·.1) = some 0 ∧ allPassed (stU (.uget 1 false)) 0 0 = true ∧
    (stU (.uget 1 false)).lectStopped 0 = false ∧ (waitEntry (stU (.post 0 0 true)) 0).map (·.1) = some 0 ∧
    allPassed (stU (.post 0 0 true)) 0 0 = true ∧ (stU (.post 0 0 true)).lectStopped 0 = false := by decide

/-! ## Memory -/

/-- The conditions on a bundle's lanes as one check. -/
def clearCheck (s : State) (ls : List LaneAcc) (size : Nat) (acc : Access) : Bool :=
  ls.all fun l => l.bounds.isNone && (l.masked || l.addr.toNat % size == 0) &&
    match l.place with
    | .virt va => l.masked || (decide (va.toNat < 2 ^ 57) &&
        match translate s (s.asidOf (s.group (grpOf l.k)).blk) va acc with | .ok _ => true | .error _ => false)
    | .shared b _ => (tabGet s.blocks b).isSome
    | .phys _ => true

theorem clear_of {s : State} {ls : List LaneAcc} {size : Nat} {acc : Access} {wrote : Bool}
    {atomic : LaneAcc → Option Inst} {o : Order} (h : clearCheck s ls size acc = true)
    (r : (raceAccs s ls acc size wrote atomic).all (fun a => (racesOf s o a).isEmpty) = true)
    (c : s.poison = [] ∧ s.weak = []) (b : s.banks = []) (q : acquiring s = false := by decide +kernel) : Claim.Clear s ls size acc wrote atomic o := by
  simp only [clearCheck, List.all_eq_true, Bool.and_eq_true, Bool.or_eq_true, beq_iff_eq, Option.isNone_iff_eq_none, List.isEmpty_iff] at h r
  refine ⟨fun l hl => (h l hl).1.1, fun l hl m => ?_, fun l hl m va p => ?_, fun l hl k off p => ?_, r, c, by simp [b], q⟩
  · rcases (h l hl).1.2 with e | e
    · simp [m] at e
    · exact e
  · have := (h l hl).2
    simp only [p, m, Bool.false_or, Bool.and_eq_true, decide_eq_true_eq] at this
    refine ⟨this.1, ?_⟩
    cases e : translate s (s.asidOf (s.group (grpOf l.k)).blk) va acc with
    | ok pa => exact ⟨pa, rfl⟩
    | error x => simp [e] at this
  · have := (h l hl).2
    simpa [p] using this

/-- Two threads with indices 0 and 1 in v3, the address 0x200000 in v6, and an array a0 of 16 words there. -/
def thM (h : Option HintGroup) (n : Word) : Thread :=
  { v := [(1, 7), (2, 3), (3, n), (4, 0), (5, 9), (6, 0x200000 + 8 * n), (8, 4 * n)], hints := h }
def stM (h : Option HintGroup) : State :=
  mapped (two (thM h 0) (thM h 1) 0)
    (fun b => { b with a := [(0, { base := 0x200000, extent := 16, esize := 2 }), (1, { base := 0x200000, extent := 8, esize := 3 }), (2, { extent := 16, esize := 2 })]
                       tiles := [(63, { state := .ready, len := 1 })] })
    [(0x200000, 4, 0x11223344), (0x200004, 4, 0x80000001)]

theorem test_ld32 : after (.ld32 9 0 3 0 0) (stM none) (fun t => (t.group 0).loads.map fun l => l.map (·.value)) =
    some [[0x11223344, 0x80000001]] := by decide +kernel
theorem test_st32 : after (.st32 2 0 3 0 1) (stM none) (fun t => bytesAt t.mem 0x200004 8) = some 0x0000000300000003 := by
  decide +kernel
/-- Two lanes store to one word: the higher lane's value stands (R276). -/
theorem test_last_wins : after (.st32 3 0 4 0 0) (stM none) (fun t => bytesAt t.mem 0x200000 4) = some 1 := by decide +kernel
/-- An index of 16 is out of bounds in trap mode: CODE 0x0010 (R199, R275). -/
theorem test_bounds_trap : after (.ld32 9 0 6 0 0) (stM none) (fun t => t.records.map (·.code)) = some [0x0010] := by
  decide +kernel
/-- Both lanes add 7 to one word: the old values are 0x11223344 and that plus 7 (R391). -/
theorem test_atom_add : after (.atom32 1 0 0 4 0) (stM none) (fun t => bytesAt t.mem 0x200000 4) = some 0x11223352 := by
  decide +kernel

theorem base_m : Runs (stM none) .base ∧ NoBlk (stM none) ∧ NoLit (stM none) := ⟨⟨rfl, by decide, by decide⟩, rfl, rfl⟩
theorem src_m (f : BitVec 8) (h : f.toNat < 96 := by decide) : SrcOk (stM none) f false :=
  have c : codeOf f = f.toNat := by simp only [codeOf]; omega
  have m : (stM none).regMax = 96 := by decide
  ⟨fun _ => (by omega), fun _ w => (nomatch w), fun h => (by omega), fun h => (by omega), fun h => (by omega), by
    have o : (stM none).issue.members = [0, 1] := rfl
    have g0 : (stM none).group (grpOf 0) = { blk := 0 } := rfl
    have g1 : (stM none).group (grpOf 1) = { blk := 0 } := rfl
    have n : ¬ 96 ≤ codeOf f := by omega
    simp [srcHeld, o, held, g0, g1, Group.onWay, Group.mmaHolds, n]⟩
theorem stores_m : Claim.StoresWf (stM none) ∧ Claim.GatherRoom (stM none) :=
  ⟨⟨by decide +kernel, fun b => by
    by_cases h : b = 0
    · subst h; decide
    · have e : (stM none).block b = {} := by
        simp [State.block, tabGetD, tabGet, stM, mapped, two, bKey, Ne.symm h]
      rw [e]; decide⟩, by unfold Claim.GatherRoom; decide⟩
/-- LD.32 v9, a0[v3 + 1] and LDG.64 through the pair v6. -/
theorem witness_Loads : Claim.Clear (stM none) (lanesM 3 0 1 4 false (stM none)) 4 .load false (fun _ => none) (stM none).order ∧
    DstOk (stM none) 9 0 false ∧ SrcOk (stM none) 6 true ∧
    Claim.Clear (stM none) ((stM none).enabled.map fun k =>
      ({ k := k, addr := (stM none).dword 6 k + Claim.immDword (stM none) 0
         place := .virt ((stM none).dword 6 k + Claim.immDword (stM none) 0) } : LaneAcc)) 8 .load false (fun _ => none)
      (stM none).order :=
  ⟨clear_of (by decide +kernel) (by decide +kernel) ⟨rfl, rfl⟩ rfl, ⟨by decide, by decide, by decide, by decide⟩,
    ⟨by decide, by decide, by decide, by decide, by decide, by decide⟩,
    clear_of (by decide +kernel) (by decide +kernel) ⟨rfl, rfl⟩ rfl⟩
theorem witness_Stores : Claim.StoresWf (stM none) ∧ Claim.GatherRoom (stM none) ∧ SrcOk (stM none) (dataField 2 0) false ∧
    Claim.Clear (stM none) (lanesM 3 0 0 4 false (stM none)) 4 .store true (fun _ => none) (stM none).order ∧
    Claim.Clear (stM none) (lanesM 3 2 0 4 true (stM none)) 4 .store true (fun _ => none) (stM none).order :=
  ⟨stores_m.1, stores_m.2, src_m _, clear_of (by decide +kernel) (by decide +kernel) ⟨rfl, rfl⟩ rfl,
    clear_of (by decide +kernel) (by decide +kernel) ⟨rfl, rfl⟩ rfl⟩
/-- Tile 63 is ready; rank 0 of the own block. -/
theorem witness_TileAndRankAccesses : 63 < ((stM none).gridOf 0).launch.nTile ∧ ((stM none).tile 0 63).state = .ready ∧
    leaving (stM none) (stM none).enabled 63 = false ∧ rankWaits 8 0 0 (stM none) = false ∧
    Claim.Clear (stM none) (lanesT 8 63 4 (stM none)) 4 .store true (fun _ => none) (stM none).order :=
  ⟨by decide, by decide, by decide, by decide, clear_of (by decide +kernel) (by decide +kernel) ⟨rfl, rfl⟩ rfl⟩
/-- A lane out of bounds, one misaligned, and one at an address that no page maps. -/
def laneAt (a : DWord) : LaneAcc := { k := 0, addr := a, place := .virt a }
theorem witness_AccessChecksAndSpills :
    ({ laneAt 0 with bounds := some (0, 0, 0) } : LaneAcc).bounds.isSome ∧
    ((laneAt 2).masked = false ∧ (laneAt 2).addr.toNat % 4 ≠ 0) ∧
    (match translate (stM none) 0 0x40000000 .load with | .ok _ => false | .error _ => true) = true ∧
    Claim.Clear (stM none) [laneAt 0x200000] 4 .load false (fun _ => none) (stM none).order ∧
    (95 : BitVec 8).toNat < 96 ∧ SrcOk (stM none) 95 false ∧ Claim.GatherRoom (stM none) ∧ memoryWf (stM none).mem :=
  ⟨by decide, by decide, by decide +kernel, clear_of (by decide +kernel) (by decide +kernel) ⟨rfl, rfl⟩ rfl, by decide,
    src_m _, stores_m.2, stores_m.1.1⟩
/-- An atomic on a0[v3], relaxed, at the last scope; CAS of a 64-bit pair at the last registers. -/
theorem witness_Atomics : Claim.AtomicReady (stM none) 5 3 false ∧ Claim.AtomicReady (stM none) 0 3 (ordRel (stM none).lead) ∧
    litAlt (stM none).lead = false ∧ (atomicFn 7 false 4).isSome ∧ (92 : BitVec 7).toNat % 4 = 0 ∧
    (92 : BitVec 7).toNat + 4 ≤ (stM none).regMax ∧
    Claim.Clear (stM none) (lanesA 3 0 4 (stM none)) 4 .store true (fun l => some (instOf (stM none) l.k 0))
      (Claim.acquired (stM none) (lanesA 3 0 4 (stM none)) 4 0 false false fun _ old => some (old ^^^ 7)) ∧
    (∀ k ∈ (stM none).enabled, ((stM none).group (grpOf k)).nGather = 0 ∧ ((stM none).group (grpOf k)).atomics = []) ∧
    (∀ g ∈ (stM none).grids, g.2.stage ≠ .waiting) ∧
    Claim.Clear (stM none) ((stM none).enabled.map fun k =>
      ({ k := k, addr := (stM none).dword 6 k, place := .virt ((stM none).dword 6 k) } : LaneAcc)) 8 .store true
      (fun l => some (instOf (stM none) l.k 4)) (stM none).order :=
  ⟨⟨base_m.1, rfl, by decide, by decide, src_m _, fun h => nomatch h⟩,
    ⟨base_m.1, rfl, by decide, by decide, src_m _, fun h => absurd h (by decide)⟩, by decide, by decide, by decide, by decide,
    clear_of (by decide +kernel) (by decide +kernel) ⟨rfl, rfl⟩ rfl, by decide, by decide,
    clear_of (by decide +kernel) (by decide +kernel) ⟨rfl, rfl⟩ rfl⟩
/-- An acquire, a release whose group has no write left, and counters at and above n. -/
theorem witness_AcquireReleaseFencesAndWaits : litA (stM none).lead % 8 = 0 ∧ Claim.AtomicReady (stM none) 5 3 true ∧
    Claim.Clear (stM none) (lanesA 3 0 4 (stM none)) 4 .load false (fun _ => none)
      (acquireLanes (stM none) ((lanesA 3 0 4 (stM none)).map (resolve (stM none) .load)) 4 5) ∧
    (∀ k ∈ (stM none).enabled, ((stM none).group (grpOf k)).nCopy ≤ (0 : BitVec 6).toNat) ∧
    ¬(∀ k ∈ ({ stM none with groups := [(0, { nCopy := 64 })] } : State).enabled,
      (({ stM none with groups := [(0, { nCopy := 64 })] } : State).group (grpOf k)).nCopy ≤ (63 : BitVec 6).toNat) :=
  ⟨by decide, ⟨base_m.1, rfl, by decide, by decide, src_m _, fun _ => by decide⟩,
    clear_of (by decide +kernel) (by decide +kernel) ⟨rfl, rfl⟩ rfl, by decide, by decide⟩

/-! ## Other registers forms -/

theorem witness_DivisionResults : Runs st7 .base ∧ DstOk st7 95 0 false ∧ SrcOk st7 (0x80 + 95) false ∧ NoBlk st7 ∧
    NoLit st7 := ⟨runs_base, dst_last, src_last, no_hints.1, no_hints.2.1⟩
theorem witness_UnaryIntegerResults : Runs st7 .base ∧ DstOk st7 95 0 false ∧ SrcOk st7 (0x80 + 95) false ∧ NoBlk st7 ∧
    NoLit st7 := witness_DivisionResults
theorem witness_ShiftAndWideResults : Runs st7 .base ∧ NoBlk st7 ∧ NoLit st7 ∧ DstOk st7 95 0 false ∧
    DstOk st7 94 0 true ∧ DstOk st7 0 1 true ∧ SrcOk st7 (0x80 + 95) false ∧ SrcOk st7 94 true :=
  ⟨runs_base, no_hints.1, no_hints.2.1, dst_last, dst_pair, dst_latch, src_last, src_pair⟩
theorem witness_ComparesAndSelection : Runs st7 .base ∧ NoBlk st7 ∧ NoLit st7 ∧ DstOk st7 95 0 false ∧
    SrcOk st7 (0x80 + 95) false ∧ SrcOk st7 115 true :=
  ⟨runs_base, no_hints.1, no_hints.2.1, dst_last, src_last, src_uniform⟩
theorem witness_FloatMinMax : (Runs st7 .base ∧ NoBlk st7 ∧ NoLit st7 ∧ DstOk st7 95 0 false ∧ SrcOk st7 115 true ∧
    (1 : BitVec 2) ≠ 3 ∧ (1 : BitVec 2) ≠ 0) ∧ Runs st6 .double ∧ NoBlk st6 ∧ NoLit st6 ∧ DstOk st6 94 0 true ∧
    SrcOk st6 94 true :=
  ⟨⟨runs_base, no_hints.1, no_hints.2.1, dst_last, src_uniform, by decide, by decide⟩, runs_double, no_hints.2.2.1,
    no_hints.2.2.2, pair6.1, pair6.2⟩
theorem witness_FloatFunctions : (Runs st7 .base ∧ DstOk st7 95 0 false ∧ SrcOk st7 (0x80 + 95) false ∧
    (2 : BitVec 2) ≠ 3) ∧ Runs st6 .double ∧ DstOk st6 94 0 true ∧ SrcOk st6 94 true :=
  ⟨⟨runs_base, dst_last, src_last, by decide⟩, runs_double, pair6.1, pair6.2⟩

/-! ## Joins and barriers -/

/-- Two threads, the first of which waits at a JOIN with a mask. -/
def stJ (mask : Word) (t : Thread) : State := mapped (two { wait := .join 0 mask } t 0) id []
/-- Mask 1 names the waiting lane only; mask 3 names a lane that waits for it in turn, at another JOIN. -/
theorem test_join_pass : after (.joinPass 0) (stJ 1 {}) (fun t => (t.thread 0).pc) = some 4 ∧
    after (.joinPass 0) (stJ 3 {}) (fun t => (t.thread 0).pc) = some 0 := by decide +kernel
theorem test_join_deadlock : after (.joinDeadlockDetect 0) (stJ 3 { wait := .join 8 3 }) (fun t =>
    t.records.map fun r => (r.code, r.lanes)) = some [(0x000D, 3)] := by decide +kernel
theorem witness_Joins : Runs st7 .base ∧ st7.inHandler = false ∧ SrcOk st7 1 false ∧
    (∃ k ∈ st7.issue.members, (st7.thread k).enabled = true ∧ st7.word 1 k ≠ 0) ∧
    (stJ 1 {}).stopped 0 = false ∧ gathered (stJ 1 {}) 0 = false ∧
    gathered (two { wait := .whole 0 } { wait := .whole 0 } 0) 0 = true ∧
    deadlocked (stJ 3 { wait := .join 8 3 }) 0 = [0, 1] ∧ ((stJ 3 {}).liveOf 0).length ≤ 32 ∧ deadlocked (stJ 3 {}) 0 = [] :=
  ⟨runs_base, by decide, ⟨by decide, by decide, by decide, by decide, by decide, by decide⟩, by decide +kernel, by decide +kernel,
    by decide +kernel, by decide +kernel, by decide +kernel, by decide +kernel, by decide +kernel⟩

/-- The last barrier of a block and of a cluster, with the count 2 of r126 (`%nthr`) and the count of a q register. -/
def stB : State :=
  let l : Launch := { loadLaunch with kind := 1, clSize := 1, blkX := 2, nCBar := 64 }
  let g : Grid := { grid0 with launch := l }
  let s := two { v := regs0 } { v := regs1 } 0
  { s with grids := [(0, g)], blocks := s.blocks.map fun e => (e.1, { e.2 with cluster := some 0, q := [(0, 2)] })
           clusters := [(clKey 0 0, {})] }
theorem witness_Barriers : Runs stB .base ∧ stB.inHandler = false ∧ NoBlk stB ∧ NoLit stB ∧ 100 ≤ codeOf 126 ∧
    SrcOk stB 126 false ∧ SrcOk stB 100 false ∧
    (∀ e ∈ [(false, 15), (true, 63)], e.2 < (if e.1 then (stB.gridOf 0).launch.nCBar else (stB.gridOf 0).launch.nBar) ∧
      ∀ c ∈ [none, some 2], (arriveAll stB 0 e.1 e.2 stB.enabled fun _ => c).2.2 = []) ∧
    (stB.word 100 0).toNat = 2 ∧ (∀ k ∈ stB.enabled, (stB.group (grpOf k)).nColl < 63) ∧ (tabGet stB.blocks 0).isSome :=
  ⟨⟨rfl, by decide, by decide⟩, by decide, rfl, rfl, by decide, ⟨by decide, by decide, by decide, by decide, by decide, by decide⟩,
    ⟨by decide, by decide, by decide, by decide, by decide, by decide⟩, by decide +kernel, by decide +kernel, by decide, by decide⟩

/-! ## Commands -/

/-- A 2 × 32 tensor of bytes at 0x200000, and one in the bank-striped layout. -/
def tens : List Tensor := [{ base := 0x200000, etype := 1, ndim := 2, ext := [32, 2], stride := [1, 32] },
  { base := 0x204000, etype := 8, layout := 2, ndim := 2, ext := [16, 16] }]

/-- A paged slab record of capacity 2^8 with LEN tokens, more flags, and a TSTR; a row-major one in bytes. -/
def slabRec (len more : Nat) : Nat :=
  0x220000 + len * 2 ^ 128 + 0xFFFFFFFF * 2 ^ 224 + 8 * 2 ^ 256 + 2 ^ 274 + 16 * 2 ^ 320 + 12 * 2 ^ 336 + 0xAF07 * 2 ^ 352 +
    more

/-- The first rank of a cluster of two, with a Sideboard channel, tensors, a slab record at 0x210000 and a list of regions
at 0x210040; the caches hold the translation. -/
def stQ (record : Nat) (f : Block → Block) : State :=
  let l : Launch := { loadLaunch with kind := 1, clSize := 2, blkX := 2 }
  let g : Grid := { grid0 with launch := l, tensors := tens }
  let s := mapped (two { upos := 1 } { upos := 1 } 0) (fun b => f { b with cluster := some 0 })
    [(0x210000, 64, record), (0x210040, 8, 1), (0x210048, 8, 2 ^ 20), (0x210050, 8, 0x400000)]
  { s with grids := [(0, g)], clusters := [(clKey 0 0, { channel := some {} })] }

/-- Its Lectern, with tile n and values in q2 and q3. -/
def stC (n : Nat) (t : Tile) (q2 q3 : DWord) : State :=
  let s := stQ (slabRec 5 0) fun b => { b with
    tiles := [(n, t)], lect := { b.lect with q := [(2, q2), (3, q3)], k := [(15, 0x210000)] } }
  { s with issue := { agent := .lectern } }

theorem lect_c (n : Nat) (t : Tile) (q2 q3 : DWord) : Claim.LectRuns (stC n t q2 q3) ∧ Claim.LectNoLit (stC n t q2 q3) :=
  ⟨⟨rfl, rfl, rfl⟩, rfl⟩
theorem x_c : Claim.XOk 102 true ∧ Claim.XOk 115 false := by simp only [Claim.XOk]; decide

/-- TACQ of the last tile in both spaces, at the ends of the vault and of the shared memory. -/
theorem test_tacq :
    after (.tacq 102 0 63) (stC 0 {} 0x000104FF 0) (fun t => (t.tile 0 63).state) = some .ready ∧
    after (.tacq 102 1 63) (stC 0 {} 0x00015FFF 0) (fun t => (t.tile 0 63).state) = some .ready := by decide +kernel
theorem witness_TileCommands : 63 < ((stC 0 {} 0 0).gridOf 0).launch.nTile ∧
    Claim.RegionFits (stC 0 {} 0 0) false 0x000104FF ∧ Claim.RegionFits (stC 0 {} 0 0) true 0x00015FFF ∧
    (Claim.tiles (stC 0 {} 0 0) 63).state = .empty ∧
    (∀ ten ∈ tens, Claim.boxBytes ten ≤ 0x20000 / 2 ^ 16 * 256 ∧ ten.fits 0x4000 = true) ∧
    (∀ i < 2, tensorAt (stC 0 {} 0 0) 0 i = tens[i]?) ∧
    (∀ st ∈ [TileState.ready, .filling, .draining], (Claim.tiles (stC 63 { state := st, len := 2 } 0 0) 63).state = st) ∧
    Claim.boxBytes tens[0] ≤ (Claim.tiles (stC 63 { state := .ready, len := 2 } 0 0) 63).len.toNat * 256 := by
  simp only [Claim.RegionFits]; decide +kernel

theorem witness_CopyAndMatrixCommands : Claim.LectRuns (stC 63 { state := .ready, len := 1 } 0 0) ∧
    (let s := stC 63 { state := .ready, len := 1 } 0 0
     tensorAt s 0 0 = some tens[0] ∧ tensorAt s 0 255 = none ∧ rankBlock s 0 0 = some 0 ∧ rankBlock s 0 1 = none ∧
       (s.tile 0 63).state = .ready ∧ (s.tile 0 63).vault = false ∧
       Claim.boxBytes tens[0] ≤ (s.tile 0 63).len.toNat * 256 ∧ tens[0].fits 0 = true) := ⟨(lect_c _ _ _ _).1, by decide +kernel⟩

/-- The largest partial fills 514 granules of a tile; PSEL of 64 pages from 4096; a KVPK of a page's 64 tokens. -/
theorem witness_AttentionCommands :
    Class.attention.onDie (Config.dieOfCore (stC 0 {} 0 0).issue.core) = true ∧
    (0x01FFFFFFFFFFFFC0 : DWord).toNat % 64 = 0 ∧ (0x01FFFFFFFFFFFFC0 : DWord).toNat < 2 ^ 57 ∧
    tabGet (stC 0 {} 0 0).lect.k (15 : BitVec 4).toNat = some 0x210000 ∧
    sideShape 0x02000040 = some (64, 512) ∧ (clusterOf (stC 0 {} 0 0) 0).channel = some {} ∧
    8 * 64 + 4 * 64 * 512 ≤ (Claim.tiles (stC 63 { state := .ready, len := 514 } 0x02000040 0) 63).len.toNat * 256 ∧
    ((stC 0 {} 0 0).block 0).sbSent ≤ ({} : Channel).round ∧ ((stC 0 {} 0 0).block 0).rank = 0 ∧
    pselArgs 0x00403F3F 0x0000100000000000 = some (63, 63, 64, 0, 4096) ∧
    kvArgs 0x0040003F 0 = some (63, false, 64, 0) ∧
    (Claim.tiles (stC 63 { state := .ready, len := 2 } 0x00403F3F 0) 63).state = .ready := by decide +kernel

/-! A translation looks only at the tables, wherever else memory holds free values of the configuration. -/

def leaf0 : Leaf := { entry := 0xF, log := 30, slot := 0x3000 }
/-- A state whose address space 0 maps its first GiB by the tables of loadTables. -/
structure Low (s : State) : Prop where
  mgmt : s.mgmt = loadMgmt State.reset.mgmt
  space : tabGetD s.host.spaces 0 {} = { root := 0x1000, en := true }
  tlb : s.tlb = []
  top : bytesAt s.mem 0x1000 8 = 0x2001
  mid : bytesAt s.mem 0x2000 8 = 0x3001
  leaf : bytesAt s.mem 0x3000 8 = 0xF
theorem walk_table {m : Mgmt} {mem : Bytes} {va table sh slot e : Nat} {rest : List Nat} (hs : table + 8 * (va / 2 ^ sh % 512) = slot)
    (he : bytesAt mem slot 8 = e) (c : (decide (sh = 16) || !tableStands m slot || !bitNat e 0 || bitsNat e 63 52 != 0 ||
      bitNat e 1 || bitsNat e 7 2 != 0 || (sh != 21 && bitsNat e 11 8 != 0)) = false) :
    walkFrom m mem va table (sh :: rest) = walkFrom m mem va (bitsNat e 51 8 * 256) rest := by
  simp only [Bool.or_eq_false_iff, decide_eq_false_iff_not, Bool.not_eq_false'] at c
  obtain ⟨⟨⟨⟨⟨⟨c1, c2⟩, c3⟩, c4⟩, c5⟩, c6⟩, c7⟩ := c
  simp [walkFrom, c1, hs, he, c2, c3, c4, c5, c6, c7]
theorem walk_leaf {m : Mgmt} {mem : Bytes} {va table sh slot e : Nat} {rest : List Nat} (hs : table + 8 * (va / 2 ^ sh % 512) = slot)
    (he : bytesAt mem slot 8 = e) (c : (decide (sh = 16) || !tableStands m slot || !bitNat e 0 || bitsNat e 63 52 != 0 ||
      !bitNat e 1 || (decide (30 < sh) || bitsNat e 15 8 != 0 || bitsNat e 51 16 % 2 ^ (sh - 16) != 0)) = false) :
    walkFrom m mem va table (sh :: rest) = .ok { entry := e, log := sh, slot := slot } := by
  rw [Bool.or_eq_false_iff] at c
  simp only [Bool.or_eq_false_iff, decide_eq_false_iff_not, Bool.not_eq_false'] at c
  obtain ⟨⟨⟨⟨⟨c1, c2⟩, c3⟩, c4⟩, c5⟩, ⟨c6, c7⟩, c8⟩ := c
  simp [walkFrom, c1, hs, he, c2, c3, c4, c5, c7, c8, Nat.not_lt.mp c6]
theorem Low.walk {s : State} (h : Low s) {va : Nat} (hv : va < 2 ^ 30) : walk s 0 va = .ok leaf0 := by
  have c : cached s 0 va = none := by simp [cached, h.tlb]
  have r : bitsNat ((tabGetD s.host.spaces (0 : BitVec 6).toNat {}).root.toNat) 51 12 * 4096 = 0x1000 := by
    rw [show (0 : BitVec 6).toNat = 0 from rfl, h.space]; rfl
  simp only [Machine.walk, c, walkTables, rootTable, r, walkShifts, h.mgmt]
  rw [if_neg (by omega), walk_table (slot := 0x1000) (by omega) h.top (by decide +kernel),
    walk_table (slot := 0x2000) (by simp only [bitsNat]; omega) h.mid (by decide +kernel),
    walk_leaf (slot := 0x3000) (by simp only [bitsNat]; omega) h.leaf (by decide +kernel)]
  rfl
theorem phys_low {a : Nat} (h : a < 2 ^ 30) : physRegion (loadMgmt State.reset.mgmt) a = .hbm := by
  have e : a / 2 ^ 36 = 0 := by omega
  have z : a % 2 ^ 36 / 2 ^ 32 = 0 := by omega
  rw [physRegion, if_pos (by omega), e, z]
  rfl
theorem Low.translate {s : State} (h : Low s) {va : DWord} {acc : Access} (hv : va.toNat < 2 ^ 30)
    (a : acc = .load ∨ acc = .store) : Machine.translate s 0 va acc = .ok va.toNat := by
  have p : leaf0.page = 0 := by decide
  have m : va.toNat % 2 ^ leaf0.log = va.toNat := Nat.mod_eq_of_lt hv
  have w : inWindowTop va.toNat = false := by
    rw [inWindowTop, decide_eq_false (by unfold windowBase; omega : ¬ windowBase 0 ≤ va.toNat)]; rfl
  have r : (leafReasons (loadMgmt State.reset.mgmt) leaf0 va.toNat acc).find? (·.2) = none := by
    simp only [leafReasons, p, m, Nat.zero_add, phys_low hv, phys_low (a := 0) (by omega), w]
    rcases a with rfl | rfl <;> rfl
  rw [Machine.translate, h.walk hv, h.mgmt]
  simp only [r, p, m, Nat.zero_add]
theorem Low.reads {s : State} (h : Low s) (n : Nat) : ∀ {va : DWord}, va.toNat + n ≤ 2 ^ 30 →
    ∃ x, readVirt s 0 va .load n = .ok x := by
  induction n with
  | zero => exact fun _ => ⟨_, rfl⟩
  | succ n ih =>
    intro va hv
    have e : (va + 1).toNat = va.toNat + 1 := by
      have o : (1 : DWord).toNat = 1 := rfl
      rw [BitVec.toNat_add, o]; exact Nat.mod_eq_of_lt (by omega)
    obtain ⟨x, hx⟩ := ih (va := va + 1) (by omega)
    rw [readVirt, h.translate (by omega) (.inl rfl)]
    simp only [hx]
    split <;> exact ⟨_, rfl⟩
theorem Low.writes {s : State} (h : Low s) (n : Nat) : ∀ {va : DWord} (v : Nat), va.toNat + n ≤ 2 ^ 30 →
    ∃ t, writeVirt s 0 va .store n v = .ok t := by
  induction n with
  | zero => exact fun _ _ => ⟨_, rfl⟩
  | succ n ih =>
    intro va v hv
    have e : (va + 1).toNat = va.toNat + 1 := by
      have o : (1 : DWord).toNat = 1 := rfl
      rw [BitVec.toNat_add, o]; exact Nat.mod_eq_of_lt (by omega)
    obtain ⟨t, ht⟩ := ih (va := va + 1) (v / 256) (by omega)
    rw [writeVirt, h.translate (by omega) (.inr rfl)]
    simp only [ht]
    split <;> exact ⟨_, rfl⟩
/-- A write above the tables leaves them. -/
theorem Low.above {s t : State} (h : Low s) (m : t.mgmt = s.mgmt) (x : t.host = s.host) (l : t.tlb = s.tlb)
    (b : ∀ a < 0x4000, byteAt t.mem a = byteAt s.mem a) : Low t :=
  have e : ∀ a, a + 8 ≤ 0x4000 → bytesAt t.mem a 8 = bytesAt s.mem a 8 := fun a ha =>
    bytesAt_congr 8 fun i hi => b _ (by omega)
  ⟨m.trans h.mgmt, by rw [x]; exact h.space, l.trans h.tlb, by rw [e _ (by omega)]; exact h.top,
    by rw [e _ (by omega)]; exact h.mid, by rw [e _ (by omega)]; exact h.leaf⟩

/-! ## Attention and matrix instructions -/

/-- Two threads whose v3 names tokens, with the slab record bound to k15. -/
def stS (t0 t1 : Word) : State :=
  mapped (two { v := [(3, t0)] } { v := [(3, t1)] } 0) (fun b => { b with k := [(15, 0x210000)] })
    [(0x210000, 64, slabRec 5 0)]
/-- Tokens 0 and 255: pages of 6 × 16 + 64 × 16 bytes, rounded up to 1152; the last row of the last page (R323). -/
theorem test_slxl : after (.slxl 8 0 3 15) (stS 0 255) (fun t => ((t.thread 0).pair 8, (t.thread 1).pair 8)) =
    some (0x220000 + 96, 0x220000 + 3 * 1152 + 96 + 63 * 16) := by decide +kernel

/-- The Lectern stands at a SLAPP or SLGROW that both threads have passed. -/
def stA (kind : CmdKind) (len : Nat) (n : DWord) : State :=
  let e : DqEntry := { addr := 0, next := 4, wq := some (2, none) }
  let c : Cmd := { kind := kind, state := .sync, word := 0, pc := 0, pos := 0, slab := 0x210000, d0 := n }
  stQ (slabRec len 0) fun b => { b with dq := [e], cmds := [c], lect := { b.lect with wait := .entry 0 } }
/-- A relocation at its first, or last, chunk of 2^8 old tokens. -/
def stR (chunk : Nat) (locked : Bool) : State :=
  { stQ (slabRec 256 (0x240000 * 2 ^ 64 + 8 * 2 ^ 264 + 2 ^ 273)) id with
    relocs := [{ core := 0, asid := 0, record := 0x210000, chunk := chunk, locked := locked }] }
/-- LEN 250 takes 6 tokens and not 7. -/
theorem test_slapp : after (.syncCommandStart 0) (stA .slapp 250 6) (fun t => tabGetD t.lect.q 2 0) = some 250 ∧
    after (.syncCommandStart 0) (stA .slapp 250 7) (fun t => tabGetD t.lect.q 2 0) = some 0xFFFFFFFFFFFFFFFF := by
  decide +kernel
theorem test_slgrow : after (.syncCommandStart 0) (stA .slgrow 5 0x210040) (fun t =>
    (tabGetD t.lect.q 2 1, t.relocs.length)) = some (0, 1) := by decide +kernel
theorem test_chunk : after (.slabChunkMove 0) (stR 3 false) (fun t => t.relocs.map (·.locked)) = some [true] := by decide +kernel

def isOk {ε α : Type} : Except ε α → Bool
  | .ok _ => true
  | .error _ => false

theorem one_piece_moves {s t : State} {o n : DWord} {len x : Nat} (r : readVirt s 0 o .load len = .ok x)
    (w : writeVirt s 0 n .store len x = .ok t) : isOk (movePieces 0 [(o, n, len)] s) = true := by
  rw [movePieces, r]
  simp only [writeMarked, w, movePieces, isOk]
/-- The last chunk of the relocation is one page, which moves without a fault. -/
theorem chunk_moves : isOk (movePieces 0 (chunkPieces (slabRec 256 (0x240000 * 2 ^ 64 + 8 * 2 ^ 264 + 2 ^ 273)) 3) (stR 3 true)) = true := by
  have l : Low (stR 3 true) := ⟨rfl, rfl, rfl, by decide +kernel, by decide +kernel, by decide +kernel⟩
  have c : chunkPieces (slabRec 256 (0x240000 * 2 ^ 64 + 8 * 2 ^ 264 + 2 ^ 273)) 3 = [(0x240D80, 0x220D80, 1152)] := by
    decide +kernel
  obtain ⟨x, hx⟩ := l.reads 1152 (va := 0x240D80) (by decide)
  obtain ⟨t, ht⟩ := l.writes 1152 (va := 0x220D80) x (by decide)
  rw [c]
  exact one_piece_moves hx ht
theorem witness_Slabs :
    ((stS 0 255).block 0).kView 0 15 = some 0x210000 ∧
    (match readSlab (stS 0 255) 0 0x210000 with
      | .ok r => r == slabRec 5 0 && (Slab.bad r).isNone && Slab.paged r && (Slab.slot r 0 == some 0) &&
          (Slab.slot r 255 == some 255) && (Slab.baseFor r 255 == some 0x220000)
      | .error _ => false) = true ∧
    (syncReady (stA .slapp 250 6) 0).map (·.kind) = some .slapp ∧ (stA .slapp 250 6).weak = [] ∧
    (syncReady (stA .slgrow 5 0x210040) 0).map (·.kind) = some .slgrow ∧
    isOk (writeVirt (stA .slapp 250 6) 0 0x210000 .store 64 (putBits (slabRec 250 0) 128 64 256)) = true ∧
    isOk (readClean (stA .slgrow 5 0x210040) 0 0x210040 .load 4) = true ∧
    Claim.growStatus (slabRec 5 0) 1 (2 ^ 20) = 0 ∧ Claim.growStatus (slabRec 5 0) 0 (2 ^ 20) = 4 ∧
    isOk (writeVirt (stR 0 false) 0 0x210000 .store 64 (putBits (slabRec 256 0) 224 32 0)) = true ∧
    (match readSlab (stR 0 false) 0 0x40000000 with | .ok _ => false | .error _ => true) = true := by decide +kernel

/-- An SBSEND of the next rank, whose partial has one row of 16. -/
def stZ (side : Channel) : State :=
  let c : Cmd := { kind := .sbsend, state := .ready, word := 0, pc := 0, pos := 0, dst := 0, d0 := 0x00100001 }
  let s := stQ 0 fun b => { b with rank := side.nextRank, cmds := [c], tiles := [(0, { state := .ready, len := 1 })] }
  { s with clusters := [(clKey 0 0, { channel := some side })] }
theorem witness_SoftmaxAndSideboard : Claim.StateRegs st7 92 94 2 ∧ Claim.StateRegs st7 95 92 1 ∧
    (foldNext (stZ { nextRank := 2 }) 0 1).isNone = true ∧
    (∀ ch ∈ [({} : Channel), { nextRank := 1, nr := 1, dv := 16 }, { nextRank := 1, nr := 2, dv := 16 }],
      (tabGetD (stZ ch).clusters (clKey 0 0) {}).channel = some ch ∧ ch.mismatch = none ∧
      (stZ ch).blockOfRank 0 0 ch.nextRank = some 0 ∧ (openSend ((stZ ch).block 0)).isSome ∧
      sideShape 0x00100001 = some (1, 16)) := by
  simp only [Claim.StateRegs]; decide +kernel

/-- Tile 63 in the vault holds the B operand; D is v32 to v95, A is v0 to v15. -/
def stT : State :=
  let h : HintGroup := { start := 0, lit := some 0x7E0 }
  let s := two { v := regs0, hints := some h } { v := regs1, hints := some h } 0
  let g : Grid := { grid0 with tensors := tens }
  let s1 := mapped s (fun b => { b with tiles := [(63, { state := .ready, vault := true, len := 4 })] })
    [(0x210000, 32, 0xA0 + 0x42 * 2 ^ 8 + 0x7E0 * 2 ^ 64 + 2 ^ 88)]
  { s1 with grids := [(0, g)], blocks := s1.blocks.map fun e => (e.1, { e.2 with q := [(2, 0x210000)] }) }
/-- A Lectern and the continuation block of an MMAT of its rank. -/
def stW : State :=
  let s := stQ (0xA4 + 102 * 2 ^ 24) id
  { s with issue := { agent := .lectern } }
theorem mma_ready : Claim.MmaReady stT :=
  ⟨by decide, rfl, by decide, by decide +kernel, rfl, rfl, by decide⟩
theorem witness_MatrixIssueAndSums : Runs stT .base ∧ Claim.RangesOk stT 0 1 2 ∧ Claim.RangesOk stT 0 1 1 ∧
    Claim.MmaLit stT 1 ∧ tensorAt stT 0 0 = some tens[0] ∧
    mmaCheck stT 0 (stT.liveOf 0) (mmaOp 0xA0 0 0 1 0 0 0 0 2 stT 0) = .pass ∧
    (let s := { stT with issue := { stT.issue with members := [0] } }
     ∀ k ∈ s.issue.members, grpOf k ∉ wholeGroups s) ∧
    (match readVirt stT 0 0x210000 .load 32 with
      | .ok v => (classOf (contOf v).1.opc.toNat).onDie 0 && !mmaContBad (contOf v).2 (contOf v).1 &&
          (mmaContReason stT 0 (contOf v).1).isNone && mmaCheck stT 0 (stT.liveOf 0) (mmaOfCont (contOf v).1) == .pass
      | .error _ => false) = true ∧
    (match readVirt stW 0 0x210000 .load 32 with
      | .ok v => (classOf (contOf v).1.opc.toNat).onDie 0 && !mmatContBad stW 0 (contOf v).2 (contOf v).1 && stW.weak == []
      | .error _ => false) = true :=
  ⟨⟨rfl, by decide, by decide⟩, by simp only [Claim.RangesOk]; decide, by simp only [Claim.RangesOk]; decide,
    ⟨fun _ => by decide, fun l h => by
      have e : l = 0x7E0 := by
        have h2 : stT.lead.lit = some 0x7E0 := rfl
        rw [h2] at h; exact (Option.some.inj h).symm
      subst e; decide⟩, by decide +kernel, by decide +kernel, by decide +kernel, by decide +kernel, by decide +kernel⟩
/-- An MMA in flight that lands a register in lane 1 and releases v0 to v31. -/
def stI : State :=
  let c : Cont := { opc := 0xA0, fbyte := 0, tid := 0, xbyte := 0, nextkb := 0 }
  let r : MmaRun := { dreg := 32, areg := 0, anum := 32, lastA := true, cont := c
                      stages := [([{ lane := 1, reg := 95, wide := false, value := 9 }], true)] }
  { st7 with groups := [(0, { mma := some r })] }
/-- R454, R463: the Lectern's read of a granule corrects its error. -/
theorem test_engine_read_corrects : (meets { stW with weak := [0x210000] } 0 .load [(0x210010, 4)]).weak = [] ∧
    (meets { stW with weak := [0x210020] } 0 .load [(0x210010, 16)]).weak = [0x210020] := by decide +kernel
theorem test_mma_complete : after (.mmaComplete 0) stI (fun t => ((t.group 0).fstat, (t.thread 1).reg 95, (t.thread 1).reg 1)) =
    some (1, 9, 0) := by decide +kernel
theorem witness_MatrixCompletion : ((stI.group 0).mma).isSome ∧ (st7.group 0).mma = none ∧
    (tabGet stI.threads 1).isSome ∧ grpOf 1 = 0 := by decide

/-! ## Engines and completions -/

/-- A command of each kind that both threads have passed, and a tile. -/
def stK (c : Cmd) (t : Tile) : State :=
  stQ 0 fun b => { b with dq := [{ addr := 0, next := 4 }], cmds := [c], tiles := [(63, t)], lect := { b.lect with wait := .entry 0 } }
def cmdOf (kind : CmdKind) (state : CmdState) : Cmd :=
  { kind := kind, state := state, word := 0, pc := 0, pos := 0, dst := 63, counted := [0] }
/-- Every kind that starts as with SYNC; the release empties a tile of shared memory. -/
theorem test_release : after (.syncCommandStart 0) (stK (cmdOf .release .sync) { state := .ready, len := 2 })
    (fun t => ((t.tile 0 63).state, t.lect.wait)) = some (.empty, .none) := by decide +kernel
/-- A fill of the two rows of t0 from 0x200000. -/
theorem test_fill : after (.tileFillLanded 0 63) { stK (cmdOf .fill .ready) { state := .filling, len := 1 } with
    mem := bytesSet (stK (cmdOf .fill .ready) {}).mem 0x200020 4 0xABCD } (fun t =>
      ((t.tile 0 63).state, bytesAt (t.block 0).shared 32 4)) = some (.ready, 0xABCD) := by decide +kernel

/-- A COPY from t0 to itself, whole, and at an address that no page maps. -/
def copyCmd (d : DWord) : Cmd := { cmdOf .copy .ready with dst := 0, d0 := d }
def isDone : Carry → Bool
  | .done _ _ => true
  | _ => false
def isFault : Carry → Bool
  | .fault _ _ _ _ _ => true
  | _ => false
theorem witness_engines :
    (∀ k ∈ [CmdKind.copy, .copym, .mcast, .mmat, .kvpk, .kvunp, .psel, .sbsend, .sbmrg, .drain, .slset, .release, .slapp, .slgrow],
      (syncReady (stK (cmdOf k .sync) { state := .ready, len := 2 }) 0).map (·.kind) = some k) ∧
    (∀ e ∈ [(CmdKind.fill, TileState.filling), (.drain, .draining)],
      (tileMove (stK (cmdOf e.1 .ready) { state := e.2, len := 1 }) 0 63 e.1).map (·.kind) = some e.1 ∧
      isDone (carryCmd (stK (cmdOf e.1 .ready) { state := e.2, len := 1 }) 0 (cmdOf e.1 .ready)) = true) ∧
    (stK (cmdOf .fill .ready) { state := .filling, len := 1 }).weak = [] ∧
    (∀ i < 2, isOk (readSegs (stK (cmdOf .fill .ready) {}) 0 ((tens.headD {}).segs 0 i)) = true) := by decide +kernel
theorem witness_copies :
    isDone (carryCmd (stK (copyCmd 0) {}) 0 (copyCmd 0)) = true ∧
    isFault (carryCmd (stK (copyCmd 0x40000000) {}) 0 (copyCmd 0x40000000)) = true ∧
    (nextMove (stK (copyCmd 0) {}) 0).map (·.kind) = some .copy ∧
    nextMove (stK (cmdOf .copy .moved) {}) 0 = none ∧
    (tabGet (stK (copyCmd 0) {}).groups 0).isSome ∧ ((stK (copyCmd 0) {}).core 0).hats = [] ∧
    (mmatNext (stK (cmdOf .mmat .ready) {}) 0).map (·.kind) = some .mmat ∧
    (mmatRunning (stK (cmdOf .mmat .moved) {}) 0).map (·.kind) = some .mmat ∧
    (stK (cmdOf .mmat .moved) {}).poison = [] ∧ (stK (cmdOf .mmat .moved) {}).weak = [] := by decide +kernel

/-- Two threads at the entry of a command that their group has not counted. -/
def stG (matrix : Bool) : State :=
  let e : DqEntry := { addr := 0, next := 4, kind := if matrix then .matrix else .copy }
  let c : Cmd := { kind := .mcast, state := .ready, word := 0, pc := 0, pos := 0, matrix := matrix }
  let s := mapped (two {} {} 0) (fun b => { b with dq := [e], cmds := [c] }) []
  { s with groups := [(0, { nCopy := 62, nMatrix := 62 })] }
theorem test_counts : after (.mcast 0 102 0 63) (stG false) (fun t => ((t.group 0).nCopy, (t.group 0).nMatrix)) =
    some (63, 62) := by decide +kernel
/-- A load and an atomic on their way, a bad load, and a Hatstand entry with one write left. -/
def stD (bad : Option Nat) : State :=
  let l : Landing := { lane := 1, reg := 95, wide := false, value := 5 }
  { st7 with groups := [(0, { loads := [[l]], atomics := [[l]], bad := bad, nGather := 1 })] }
theorem test_landing : after (.loadComplete 0 0) (stD none) (fun t => ((t.thread 1).reg 95, (t.group 0).loads.length)) =
    some (5, 0) ∧ after (.atomicComplete 0 0) (stD none) (fun t => (t.thread 1).reg 95) = some 5 ∧
    after (.loadComplete 0 0) (stD (some 0x2000)) (fun t => (t.grid 0).stage) = some .killed := by decide +kernel
def stH : State :=
  { stD none with cores := [(0, { hats := [{ ctx := 1, slot := 0, copy := 0, matrix := 0, gather := 1, nbank := 0 }] })] }
/-- A 2 × 32 by 32 × 16 product of bytes, with its operands in tiles 1 and 2 and its result in tile 3. -/
def stV (state : CmdState) : State :=
  let t : List Tensor := [tens.headD {}, { etype := 1, ndim := 2, ext := [16, 32], stride := [1, 16] }]
  let c : Cmd := { cmdOf .mmat state with
    src := 0xA4, dst := 1, d0 := 0x00030201, d1 := 1, matrix := true }
  let vault : Tile := { state := .ready, vault := true, len := 4 }
  let s := stK c {}
  { s with grids := s.grids.map fun e => (e.1, { e.2 with tensors := t })
           blocks := s.blocks.map fun e => (e.1, { e.2 with tiles := [(1, vault), (2, vault), (3, vault)] }) }
theorem witness_CommandStartsAndCompletions :
    (∀ m ∈ [false, true], (stG m).inHandler = false ∧ ((stG m).block 0).cmds.find? (fun d => d.pos == 0) ≠ none ∧
      ∀ k ∈ (stG m).issue.members, ((stG m).thread k).upos = 0 ∧ ((stG m).group (grpOf k)).nCopy < 63 ∧
        (entryOf (stG m) k).map (·.kind) = some (if m then .matrix else .copy)) ∧
    Claim.XOk 102 false ∧ ((stD none).group 0).loads[0]?.isSome ∧ ((stD none).group 0).loads[1]? = none ∧
    ((stD none).core 0).hats = [] ∧ (stH.core 0).hats.map (fun h => (h.slot, h.gather)) = [(0, 1)] ∧
    (match mmatNext (stV .ready) 0 with | some c => mmatCheck (stV .ready) 0 c.mmatOp == .pass | none => false) = true ∧
    (mmatRunning (stV .moved) 0).isSome := by
  simp only [Claim.XOk]; decide +kernel

/-! ## Near-bank units -/

/-- A page of 2 MiB at 0 with the CC and PIN bits, the bank owner's address space, and addresses in v6. -/
def stNB (queue : List BankCmd) : State :=
  let s := mapped (two { v := [(2, 7), (6, 0x200000)] } { v := [(2, 9), (6, 0x200400)] } 0) id
    [(0x3000, 8, 0x4001), (0x4008, 8, 0x2000AF)]
  { s with host := { s.host with nbown := (List.range 768).map fun i => (i, (0, true)) }
           banks := if queue.isEmpty then [] else [(0, { queue := queue })] }
/-- Both lanes' command goes to the bank of its granule, oldest lane first. -/
theorem test_nbldw : after (.nbldw 7 6) (stNB []) (fun t => ((t.bank 0).queue.length, (t.bank 1).queue.map (·.op),
    (t.group 0).nBank)) = some (1, [.ldw 7 0x200400], 1) := by decide +kernel
def macCmd : BankCmd := { op := .mac 7 0 0x200000 none true, bf := true, grp := 0, tag := 0 }
/-- NBRD of a cleared accumulator over a word of memory. -/
theorem test_nbrd : after (.bankCommandExecute 0) { stNB [{ macCmd with op := .rd 7 0x200000 .low false }] with
    mem := bytesSet (stNB []).mem 0x200000 4 5 } (fun t => bytesAt t.mem 0x200000 4) = some 0 := by decide +kernel
theorem witness_NearBankCommands :
    (∀ f ∈ [({} : BankForm), { run := 32 }, { run := 32, scalar := true }, { run := 16, writes := true }],
      bankTrap (stNB []) f ((stNB []).dword 6) = none ∧ ∀ k ∈ (stNB []).enabled,
        (bankWalk (stNB []) k f ((stNB []).dword 6 k)).toOption = some (0x200000 + 0x400 * k)) ∧
    SrcOk (stNB []) 6 true ∧ (88 : BitVec 7).toNat + 8 ≤ (stNB []).regMax ∧
    (∀ k ∈ (stNB []).enabled, ((stNB []).group (grpOf k)).nBank < 63 ∧ ((stNB []).thread k).fence = none) ∧
    bankTrap (stNB []) { shape := false } ((stNB []).dword 6) = none ∧
    (∃ k ∈ (stNB [macCmd]).enabled, ∃ b ∈ fenceBanks (stNB [macCmd]) k 0 ((stNB [macCmd]).dword 6 k),
      ∃ c ∈ ((stNB [macCmd]).bank b).queue, c.tag < ({ stNB [macCmd] with fresh := 1 } : State).fresh) ∧
    memoryWf (stNB []).mem ∧ 767 < 768 := by
  refine ⟨by decide +kernel, ⟨by decide, by decide, by decide, by decide, by decide, by decide⟩, by decide, by decide +kernel,
    by decide +kernel, by decide +kernel, by decide +kernel, by decide⟩

/-! ## Traps -/

/-- A group with a trap area of 16 records at 0x200000 whose counts are given, and a handler at 0x3000. -/
def stX (head ack : Nat) (area : DWord) : State :=
  let l : Launch := { loadLaunch with blkX := 2, trapH := 0x3000, trapArea := area }
  let g : Grid := { grid0 with launch := l }
  let s := mapped (two { pc := 8, rentry := 4 } { pc := 8, rentry := 8 } 0) id [(0x200000, 8, head), (0x200008, 8, ack)]
  { s with grids := [(0, g)] }
/-- A record of group 0, with its number. -/
def rec0 (res inHandler : Bool) (seq : Option Nat) : Rec :=
  { code := 0x0011, resumable := res, host := false, die := 0, core := 0, slot := 0, gid := 0, grpNum := 0, blkNum := 0
    cluster := 0xFFFFFFFF, jobId := 0, lanes := 1, pc := 8, rentry := 4, rcount := 0, addr := 2, info := [0, 4]
    block := false, seq := seq, raw := 0, inHandler := inHandler }

theorem ok_of {ε α : Type} [DecidableEq α] {e : Except ε α} {a : α}
    (h : (match e with | .ok b => decide (b = a) | .error _ => false) = true) : e = .ok a := by
  cases e with
  | ok b => exact congrArg _ (of_decide_eq_true h)
  | error _ => cases h
theorem ok_ok {ε α β : Type} {e : Except ε α} {f : α → Except ε β}
    (h : (match e with | .ok a => isOk (f a) | .error _ => false) = true) : ∃ b a, e = .ok a ∧ f a = .ok b := by
  cases e with
  | ok a =>
    cases h2 : f a with
    | ok b => exact ⟨b, a, rfl, h2⟩
    | error x => simp [h2, isOk] at h
  | error _ => cases h
theorem area_takes : ∃ after, Claim.AreaTakes (stX 15 0 0x200000)
    (Claim.groupRec (stX 15 0 0x200000) 0 [0] 0x11 true 8 2 [0, 4]) 15 0 after := by
  obtain ⟨after, s1, h⟩ := ok_ok (e := writeVirt (stX 15 0 0x200000) 0 (0x200000 + 64 + 128 * 15) .store 128
    ((Claim.groupRec (stX 15 0 0x200000) 0 [0] 0x11 true 8 2 [0, 4]).bytes 15))
    (f := fun s => writeVirt s 0 0x200000 .store 8 16) (by decide +kernel)
  exact ⟨after, by decide +kernel, ⟨rfl, rfl⟩, ok_of (by decide +kernel), ok_of (by decide +kernel), by decide +kernel, s1, h⟩
/-- The last of 16 records is written; an area with 16 records without an acknowledgement is full; an area that no page maps
is lost. -/
theorem witness_TakingAGroupTrap : Claim.Still (stX 15 0 0x200000) 0 ∧ (∀ k ∈ [0], k ∈ (stX 15 0 0x200000).liveOf 0) ∧
    (∃ after, Claim.AreaTakes (stX 15 0 0x200000) (Claim.groupRec (stX 15 0 0x200000) 0 [0] 0x11 true 8 2 [0, 4]) 15 0 after) ∧
    (Claim.groupRec (stX 15 0 0x200000) 0 [0] 0x11 true 8 2 [0, 4]).host = false ∧
    readVirt (stX 16 0 0x200000) 0 0x200000 .load 8 = .ok 16 ∧ 16 ≤ (16 + 2 ^ 64 - 0) % 2 ^ 64 ∧
    isOk (readVirt (stX 0 0 0x40000000) 0 0x40000008 .load 8) = false :=
  ⟨by simp only [Claim.Still]; decide, by decide +kernel, area_takes, by decide +kernel, ok_of (by decide +kernel), by decide,
    by decide +kernel⟩
theorem test_group_trap : let t := groupTrap (stX 15 0 0x200000) 0 [0] 0x11 true 8 2 [0, 4]
    (t.thread 0).restart = true ∧ (t.thread 1).restart = false ∧ bytesAt t.mem 0x200000 8 = 16 ∧
      bytesAt t.mem (0x200000 + 64 + 128 * 15) 2 = 0x11 := by decide +kernel
theorem witness_TrapsOfWords : Runs st7 .base ∧ st7.inHandler = false ∧ st7.enabled ≠ [] ∧
    (two { span := some ⟨1, false⟩ } { span := some ⟨1, false⟩ } 0).enabled = [] ∧ st7.issue.members ≠ [] ∧
    assignedOpcode 0xF0 = false ∧ assignedOpcode 0x02 = true ∧ handlerOpcode 0x02 = false ∧ badOperandField 0x02600102 = false ∧
    (classOf 0x02).onDie (Config.dieOfCore (coreOfG st7.leadGroup)) = true ∧ stL.issue.agent = .lectern ∧
    (tabGet stL.blocks stL.issueBlock).isSome ∧ uniformOpcode 0x49 = true ∧ uniformOpcode 0x02 = false :=
  ⟨runs_base, by decide, by decide, by decide, by decide, rfl, rfl, rfl, by decide, by decide, rfl, rfl, by decide, by decide⟩

/-- The handler context of core 0 works on the record of group 0; its selectors name lane 1 and register 95. -/
def stHd : State :=
  let s := stX 1 0 0x200000
  { s with
    groups := s.groups ++ [(64, { blk := 0 })]
    threads := s.threads ++ [(2048, { v := [(1, 0x15F), (2, 77)] })]
    records := [rec0 true true (some 0)]
    cores := [(0, { handling := true })]
    issue := { agent := .threads, core := 0, ctx := 0, members := [2048] } }
theorem test_trwr : after (.trwr 2 1 1) stHd (fun t => (t.thread 1).reg 95) = some 77 := by decide +kernel
/-- After TRET.resume thread 0 stands at its region entry. -/
theorem test_tret : after .tretResume { stHd with threads := [(0, { pc := 8, rentry := 4, restart := true }), (2048, {})] }
    (fun t => ((t.thread 0).pc, t.records.length)) = some (4, 0) := by decide +kernel
theorem witness_Handlers : Claim.Handles stHd 0 (rec0 true true (some 0)) ∧ SrcOk stHd 1 false ∧ DstOk stHd 15 0 false ∧
    stHd.enabled = [2048] ∧ (rec0 true true none).slot < 64 ∧ (stHd.group 64).nGather = 0 ∧ (stHd.group 64).atomics = [] ∧
    handlerQueue { stX 1 0 0x200000 with records := [rec0 true false (some 0)] } 0 = [rec0 true false (some 0)] ∧
    ((stX 1 0 0x200000).core 0).handling = false :=
  ⟨⟨⟨rfl, by decide, by decide⟩, by decide, by decide, by decide, rfl, rfl, by decide +kernel⟩,
    ⟨by decide, by decide, by decide, by decide, by decide, by decide⟩, ⟨by decide, by decide, by decide, by decide⟩, by decide, by decide,
    by decide, by decide, by decide +kernel, by decide⟩
/-- One record of group 0, resumable or not; TRACT of die 0 names it by its area and number 1, and of die 1 none. -/
def stAn (res : Bool) : State :=
  let s := stX 1 0 0x200000
  { s with records := [rec0 res false (some 0)], host := { s.host with tract := [(0, { area := 0x200000, seq := 1 })] } }
/-- One pending record and room for it. -/
def stP : State := { stX 15 0 0x200000 with records := [rec0 true false none] }
theorem witness_AnswersToTraps : (∀ res ∈ [true, false], (stAn res).records = [rec0 res false (some 0)] ∧
      (rec0 res false (some 0)).groups (stAn res) = [0] ∧ ((stAn res).liveOf 0).Nodup ∧
      (rec0 res false (some 0)).resumable = res ∧ (blockOfRec (stAn res) (rec0 res false (some 0))).isSome ∧
      ((stAn res).grid 0).launch.trapArea = (tabGetD (stAn res).host.tract 0 {}).area) ∧
    pendingOf stP (0, 0x200000) = [rec0 true false none] ∧ (rec0 true false none).host = false ∧
    (match writeVirt stP 0 (0x200000 + 64 + 128 * 15) .store 128 ((rec0 true false none).bytes 15) with
      | .ok s => isOk (writeVirt s 0 0x200000 .store 8 16) | .error _ => false) = true ∧
    (stAn true).records[0]? = some (rec0 true false (some 0)) ∧ pendingOf (stAn true) (0, 0x200000) = [] := by decide +kernel

/-! ## The host's side -/

/-- A record of 256 bytes whose grid of one block runs on die 0, its body at 0x100000. -/
def rawRecord (version : Nat) : Nat :=
  version + 2 ^ 32 + 0x100000 * 2 ^ 64 + (1 + 2 ^ 32 + 2 ^ 64) * 2 ^ 256 + (1 + 2 ^ 16) * 2 ^ 352 + 2 ^ 384 + 2 ^ 416 +
    96 * 2 ^ 424 + 0x200000 * 2 ^ 896 + 2 ^ 960
/-- Queue 15 of die 7 and a local queue of core 0 hold the record at 0x50000. -/
def stY (version : Nat) : State :=
  let s := mapped (two {} {} 0) id
    [(0x40000, 8, 0x50000), (0x50000, 256, rawRecord version), (0x100000, 1, Config.genOf 0)]
  { s with grids := [], queues := [(64 * 7 + 15, { base := 0x40000, size := 4, en := true, tail := 1 })]
           cores := [(0, { queue := { cards := [{ addr := 0x50000, asid := 0, poster := 0 }] } })] }
theorem test_take : after (.queueEntryTake 7 15) (stY 1) (fun t => ((t.queue 7 15).cur, (t.grid 1).launch.regMax)) =
    some (some 1, 96) ∧ after (.queueEntryTake 7 15) (stY 2) (fun t => ((t.queue 7 15).cur, (t.queue 7 15).head)) =
    some (none, 1) := by decide +kernel
theorem witness_Queues : takeDue (stY 1) 7 15 = true ∧ takeDue (stY 1) 7 63 = false ∧
    readRecord (stY 1) 0 0x50000 = some (rawRecord 1) ∧ allFails (stY 1) 0 (.die 7 15) (rawRecord 1) = [] ∧
    (launchOf (rawRecord 1)).waitAddr = 0 ∧ allFails (stY 2) 0 (.die 7 15) (rawRecord 2) = [0] ∧
    readRecord (stY 1) 0 0x50001 = none ∧ headFresh (stY 1) ((stY 1).queue 7 15) = true ∧
    headFresh { stY 1 with grids := [(0, grid0)] } { cur := some 0 } = false ∧ coreServes (stY 1) 0 = true ∧
    ((stY 1).core 0).queue.cur = none ∧ allFails (stY 1) 0 (.core 0) (rawRecord 1) = [] ∧
    allFails (stY 2) 0 (.core 0) (rawRecord 2) = [0] ∧ ({ grid0 with stage := .waiting } : Grid).stage = .waiting ∧
    isOk (readVirt (stY 1) 0 0x40000 .load 8) = true ∧ isOk (readVirt (stY 1) 0 0x40000000 .load 8) = false := by
  decide +kernel

theorem test_qbase : after (.registerWrite 0x1000000 4 0xFFFFFFFF) (stY 1) (fun t => regRead t 0x1000000) =
    some 0xFFFFF000 := by decide +kernel
theorem witness_HostRegistersAndAperture : (stY 1).mgmt.devState ≠ .failed ∧ (stY 1).mgmt.legal = true ∧
    Claim.plainBits 0x1700FC0 = some 0xFFFFF000 ∧ Claim.plainBits 0xB00104 = some 0x000FFFFF ∧
    ({ stY 1 with mgmt := { (stY 1).mgmt with devState := .failed } } : State).mgmt.devState = .failed ∧
    apertureReaches (stY 1) 0xFFFFFFF8 8 = false ∧ apertureReaches (stY 1) 0 8 = true ∧ 0xFFFFFFF8 + 8 ≤ 2 ^ 32 ∧
    apertureReaches { stY 1 with host := { (stY 1).host with apBase := 0 } } 0xFFFFFFF8 8 = true ∧
    apertureReaches { stY 1 with host := { (stY 1).host with apBase := 0xC0 } } 0 8 = false ∧ (stY 1).poison = [] ∧
    memoryWf (stY 1).mem := by decide +kernel
theorem witness_CeilingsAndInterrupts : (stY 1).mgmt.legal = true := by decide +kernel
/-- A page that the tables map and no cache holds, an address that they do not map, a translation that only the die's cache holds,
and a running invalidation, with and without a bank command of its address space. -/
theorem witness_TranslationCaches : let s := stY 1
    let e : TlbEntry := { owner := .die 0, asid := 0, va := 0, entry := 0xF, log := 30, slot := 0x3000 }
    let held : State := { s with tlb := [e] }
    let own : State := { s with tlb := [e, { e with owner := .core 39 }] }
    let busy : State := { s with host := { s.host with spaces := [(63, { invGo := true })] } }
    39 < Config.cores ∧ Config.dieOfCore 39 = 0 ∧ heldBy s (.core 39) 0 0x3FFFFFFF = none ∧
    heldBy s (.die 0) 0 0x3FFFFFFF = none ∧ isOk (walkTables s 0 0x3FFFFFFF) = true ∧
    heldBy s (.core 39) 0 0x40000000 = none ∧ isOk (walkTables s 0 0x40000000) = false ∧
    heldBy held (.core 39) 0 0x3FFFFFFF = none ∧ heldBy held (.die 0) 0 0x3FFFFFFF = some e ∧
    (heldBy own (.core 39) 0 0x3FFFFFFF).isSome ∧ (s.space 63).invGo = false ∧ (busy.space 63).invGo = true ∧
    banksHold busy 63 = false ∧
    banksHold { busy with banks := [(0, { queue := [{ op := .clr 7 7, bf := false, grp := 0, tag := 0, asid := 63, hb := [] }] })] } 63 = true := by
  decide +kernel
/-- The page at virtual 0x200000 lies on stack 0, and 200 samples of die 7 ask for another stack. -/
def stPl : State :=
  let s := mapped (two {} {} 0) id [(0x3000, 8, 0x4001), (0x4008, 8, 0x20000F)]
  let m := s.mgmt
  let frames : Stack := { cap := 16, frBase := 0x80000, frCount := 1, frCap := 2 }
  { s with mgmt := { m with hbm := m.hbm.map fun _ => frames
                            placer := { m.placer with en := true, moves := [(0, 0x200000, 11)] } }
           samples := List.replicate 200 (0, 0x200000, 7) }
theorem witness_PagePlacement : placerRuns stPl = true ∧ placerRuns (stY 1) = false ∧ stPl.mgmt.legal = true ∧
    (match walkTables stPl 0 0x200000 with
      | .ok l => movable stPl.mgmt l && l.page / 2 ^ 36 == 0 | .error _ => false) = true ∧
    (stPl.stack 11).frCount ≠ 0 ∧ (stPl.stack 0).frCount < (stPl.stack 0).frCap ∧ stPl.weak = [] ∧
    (moveFor stPl 0 0x200000).isSome ∧ memoryWf stPl.mem ∧ stPl.mgmt.placer.moving = none ∧
    stPl.mgmt.placer.moves = [(0, 0x200000, 11)] ∧ (stY 1).mgmt.placer.moves = [] ∧ (stY 1).mgmt.placer.moving = none ∧
    bytesAt stPl.mem 0x4008 8 = 0x20000F := by decide +kernel
/-- A move of the page at 0x200000, whose entry stands as it was, or has been changed since. -/
theorem witness_PageMoves : ∀ e ∈ [0x20000F, 0x20000D],
    let m : PageMove := { asid := 0, va := 0x200000, entry := e, slot := 0x4008, stack := 11, frame := 0x400000 }
    let s : State := { stPl with mgmt := { stPl.mgmt with placer := { stPl.mgmt.placer with moving := some m } } }
    s.mgmt.placer.moving = some m ∧ s.weak = [] ∧ s.mgmt.legal = true ∧ m.page / 2 ^ 36 < 12 ∧ m.stack < 12 ∧ memoryWf s.mem ∧
      (bytesAt s.mem m.slot 8 = m.entry ↔ e = 0x20000F) := by decide +kernel

/-! ## Placement and completion -/

/-- A head of queue 0 of die 0 whose grid may run on die 0: of blocks, or of clusters of two. -/
def stPc (kind : Nat) (hs : GridHold) (saved : List Saved) : State :=
  let l : Launch := { loadLaunch with
    kind := kind, clSize := 2 * kind, dieMask := 1, blkX := 33, shmem := 0, nTile := 0, gridX := 2, save := 0x300000, saveLen := 0x20000 }
  let g : Grid := { launch := l, stage := .eligible, hold := hs }
  let s := mapped (two {} {} 0) id []
  { s with grids := [(0, g)], blocks := [], groups := [], threads := [], saved := saved
           queues := [(0, { base := 0x40000, size := 4, en := true, tail := 1, cur := some 0 })] }
def placedOn (s : State) : Option (Option Nat × Nat × List Nat) :=
  (nextPlacement s).map fun p => (match p.1 with | .head g => some g | _ => none, p.2)
/-- 33 threads take two slots; thread 32 has a generator state of its own (R74). -/
theorem test_place : after (.blockPlace 0) (stPc 0 .none []) (fun t => ((t.block 0).slots, (t.grid 0).nextBlock,
    (t.thread (tKey 1 0)).gen)) = some ([0, 1], 1, (32 : Word) * 0x9E3779B9 + 0x7F4A7C15) := by decide +kernel
theorem witness_BlockAndClusterPlacement : placedOn (stPc 0 .none []) = some (some 0, 0, [0]) ∧
    placedOn (stPc 1 .none []) = some (some 0, 0, [0, 1]) ∧ ((stPc 0 .none []).grid 0).launch.kind ≠ 1 ∧
    ((stPc 1 .none []).grid 0).launch.kind = 1 ∧ [0, 1].Nodup ∧ headReady (stPc 1 .none []) 0 = true ∧
    (stPc 1 .none []).reservations = [] ∧ ((stPc 1 .none []).grid 0).launch.allows 0 = true ∧
    (∀ e < 8, ((stPc 1 .none []).grid 0).launch.allows e = true → e = 0) := by decide +kernel

/-- Two clusters of grid 0 and 1 wait on die 0. -/
def stRs (stands : Bool) : State :=
  { stPc 1 .none [] with reservations := [{ gid := 0, die := 0, stands := stands }, { gid := 1, die := 0 }] }
theorem witness_Reservations : (∀ r ∈ (stRs false).reservations.filter (fun r => r.die == 0), r.stands = false) ∧
    (stRs false).reservations.filter (fun r => r.die == 0) ≠ [] ∧
    (∃ r ∈ (stRs true).reservations.filter (fun r => r.die == 0), r.stands = true) := by decide +kernel

/-- The grid's last block has ended, and its signal adds 7 to a word. -/
def stF2 (blk : Bool) : State :=
  let l : Launch := { loadLaunch with sigAddr := 0x200000, sigVal := 7, sigOp := 1 }
  let g : Grid := { grid0 with launch := l, done := if blk then 0 else 1 }
  let s := mapped (two {} {} 0) id [(0x200000, 8, 0xFFFFFFFFFFFFFFFF)]
  { s with grids := [(0, g)], groups := [], threads := [], blocks := if blk then s.blocks else [] }
theorem test_signal : after (.gridComplete 0) (stF2 false) (fun t => (bytesAt t.mem 0x200000 8, t.grids.length)) =
    some (6, 0) := by decide +kernel
theorem witness_Completion : blockDone (stF2 true) 0 = true ∧ blockDone st7 0 = false ∧ gridDone (stF2 false) 0 = true ∧
    gridDone (stF2 true) 0 = false ∧ gridDone { stF2 false with grids := [(0, { stage := .killed })] } 0 = true ∧
    isOk (translate (stF2 false) 0 0x200000 .store) = true ∧ memoryWf (stF2 false).mem := by decide +kernel

/-! ## Pre-emption, saves and migrations -/

/-- A grid with job 0, held as given, its block asked for a save, and its threads halted at boundaries. -/
def stPr (hs : GridHold) (saving : Option Saving) (n0 n1 : Word) (halt : Bool) : State :=
  let h := fun n : Word => if halt then Halt.cut (n.setWidth 24) else .none
  let l : Launch := { loadLaunch with blkX := 2, shmem := 0, nTile := 0, save := 0x300000, saveLen := 0x20000 }
  let g : Grid := { grid0 with launch := l, hold := hs }
  let s := mapped (two { steps := n0, halt := h n0 } { steps := n1, halt := h n1 } 0) (fun b => { b with saving := saving }) []
  { s with grids := [(0, g)] }
/-- The thread behind goes on from a cut at 9. -/
theorem test_cut : after (.cutReduction 0) (stPr (.cut none) none 9 8 true) (fun t =>
    ((t.grid 0).hold, (t.thread 0).halt, (t.thread 1).halt)) = some (.cut (some 9), .cut 9, .none) := by decide +kernel
theorem witness_PreemptionCommands :
    (∀ h ∈ [GridHold.none, .hold, .cut none, .cutDone], jobGrid (stPr h none 0 0 false) 0 = some 0 ∧
      ((stPr h none 0 0 false).grid 0).hold = h ∧ (stPr h none 0 0 false).host.prectl.go = false) ∧
    jobGrid { stPr .none none 0 0 false with grids := [] } 0 = none ∧ (stPr .none none 0 0 false).host.prectl.job = 0 := by
  decide +kernel
theorem witness_DeadlinesAndCuts :
    (∀ v ∈ [({ kind := 0 } : Saving), { kind := 4, late := 1 }], 0 ∈ (stPr .none (some v) 0 0 false).blocksOf 0 ∧
      ((stPr .none (some v) 0 0 false).block 0).saving = some v) ∧
    (∀ k ∈ gridThreads (stPr (.cut none) none 9 8 true) 0, cutStopped (stPr (.cut none) none 9 8 true) k = true) ∧
    (∃ k ∈ gridThreads (stPr (.cut none) none 9 8 false) 0, cutStopped (stPr (.cut none) none 9 8 false) k = false) ∧
    cutSettled (stPr (.cut (some 9)) none 9 9 true) 0 9 = true ∧
    cutSettled (stPr (.cut (some 9)) none 9 8 true) 0 9 = false := by decide +kernel

/-- Both threads stand still before their next word, for a save of kind 1; the area has slots or none. -/
def stSv (len : Nat) : State :=
  let s := stPr .none (some { kind := 1 }) 0 0 false
  { s with threads := s.threads.map fun e => (e.1, { e.2 with halt := .full })
           grids := s.grids.map fun e => (e.1, { e.2 with launch := { e.2.launch with saveLen := len } }) }
/-- The block leaves its core and stands in the list of saved blocks. -/
theorem test_save : (let s := stSv 0x20000
    let t := finishSave s [(0, savedOf s 0 0 { kind := 1 } [] [])] 1
    (t.blocks.length, t.threads.length, t.saved.map (·.slot))) = (0, 0, [0]) := by decide +kernel
theorem test_no_slot : after (.saveImageWrite 0) (stSv 0) (fun t => (t.blocks.length, t.saved.length)) = some (1, 0) := by
  decide +kernel

theorem low_save (len : Nat) : Low (stSv len) := 
  ⟨rfl, rfl, rfl, (by decide +kernel : bytesAt (stSv 0).mem 0x1000 8 = _), (by decide +kernel : bytesAt (stSv 0).mem 0x2000 8 = _),
    (by decide +kernel : bytesAt (stSv 0).mem 0x3000 8 = _)⟩

/-- A saved block of the grid, with an image at its slot that names die 0, or a save area that no page maps. -/
def saved0 (grown : Nat) : Saved :=
  { gid := 0, num := 0, cluster := none, rank := 0, slot := 0, die := 0, kind := 1, held := false, grown := grown }
def stRe (grown : Nat) (save : DWord) (image : Bytes → Bytes) : State :=
  let s := stPc 0 .none [saved0 grown]
  { s with mem := image s.mem
           grids := s.grids.map fun e => (e.1, { e.2 with launch := { e.2.launch with save := save, regBase := 32 }, nextBlock := 2 }) }
/-- An image that names die 0: its stepping is a free value. -/
def image0 (m : Bytes) : Bytes := bytesSet m 0x301008 16 (dgdescOf 0)
/-- The same with all 96 registers of its first group. -/
def image1 (m : Bytes) : Bytes := bytesSet (image0 m) (0x301000 + ((stRe 0 0x300000 id).grid 0).launch.grpAt 0 + 8) 12 (2 ^ 96 - 1)
theorem tables_wf : bytesWf (stPc 0 .none []).mem = true := by decide +kernel
theorem low_re (n : Nat) (image : Bytes → Bytes) (i : ∀ a < 0x4000, byteAt (image (stPc 0 .none []).mem) a =
    byteAt (stPc 0 .none []).mem a) : Low (stRe n 0x300000 image) :=
  have base : Low (stPc 0 .none []) := ⟨rfl, rfl, rfl, by decide +kernel, by decide +kernel, by decide +kernel⟩
  base.above rfl rfl rfl i
theorem image0_low : ∀ a < 0x4000, byteAt (image0 (stPc 0 .none []).mem) a = byteAt (stPc 0 .none []).mem a := fun a ha =>
  byteAt_bytesSet_outside 16 0x301008 (dgdescOf 0) a tables_wf (by omega)
theorem readImage_re (n : Nat) {image : Bytes → Bytes} (l : Low (stRe n 0x300000 image)) :
    readImage (stRe n 0x300000 image) 0 (((stRe n 0x300000 image).grid 0).slotAddr 0)
      ((stRe n 0x300000 image).grid 0).imgSize = some (shiftBytes (image (stPc 0 .none []).mem) 0x301000 40960 0 []) := by
  have a : ((stRe n 0x300000 image).grid 0).slotAddr 0 = 0x301000 := by rfl
  have z : ((stRe n 0x300000 image).grid 0).imgSize = 40960 :=
    (by decide +kernel : ((stRe 0 0x300000 id).grid 0).imgSize = 40960)
  have p : translate (stRe n 0x300000 image) 0 (BitVec.ofNat 64 0x301000) .load = .ok 0x301000 :=
    l.translate (by decide) (.inl rfl)
  have q : pagePieces (0x301000 : DWord).toNat 40960 = [(0x301000, 40960)] := by decide +kernel
  rw [readImage, z, a, q, readImagePieces, p]
  rfl
/-- A field of the image is the field of memory. -/
theorem image_field {m : Bytes} (w : bytesWf m = true) (o n : Nat) (h : o + n ≤ 40960) :
    imgAt (shiftBytes m 0x301000 40960 0 []) o n = bytesAt m (0x301000 + o) n :=
  bytesAt_congr n fun i hi => by
    rw [byteAt_shiftBytes _ _ _ _ w rfl, show o + i - 0 + 0x301000 = 0x301000 + o + i by omega]
    by_cases z : byteAt m (0x301000 + o + i) = 0
    · rw [if_neg (by simp [z]), z]; rfl
    · rw [if_pos ⟨by omega, by omega, z⟩]
theorem image0_wf : bytesWf (image0 (stPc 0 .none []).mem) = true := bytesSet_wf 16 _ _ tables_wf
theorem dgdesc_zero : dgdescOf 0 = 7 + 2 ^ 8 * 7 + 2 ^ 16 * (Config.stepRev 0).toNat := rfl
theorem image0_dgdesc : imgAt (shiftBytes (image0 (stPc 0 .none []).mem) 0x301000 40960 0 []) 8 16 = dgdescOf 0 := by
  rw [image_field image0_wf 8 16 (by omega), image0, bytesAt_bytesSet _ _ _ tables_wf]
  have := (Config.stepRev 0).isLt
  exact Nat.mod_eq_of_lt (by rw [dgdesc_zero]; omega)
theorem image1_dgdesc : imgAt (shiftBytes (image1 (stPc 0 .none []).mem) 0x301000 40960 0 []) 8 16 = dgdescOf 0 := by
  have g : ((stRe 0 0x300000 id).grid 0).launch.grpAt 0 = 8448 := by decide +kernel
  have w : bytesWf (image1 (stPc 0 .none []).mem) = true := bytesSet_wf 12 _ _ image0_wf
  rw [image_field w 8 16 (by omega), image1, g, bytesAt_bytesSet_outside _ _ _ _ _ image0_wf (by omega),
    ← image_field image0_wf 8 16 (by omega), image0_dgdesc]
theorem image1_low : ∀ a < 0x4000, byteAt (image1 (stPc 0 .none []).mem) a = byteAt (stPc 0 .none []).mem a := fun a ha => by
  rw [← image0_low a ha]
  exact byteAt_bytesSet_outside 12 _ _ _ image0_wf (by omega)

/-- The saved block's state after its matrix commands are split, and its images. -/
def stSp : State := splitAll (settleSends (settleHolds (stSv 0x20000)) [0]) [0]
def imgs0 : List (Bytes × Bytes) := (unitImages stSp [0] 1).getD []
theorem save_written : ∃ img w, imgs0 = [img] ∧ Claim.Written stSp w (stSp.grid 0) [0] [0] 1 imgs0 := by
  have low : Low stSp := ⟨rfl, rfl, rfl, by decide +kernel, by decide +kernel, by decide +kernel⟩
  have wf : bytesWf stSp.mem = true := by decide +kernel
  obtain ⟨img, hi⟩ := List.length_eq_one_iff.mp (by decide +kernel : imgs0.length = 1)
  have a : (stSp.grid 0).slotAddr 0 = 0x301000 := by decide +kernel
  obtain ⟨n, hn⟩ : ∃ n, pagePieces (0x301000 : DWord).toNat (stSp.grid 0).imgSize = [(0x301000, n)] :=
    ⟨(stSp.grid 0).imgSize, by decide +kernel⟩
  have p : translate stSp 0 (BitVec.ofNat 64 0x301000) .store = .ok 0x301000 := low.translate (by decide) (.inr rfl)
  let v := storeImage stSp img.1 (0x301000 - (0x301000 : DWord).toNat) 0x301000 n
  let v0 := { stSp.written 0x301000 n with
    mem := shiftBytes img.1 (0x301000 - (0x301000 : DWord).toNat) n 0x301000 (bytesClear stSp.mem 0x301000 (0x301000 + n)) }
  have hv : v = v0 := clearPoison_clean _ _ (by rfl) (by rfl)
  have lv : Low v := by
    rw [hv]
    refine low.above rfl rfl rfl fun x hx => ?_
    · simp only [v0, shiftBytes]
      rw [foldl_byteSet_outside (fun y => y - (0x301000 - (0x301000 : DWord).toNat) + 0x301000) x _ (bytesClear_wf _ _ wf)
        (fun c _ => by omega), byteAt_bytesClear _ _ _ wf, if_neg (by omega)]
  refine ⟨img, (writeParts (stSp.grid 0) (saveHeader (stSp.grid 0) ++ List.zipWith
      (fun b i => (⟨0x10 + 8 * i, 8, (stSp.block b).num.toNat + 2 ^ 32 + 1 * 2 ^ 33⟩ : Part)) [0] [0]) v).1, hi, v, ?_, ?_⟩
  · rw [hi]
    show writeImages (stSp.grid 0) [(0, 0, img.1)] stSp = (v, none)
    simp only [writeImages, a, hn, writeImage, show (stSp.grid 0).asid = 0 from rfl, p]
    rfl
  · have r : ∀ q ∈ saveHeader (stSp.grid 0) ++ List.zipWith
        (fun b i => (⟨0x10 + 8 * i, 8, (stSp.block b).num.toNat + 2 ^ 32 + 1 * 2 ^ 33⟩ : Part)) [0] [0],
        translateRange v 0 ((stSp.grid 0).launch.save + BitVec.ofNat 64 q.off) .store q.len = .ok () := by
      have range : ∀ (x : DWord) (k : Nat), x.toNat < 2 ^ 30 → k + 1 ≤ 65536 - x.toNat % 65536 →
          translateRange v 0 x .store (k + 1) = .ok () := fun x k h1 h2 => by
        rw [translateRange, lv.translate h1 (.inr rfl)]
        simp only [if_pos h2]
      intro q hq
      simp only [saveHeader, List.zipWith_cons_cons, List.zipWith_nil_right, List.cons_append, List.nil_append, List.mem_cons,
        List.not_mem_nil, or_false] at hq
      rcases hq with rfl | rfl | rfl | rfl | rfl
      all_goals exact range _ _ (by decide +kernel) (by decide +kernel)
    have b : ∀ l : List Part, (∀ q ∈ l, translateRange v 0 ((stSp.grid 0).launch.save + BitVec.ofNat 64 q.off) .store q.len = .ok ()) →
        (writeParts (stSp.grid 0) l v).2 = none := fun l h => by
      simp only [writeParts]
      split
      · next x e =>
        obtain ⟨q, hq, e⟩ := List.exists_of_findSome?_eq_some e
        rw [show (stSp.grid 0).asid = 0 from rfl, h q hq] at e
        cases e
      · rfl
    exact Prod.ext rfl (b _ r)


/-- A group that is resident and has a continuation to run (R318). -/
def stCo : State := let s := two {} {} 0
  { s with groups := s.groups.map fun e => (e.1, { e.2 with cont := some (contOf 0).1 }) }
theorem contBit {image : Bytes → Bytes} (w : bytesWf (image (stPc 0 .none []).mem) = true) (o : Nat) (h : o + 0x41 ≤ 40960)
    (z : bytesAt (image (stPc 0 .none []).mem) (0x301000 + (o + 0x40)) 1 = 0) :
    groupCont (shiftBytes (image (stPc 0 .none []).mem) 0x301000 40960 0 []) o = none := by
  rw [groupCont, image_field w _ _ (by omega), z]; rfl
theorem image0_clear (o n : Nat) (h : 0x301018 ≤ o) (z : bytesAt (stPc 0 .none []).mem o n = 0) :
    bytesAt (image0 (stPc 0 .none []).mem) o n = 0 := by
  rw [image0, bytesAt_bytesSet_outside _ _ _ _ _ tables_wf (by omega), z]
theorem rows_le (img : Bytes) (off : Nat) : (savedRows img off).length ≤ 96 :=
  Nat.le_trans (List.length_filter_le _ _) (by simp)
theorem launch_re (n : Nat) (image : Bytes → Bytes) : ((stRe n 0x300000 image).grid 0).launch =
    ((stRe 0 0x300000 id).grid 0).launch := rfl
theorem grown_two (img : Bytes) : imageGrown ((stRe 0 0x300000 id).grid 0).launch img =
    ((savedRows img (((stRe 0 0x300000 id).grid 0).launch.grpAt 0)).length - 32) +
      ((savedRows img (((stRe 0 0x300000 id).grid 0).launch.grpAt 1)).length - 32) := by
  rw [imageGrown, (by decide +kernel : ((stRe 0 0x300000 id).grid 0).launch.groups = 2),
    (by decide +kernel : ((stRe 0 0x300000 id).grid 0).launch.regBase = 32)]
  simp [List.range_succ]
theorem witness_restore_refused :
    placeOf (stRe 0 0x300000 id) 0 = some ([saved0 0], 0, [0]) ∧ contsDue (stRe 0 0x300000 id) = [] ∧
    ∃ img, readImage (stRe 0 0x300000 id) 0 (((stRe 0 0x300000 id).grid 0).slotAddr 0)
        ((stRe 0 0x300000 id).grid 0).imgSize = some img ∧
      imageFor (stRe 0 0x300000 id) ((stRe 0 0x300000 id).grid 0) 0 1 img (saved0 0).slices = none := by
  refine ⟨by decide +kernel, by decide +kernel, _, readImage_re 0 (low_re 0 id fun _ _ => rfl), ?_⟩
  have e : imgAt (shiftBytes (stPc 0 .none []).mem 0x301000 40960 0 []) 8 16 = 0 := by
    rw [image_field tables_wf 8 16 (by omega)]; decide +kernel
  have f : imgAt (shiftBytes (stPc 0 .none []).mem 0x301000 40960 0 []) 6 1 = 0 := by
    rw [image_field tables_wf 6 1 (by omega)]; decide +kernel
  show imageFor _ _ 0 1 (shiftBytes (stPc 0 .none []).mem 0x301000 40960 0 []) _ = none
  rw [imageFor, e, f, if_neg (by rw [dgdesc_zero]; omega)]
  rfl
theorem witness_restore_grows :
    placeOf (stRe 0 0x300000 image1) 0 = some ([saved0 0], 0, [0]) ∧
    ∃ img, readImage (stRe 0 0x300000 image1) 0 (((stRe 0 0x300000 image1).grid 0).slotAddr 0)
        ((stRe 0 0x300000 image1).grid 0).imgSize = some img ∧ imgAt img 8 16 = dgdescOf 0 ∧
      0 < imageGrown ((stRe 0 0x300000 image1).grid 0).launch img := by
  refine ⟨by rfl, _, readImage_re 0 (low_re 0 image1 image1_low), image1_dgdesc, ?_⟩
  have g : ((stRe 0 0x300000 id).grid 0).launch.grpAt 0 = 8448 := by decide +kernel
  have w : bytesWf (image1 (stPc 0 .none []).mem) = true := bytesSet_wf 12 _ _ image0_wf
  have m : imgAt (shiftBytes (image1 (stPc 0 .none []).mem) 0x301000 40960 0 []) (8448 + 8) 12 = 2 ^ 96 - 1 := by
    rw [image_field w _ _ (by omega), image1, g]
    exact (bytesAt_bytesSet _ _ _ image0_wf).trans (Nat.mod_eq_of_lt (by decide))
  have r : (savedRows (shiftBytes (image1 (stPc 0 .none []).mem) 0x301000 40960 0 []) 8448).length = 96 := by
    rw [savedRows, m]; decide +kernel
  rw [launch_re, grown_two, g, r]
  omega
theorem witness_restore_runs :
    placeOf (stRe 192 0x300000 image0) 0 = some ([saved0 192], 0, [0]) ∧ contsDue (stRe 192 0x300000 image0) = [] ∧
    (stRe 192 0x300000 image0).poison = [] ∧ (stRe 192 0x300000 image0).records = [] ∧
    ∃ img, readImage (stRe 192 0x300000 image0) 0 (((stRe 192 0x300000 image0).grid 0).slotAddr 0)
        ((stRe 192 0x300000 image0).grid 0).imgSize = some img ∧ imgAt img 8 16 = dgdescOf 0 ∧
      imageGrown ((stRe 192 0x300000 image0).grid 0).launch img ≤ 192 ∧
      (∀ i < ((stRe 192 0x300000 image0).grid 0).launch.groups,
        groupCont img (((stRe 192 0x300000 image0).grid 0).launch.grpAt i) = none) ∧
      imgAt img (((stRe 192 0x300000 image0).grid 0).launch.grpAt 0 + 0x300 + 0x20) 4 = 0 := by
  have g0 : ((stRe 0 0x300000 id).grid 0).launch.grpAt 0 = 8448 := by decide +kernel
  have g1 : ((stRe 0 0x300000 id).grid 0).launch.grpAt 1 = 23296 := by decide +kernel
  have k : ((stRe 0 0x300000 id).grid 0).launch.groups = 2 := by decide +kernel
  refine ⟨by rfl, by rfl, by rfl, by rfl, _, readImage_re 192 (low_re 192 image0 image0_low), image0_dgdesc, ?_, ?_, ?_⟩
  · rw [launch_re, grown_two]
    exact Nat.add_le_add (Nat.le_trans (Nat.sub_le _ _) (rows_le _ _)) (Nat.le_trans (Nat.sub_le _ _) (rows_le _ _))
  · intro i hi
    rw [launch_re, k] at hi
    rw [launch_re]
    match i, hi with
    | 0, _ => rw [g0]; exact contBit image0_wf _ (by omega) (image0_clear _ _ (by omega) (by decide +kernel))
    | 1, _ => rw [g1]; exact contBit image0_wf _ (by omega) (image0_clear _ _ (by omega) (by decide +kernel))
  · rw [launch_re, g0, image_field image0_wf _ _ (by omega)]
    exact image0_clear _ _ (by omega) (by decide +kernel)
theorem witness_SavesAndRestores :
    (let u := settleSends (settleHolds (stSv 0x20000)) [0]
     unitBlocks (settleHolds (stSv 0x20000)) 0 = [0] ∧
     ((u.block 0).saving = some { kind := 1 } ∧ (tabGet u.blocks 0).isSome ∧ unitReady u [0] = true) ∧
     (match freeSlots u (u.grid 0) with | .ok l => l.head? == some 0 | .error _ => false) = true) ∧
    (match freeSlots (settleSends (settleHolds (stSv 0)) [0]) ((settleSends (settleHolds (stSv 0)) [0]).grid 0) with
      | .ok l => l == [] | .error _ => false) = true ∧
    unitReady (settleSends (settleHolds (stSv 0)) [0]) [0] = true ∧
    unitReady (settleSends (settleHolds (stPr .none (some { kind := 0 }) 0 0 false)) [0]) [0] = false ∧
    contsDue stCo = [0] ∧
    placeOf (stRe 0 0x40000000 id) 0 = some ([saved0 0], 0, [0]) ∧
    readImage (stRe 0 0x40000000 id) 0 (((stRe 0 0x40000000 id).grid 0).slotAddr 0)
      ((stRe 0 0x40000000 id).grid 0).imgSize = none ∧
    placeOf (stPc 0 .none []) 0 = none := by decide +kernel

def saved3 : Saved := { saved0 0 with kind := 3 }
/-- A saved unit that migrates to the dies of the double class, from die 0 to die 6. -/
def stMi : State :=
  let s := stPc 0 .none [saved3]
  { s with grids := s.grids.map fun e => (e.1, { e.2 with launch := { e.2.launch with dieMask := 0x41 }, nextBlock := 2 })
           migrations := [{ gid := 0, unit := (none, 0), blks := [], cls := 3, trapped := [], srcDie := 0, saved := true }] }
theorem restore_one (s : State) (x : Saved) (d core : Nat) (img : Bytes) (r : Bytes × Bytes)
    (i : readImage s (s.grid x.gid).asid ((s.grid x.gid).slotAddr x.slot) (s.grid x.gid).imgSize = some img)
    (p : s.poison = []) (q : s.weak = []) (f : imageFor s (s.grid x.gid) d x.kind img x.slices = some r) (c : x.cluster = none)
    (w : imageGrown (s.grid x.gid).launch r.1 ≤ x.grown) :
    restoreUnit s [x] d [core] = restoreBlock s x core r.1 r.2 (x.kind = 3 || imgAt img 8 16 != dgdescOf d) := by
  have h1 : unitRead s (s.grid x.gid) [x] = .ok [(x, img)] := by simp [unitRead, i]
  have h2 : poisonVirt s (s.grid x.gid).asid ((s.grid x.gid).slotAddr x.slot) .load (s.grid x.gid).imgSize = none := by
    simp [poisonVirt, p]
  have h3 : readyFor s (s.grid x.gid) d (x, img) = some ⟨x, r.1, r.2, x.kind = 3 || imgAt img 8 16 != dgdescOf d⟩ := by
    simp [readyFor, f]
  have h4 : growUnit s (s.grid x.gid) [⟨x, r.1, r.2, x.kind = 3 || imgAt img 8 16 != dgdescOf d⟩] = none := by
    simp [growUnit, Nat.not_lt.mpr w]
  have h5 : ∀ l, meets s (s.grid x.gid).asid .load l = s := fun l => by simp [meets, q]
  rw [restoreUnit, List.head?_cons, Option.map_some, Option.getD_some, h1]
  simp only [List.findSome?_cons, List.findSome?_nil, h2, List.find?_cons, h3, List.filterMap_cons, List.filterMap_nil,
    List.find?_nil, Option.isNone_some, h4, h5, restoreCluster, c, List.map_cons, List.map_nil, List.zip_cons_cons, List.zip_nil_right,
    List.foldl_cons, List.foldl_nil]
theorem image_mi : readImage stMi (stMi.grid 0).asid ((stMi.grid 0).slotAddr 0) (stMi.grid 0).imgSize = some [] := by
  have low : Low stMi := ⟨rfl, rfl, rfl, by decide +kernel, by decide +kernel, by decide +kernel⟩
  have a : (stMi.grid 0).slotAddr 0 = 0x301000 := by decide +kernel
  have z : (stMi.grid 0).imgSize = 40960 := by decide +kernel
  have p : translate stMi (stMi.grid 0).asid (BitVec.ofNat 64 0x301000) .load = .ok 0x301000 :=
    low.translate (by decide) (.inl rfl)
  have q : pagePieces (0x301000 : DWord).toNat 40960 = [(0x301000, 40960)] := by decide +kernel
  have e : shiftBytes stMi.mem 0x301000 40960 0 [] = [] := by decide +kernel
  rw [readImage, z, a, q, readImagePieces, p]
  exact congrArg some e
theorem restore_mi : restoreUnit stMi [saved3] 6 [240] = restoreBlock stMi saved3 240 [] [] true :=
  restore_one stMi saved3 6 240 [] ([], []) image_mi rfl rfl (by simp [imageFor, saved3, saved0]) rfl (by decide +kernel)
/-- A unit that migrates and has a thread that still runs. -/
def stMd : State := { stPr .none (some { kind := 3 }) 0 0 false with
  migrations := [{ gid := 0, unit := (none, 0), blks := [0], cls := 3, trapped := [], srcDie := 0 }] }
/-- Every thread of core 0 waits for 3,000 rows: one block, or two. -/
def stAl (n : Nat) : State :=
  let t : Thread := { notReady := true, stalled := some (0, 3000) }
  let s := two t t 0
  if n = 1 then s else
  { s with blocks := s.blocks ++ [(1, { gid := 0, slots := [1], placedAt := 1 })], groups := s.groups ++ [(1, { blk := 1 })]
           threads := s.threads ++ [(32, t)] }
theorem test_evict : after (.allocationDeadlock 0) (stAl 2) (fun t => ((t.block 0).saving.isSome, (t.block 1).saving)) =
    some (false, some { kind := 1 }) := by decide +kernel
theorem witness_MigrationsAndEvictions :
    (placeOf stMi 0 = some ([saved3], 6, [240]) ∧ saved3 ∉ (restoreUnit stMi [saved3] 6 [240]).saved ∧
      (restoreUnit stMi [saved3] 6 [240]).saved = [] ∧
      ((restoreUnit stMi [saved3] 6 [240]).grid 0).stage ≠ .killed) ∧
    (let u := settleHolds stMd
     u.migrations.find? (fun m => m.blks.contains 0) = some { gid := 0, unit := (none, 0), blks := [0], cls := 3, trapped := [], srcDie := 0 } ∧
       (∃ k ∈ [0].flatMap u.liveOfBlock, (u.thread k).halt = .none) ∧ unitRecords u [0] = []) ∧
    allocationStuck (stAl 1) 0 = true ∧ youngest (stAl 1) 0 = some 0 ∧ blocksOnCore (stAl 1) 0 = [0] ∧
    (stAl 1).groupsOf 0 = [0] ∧ ((stAl 1).liveOf 0).filter (stalledNow (stAl 1)) = [0, 1] ∧
    allocationStuck (stAl 2) 0 = true ∧ youngest (stAl 2) 0 = some 1 ∧ (blocksOnCore (stAl 2) 0).length ≠ 1 ∧
    (∀ c ∈ unitBlocks (stAl 2) 1, ((stAl 2).block c).saving = none ∧ (tabGet (stAl 2).blocks c).isSome) ∧
    allocationStuck st7 0 = false := by
  rw [restore_mi]; decide +kernel

/-! ## The device's lifetime -/

/-- Layer 15 stands in the top slot and layer 0 in the lowest; all clocks rise by a step at 2,850 W. -/
theorem test_clock : after (.governorInterval 2850) st7 (fun t => (t.die 7).clkNow) = some 1150 ∧
    after (.supplyOverpower 3301) { st7 with mgmt := { st7.mgmt with dies := st7.mgmt.dies.map fun d => { d with clkNow := 3300 } } }
      (fun t => (t.die 0).clkNow) = some 1100 := by decide +kernel
def stLa (go : Bool) (l : BitVec 4) (frame : Nat) : State :=
  { st7 with mgmt := { st7.mgmt with hbm := st7.mgmt.hbm.map fun _ =>
      { cap := 16, moLayer := l, moOut := l, moGo := go, moFrame := frame } } }
theorem test_mapout : after (.mogo 11) (stLa false 15 0) (fun t => ((t.stack 11).cap, (t.stack 11).layOff, (t.stack 11).moGo)) =
    some (15, 0x8000, false) ∧ after (.mapoutFrameCopy 11) (stLa true 0 2047) (fun t =>
      ((t.stack 11).cap, (t.stack 11).laymap.getD 0 0)) = some (15, 15) := by decide +kernel
/-- Row 5 of stack 11 has reached the threshold. -/
def stRow : State :=
  { st7 with mgmt := { st7.mgmt with hbm := st7.mgmt.hbm.map fun _ => { cap := 16, hot := [(11 * 2 ^ 26 + 5, 64)] } } }
theorem witness_DeviceService :
    st7.mgmt.legal = true ∧ st7.mgmt.devState = .full ∧ (st7.die 7).hot = false ∧ (st7.die 7).tj.toNat < 105 ∧
    1100 ≤ (st7.die 7).clkNow ∧ (st7.die 7).clkNow ≤ (st7.die 7).clkCeil ∧
    (st7.die 0).off = false ∧ gridsOnDie st7 0 ≠ [] ∧ gridsOnDie st7 7 = [] ∧
    ((st7.setDie 7 { st7.die 7 with off := true, st := 0 }).die 7).off = true ∧
    layerOwned (stLa false 15 0) 11 15 = false ∧ ((stLa false 15 0).stack 11).layOff.getLsbD 15 = false ∧
    slotOfLayer ((stLa false 15 0).stack 11) 15 = 15 ∧ slotOfLayer ((stLa false 0 0).stack 11) 0 = 0 ∧
    ((stLa false 15 0).stack 11).laymap.length = 16 ∧ scrubRuns st7 = true ∧ scrubRuns State.reset = false ∧ stRow.weak = [] ∧
    (List.range 12).all (fun n => (rowsDue stRow n).isEmpty) = false ∧
    ({ State.reset with mgmt := { State.reset.mgmt with boots := 1 } } : State).mgmt.devState = .reset ∧
    ({ State.reset with mgmt := { State.reset.mgmt with devState := .bringUp } } : State).mgmt.legal = true ∧
    (State.reset.die 5).st = 0 ∧ testOf [] 6 = (0, none) ∧ ({ nonce := 1 } : Attest).nonce ≠ 0 ∧
    ({ go := true } : Attest).go = true := by decide +kernel

/-! ## Banks of the register file -/

/-- A group whose v0, v7, v9 and v16 are mapped. -/
def stBk : State :=
  let s := two {} {} 0
  placeRows { s with groups := s.groups.map fun e => (e.1, { e.2 with rows := [(0, 0), (7, 0), (9, 0), (16, 0)] }) }
/-- The banks of R181's example; v0 and v16 of one group lie in one bank, so an instruction that reads both takes a second cycle. -/
theorem test_banks : bankFor [] 0 7 = 7 ∧ bankFor [] 1 7 = 6 ∧ bankFor (List.replicate 128 6) 1 7 = 7 ∧
    bankExtra stBk [0] (.addI32 5 0 7 9) = 0 ∧ bankExtra stBk [0, 1] (.addI32 5 0 0 16) = 1 := by decide +kernel

/-! ## Steps -/

theorem witness_DecodeOfEncode : (Instr.addI32 1 0 2 3).wf = true ∧ encode (.addI32 1 0 2 3) = some 0x02020203 ∧
    (Instr.tretKill).wf = true ∧ encode .tretKill = some 0xD2000001 := ⟨rfl, rfl, rfl, rfl⟩
/-- A package with one thread at ADD.i32 v1, v2, v3, or a Lectern at BRU. -/
def stSt (w : Nat) : State := State.reset.withFetchWord 32 w
def turnOf (w : Nat) : State := Claim.turnOf (stSt w) []
theorem test_step_add : (match step { stSt 0x02020203 with threads := [(0, { v := [(2, 40), (3, 2)], pc := 0x100080 })] } with
    | .next t => ((t.thread 0).reg 1, (t.thread 0).pc) | _ => (0, 0)) = (42, 0x100084) := by rfl
/-- A bundle at ADD.i32 v1, v2, v3 that its turn moves and has room for. -/
def runsAdd (s0 s : State) (i : Issue) : Bool :=
  let b := bKey i.core i.ctx
  (match fetchWord s b i.pc with | .ok w => w == 0x02020203 | .error _ => false) &&
    (match exec (.addI32 1 0 2 3) { s with issue := withWord s b i } with
      | .next t => progressed s t i && roomFor s0 t i
      | _ => false)
/-- A handler context at the same word. -/
def stHn : State :=
  let s := stSt 0x02020203
  { s with turns := [.handler 0], groups := s.groups ++ [(gKey 0 64, { blk := 0 })]
           threads := s.threads ++ [(tKey (gKey 0 64) 0, { pc := 0x100080 })]
           cores := [(0, { handling := true })] }
theorem witness_StepsRunDecodedInstructions :
    (stSt 0x02020203).turns = [.pick 0] ∧ coreServes (turnOf 0x02020203) 0 = true ∧
    (let s2 := findReady (turnOf 0x02020203) 0
     match candidateIssues s2 0 with
      | (i0 :: _) :: _ => runsAdd s2 (prepare s2 (withBreaks s2 0 i0)) (withBreaks s2 0 i0)
      | _ => false) = true ∧
    (stSt 0x490C0009).turns = [.lectern 0 0] ∧ lectReady (turnOf 0x490C0009) 0 = true ∧ coreServes (turnOf 0x490C0009) 0 = true ∧
    (match fetchWord (turnOf 0x490C0009) 0 (lectIssue (turnOf 0x490C0009) 0 0).pc with
      | .ok w => w == 0x490C0009 | .error _ => false) = true ∧
    (let s1 := Claim.turnOf stHn []
     match handlerIssue s1 0 with | some i => runsAdd s1 (prepare s1 i) i | none => false) = true ∧
    handlerIssue (turnOf 0x02020203) 0 = none ∧
    (encode (.governorInterval 0)).isNone = true ∧ encode .exit = some 0x4F000000 := by
  refine ⟨rfl, by decide +kernel, by decide +kernel, rfl, by decide +kernel, by decide +kernel, by decide +kernel, by decide +kernel,
    by decide +kernel, rfl, rfl⟩
theorem witness_StepsKeepTheStateInOrder : (stSt 0x02020203).wf ∧
    (match step (stSt 0x02020203) with | .next _ => true | _ => false) = true := ⟨⟨by decide +kernel, by decide +kernel⟩, rfl⟩

/-! ## Boundary values of single clauses -/

/-- Both threads at depth c, behind a LIT or behind none. -/
def stDeep (c : Nat) (h : Option HintGroup) : State :=
  two { v := regs0, cd := c, hints := h } { v := regs1, cd := c, hints := h } 0
/-- A CALL, a CALLL and a CALLI at depth 32, and a RET at depth 0. -/
theorem witness_call_stack_traps : Runs (stDeep 32 none) .base ∧ NoLit (stDeep 32 none) ∧
    (stDeep 32 (some { start := 0, lit := some 1 })).lead.lit.isSome = true ∧ SrcOk st7 2 true ∧
    ((stDeep 32 none).issue.members.filter (Claim.taken (stDeep 32 none) 0 0)).filter (fun k =>
      32 ≤ ((stDeep 32 none).thread k).cd) = [0, 1] ∧
    ((stDeep 31 none).issue.members.filter (Claim.taken (stDeep 31 none) 0 0)).filter (fun k =>
      32 ≤ ((stDeep 31 none).thread k).cd) = [] ∧
    (st7.issue.members.filter fun k => (st7.thread k).enabled).filter (fun k => (st7.thread k).cd = 0) = [0, 1] :=
  ⟨⟨rfl, by decide, by decide⟩, rfl, rfl, witness_CallsAndReturns.2, by decide, by decide, by decide⟩

/-- A group that holds a BLK, a GRD, a STEP, a REGION, a PREF or a SCHED, and a span that is open. -/
theorem witness_hint_violations :
    ((hinted { start := 0, blk := some 1 }).lead.hints.map (·.blk.isSome)) = some true ∧
    ((hinted { start := 0, grd := true }).lead.hints.map (·.grd)) = some true ∧
    ((hinted { start := 0, step := some 1 }).lead.hints.map (·.step.isSome)) = some true ∧
    ((hinted { start := 0, region := true }).lead.hints.map (·.region)) = some true ∧
    ((hinted { start := 0, pref := some 2 }).lead.hints.map (·.pref.isSome)) = some true ∧
    ((hinted { start := 0, sched := some 1 }).lead.hints.map (·.sched.isSome)) = some true ∧
    ((two { span := some { left := 1, g := true } } {} 0).lead.hints.map (·.grd)).getD false = false ∧
    ((two { span := some { left := 1, g := true } } {} 0).thread 0).span.isSome = true := by decide
/-- Behind a REGION of the package, a second REGION of another group counts on (R159, R296). -/
theorem test_region_counts : after .region (two { rcount := 0xFFFFFFFE } { rcount := 1 } 0)
    (fun t => ((t.thread 0).rcount, (t.thread 1).rcount)) = some (0xFFFFFFFF, 2) := by decide +kernel

/-- A latch run of three latches goes on, one of four does not; W = 1 opens one (R143). -/
theorem witness_latches :
    (let run := fun n => some (List.replicate n (some { value := 7, iv := .full }))
     ((two { run := run 3 } {} 0).thread 0).run.isSome = true ∧
       ((((two { run := run 3 } {} 0).thread 0).run.getD []).length < 4) ∧
       ¬((((two { run := run 4 } {} 0).thread 0).run.getD []).length < 4)) ∧
    ((st7.thread 0).run.getD []).length < 4 := by decide

/-- The byte 0xFF of v5 of the first lane is no code, 0x02 of the second is one (R69). -/
theorem witness_ternary_trap : (st7.enabled.filter fun k => decide (243 ≤ (st7.word 5 k).toNat / 256 ^ 0 % 256)) = [0] ∧
    Runs st7 .ternary := ⟨by decide, rfl, by decide, by decide⟩

/-- Both threads stand at the entry of a UGET.add that is still to be written. -/
def stGets : State :=
  let d : DqEntry := { addr := 0, next := 4, kind := .uget 1 false, wq := some (2, none) }
  mapped st7 (fun b => { b with dq := [d], lect := { b.lect with wait := .entry 0 } }) []
/-- Each adds its v2 under its linear index (R234). -/
theorem test_uget_contributes : after (.ugetAdd 2 2 0) stGets (fun t => (t.block 0).dq.map (·.contrib)) =
    some [[(0, 3), (1, 40)]] := by decide +kernel
theorem witness_uget_entry : Claim.AtEntries stGets ∧ SrcOk stGets 2 false ∧ lastOf 2 = false ∧
    ((stGets.block 0).dq[0]?).map (·.wq) = some (some (2, none)) ∧
    ∀ k ∈ stGets.issue.members, (stGets.group (grpOf k)).blk = 0 ∧ (stGets.thread k).upos = 0 :=
  ⟨⟨⟨rfl, by decide, by decide⟩, rfl, rfl, by decide, fun k hk =>
      ⟨{ addr := 0, next := 4, kind := .uget 1 false, wq := some (2, none) }, by
        have : k ∈ [0, 1] := hk
        simp only [List.mem_cons, List.not_mem_nil, or_false] at this
        rcases this with rfl | rfl <;> exact ⟨rfl, rfl, by decide, by decide⟩⟩, no_posts (by decide +kernel)⟩,
    ⟨by decide, by decide, by decide, by decide, by decide, by decide⟩, by decide, by decide, by decide⟩

/-- A retrieval slab of 2^8 tokens has slots up to 255; one that streams with S = 64 and W = 64 goes round (R322). -/
theorem witness_slab_slots :
    (let r := slabRec 5 0
     Slab.streaming r = false ∧ Slab.slot r 255 = some 255 ∧ Slab.slot r 256 = none) ∧
    (let r := slabRec 5 (2 ^ 272 + 6 * 2 ^ 280 + 64 * 2 ^ 288)
     Slab.bad r = none ∧ Slab.streaming r = true ∧ Slab.slot r 63 = some 63 ∧ Slab.slot r 64 = some 64 ∧
       Slab.slot r 127 = some 127 ∧ Slab.slot r 128 = some 64 ∧ Slab.slot r 0xFFFFFFFF = some 127) := by decide +kernel
theorem witness_slab_range : ((stS 256 0).enabled.filter fun k =>
    (Slab.slot (slabRec 5 0) (Claim.token (stS 256 0) 3 k)).isNone) = [0] := by decide +kernel

/-- −∞ and −∞, 1 and 1, 1 and +∞, −∞ and 1, and −1 and 1 each stand on one row of the table (R331). -/
theorem witness_softmax_weight : f32.decode 0xFF800000 = .inf true ∧ (f32.decode 0x3F800000).cmp (f32.decode 0x3F800000) = 0 ∧
    f32.decode 0x7F800000 = .inf false ∧ (f32.decode 0x3F800000).cmp (f32.decode 0x7F800000) ≠ 1 ∧
    (f32.decode 0xFF800000).cmp (f32.decode 0x3F800000) ≠ 1 ∧ (f32.decode 0xBF800000).cmp (f32.decode 0x3F800000) ≠ 1 ∧
    (f32.decode 0xBF800000).cmp (f32.decode 0x3F800000) ≠ 0 ∧ f32.decode 0x3F800000 ≠ .inf true ∧
    softWeight 0xFF800000 0xFF800000 = 0 ∧ softWeight 0x7F800000 0x7F800000 = 0x3F800000 := by decide +kernel

/-! ## Bytes that commands move -/

theorem sound_one {s : State} {x : Block} (m : bytesWf s.mem = true) (b : s.blocks = [(0, x)]) (h : bytesWf x.shared = true)
    (p : s.poison = [] ∧ s.weak = [] ∧ s.released = []) : Claim.Sound s 0 :=
  ⟨⟨m, fun n => by
    by_cases z : n = 0
    · subst z; simpa [memoryWf, State.block, b, tabGetD, tabGet] using h
    · have e : s.block n = {} := by simp [State.block, b, tabGetD, tabGet, Ne.symm z]
      rw [e]; decide⟩, p, by simp [b, tabGet]⟩
/-- A translation gives an address. -/
def okIs (e : Except Nat Nat) (a : Nat) : Bool :=
  match e with
  | .ok b => decide (b = a)
  | .error _ => false
theorem okIs_eq {e : Except Nat Nat} {a : Nat} (h : okIs e a = true) : e = .ok a := by
  cases e with
  | ok b => exact congrArg _ (of_decide_eq_true h)
  | error _ => cases h
/-- The entries that the translation of an address reads lie below 0x4000. -/
def lowSlots (s : State) (va : DWord) : Bool :=
  (slotsFrom s.mgmt s.mem va.toNat (rootTable s 0) walkShifts).all fun p => decide (p + 8 ≤ 0x4000)
theorem steady_of {s : State} {va : DWord} {dest : Nat → Prop} (l : s.tlb = []) (d : ∀ a, dest a → 0x4000 ≤ a)
    (h : lowSlots s va = true) : Claim.Steady s 0 va dest := by
  refine ⟨fun x e => ?_, fun p hp a ha => .inr ?_⟩
  · simp [cached, l] at e
  · have := of_decide_eq_true (List.all_eq_true.mp h p hp)
    have := d a ha
    omega
/-- The conditions on a box as one check. -/
def boxCheck (s : State) (acc : Access) (t : Tensor) (disp : DWord) (w : Nat) (loc : Nat → Nat → Nat) : Bool :=
  (List.range (Claim.boxRows t)).all fun i =>
    let gs := t.segs disp i
    (gs.all fun g => decide (g.off + g.len ≤ w)) && decide (gs.Pairwise fun g h => g.off + g.len ≤ h.off) &&
      (List.range w).all fun j => match Claim.boxByte t disp i j with
        | none => false
        | some va => okIs (translate s 0 va acc) (loc i j) && lowSlots s va
theorem box_at {s : State} {acc : Access} {t : Tensor} {disp : DWord} {w : Nat} {loc : Nat → Nat → Nat} {dest : Nat → Prop}
    (h : boxCheck s acc t disp w loc = true) (l : s.tlb = []) (d : ∀ a, dest a → 0x4000 ≤ a) :
    Claim.BoxAt s 0 acc t disp w loc dest := by
  simp only [boxCheck, List.all_eq_true, List.mem_range, Bool.and_eq_true, decide_eq_true_eq] at h
  intro i hi
  obtain ⟨⟨h1, h2⟩, h3⟩ := h i hi
  refine ⟨h1, h2, fun j hj => ?_⟩
  have := h3 j hj
  split at this
  · cases this
  next va e =>
    simp only [Bool.and_eq_true] at this
    exact ⟨va, e, okIs_eq this.1, steady_of l d this.2⟩
/-- Where row i of a box of rows of 32 bytes lies from an address. -/
def rowsAt (base i j : Nat) : Nat := base + 32 * i + j
theorem among_low {n w base a : Nat} (h : 0x4000 ≤ base) : Claim.among n w (rowsAt base) a → 0x4000 ≤ a :=
  fun ⟨i, _, j, _, e⟩ => by simp only [rowsAt] at e; omega
theorem not_among {n base base2 : Nat} (h : base + 32 * n ≤ base2 ∨ base2 + 32 * n ≤ base) : ∀ i < n, ∀ j < 32,
    ¬Claim.among n 32 (rowsAt base2) (rowsAt base i j) := fun i hi j hj ⟨x, hx, y, hy, e⟩ => by
  simp only [rowsAt] at e; omega
theorem rows_apart (n base : Nat) : ∀ i < n, ∀ j < 32, ∀ k < 32, rowsAt base i j = rowsAt base i k → j = k :=
  fun i _ j _ k _ e => by simp only [rowsAt] at e; omega

/-- The tensor t0, its 2 rows of 32 bytes at 0x200000; a copy displaces them to 0x208000. -/
def t0 : Tensor := tens.headD {}
theorem t0_box : t0.rb = 32 ∧ Claim.boxRows t0 = 2 := by decide
def stCp : State := stK { copyCmd 0 with d1 := 0x8000 } {}
theorem sound_k (c : Cmd) (t : Tile) : Claim.Sound (stK c t) 0 :=
  sound_one (by decide +kernel : bytesWf (stK (copyCmd 0) {}).mem = true) rfl rfl ⟨rfl, rfl, rfl⟩
theorem witness_copy_moves : Claim.Sound stCp 0 ∧ nextMove stCp 0 = some { copyCmd 0 with d1 := 0x8000 } ∧
    tensorAt stCp 0 0 = some t0 ∧
    Claim.BoxAt stCp 0 .copyRead t0 0 32 (rowsAt 0x200000) (Claim.among 2 32 (rowsAt 0x208000)) ∧
    Claim.BoxAt stCp 0 .copyWrite t0 0x8000 32 (rowsAt 0x208000) (Claim.among 2 32 (rowsAt 0x208000)) ∧
    (∀ i < 2, ∀ j < 32, ∀ k < 32, rowsAt 0x208000 i j = rowsAt 0x208000 i k → j = k) ∧
    (∀ i < 2, ∀ j < 32, ¬Claim.among 2 32 (rowsAt 0x208000) (rowsAt 0x200000 i j)) :=
  ⟨sound_k _ _, by decide +kernel, by decide +kernel, box_at (by decide +kernel) rfl fun _ => among_low (by decide),
    box_at (by decide +kernel) rfl fun _ => among_low (by decide), rows_apart _ _, not_among (by decide)⟩
/-- An MCAST of t0 to the ranks' tiles 63, of which the first alone is there. -/
def stMc : State := stK (cmdOf .mcast .ready) { state := .ready, len := 1 }
theorem witness_mcast_moves : Claim.Sound stMc 0 ∧ nextMove stMc 0 = some (cmdOf .mcast .ready) ∧
    tensorAt stMc 0 0 = some t0 ∧ Claim.BoxAt stMc 0 .copyRead t0 0 32 (rowsAt 0x200000) (fun _ => False) ∧
    (List.range (ranksOf stMc 0)).filterMap (rankBlock stMc 0) = [0] ∧ (stMc.tile 0 63).vault = false ∧
    (tabGet stMc.blocks 0).isSome :=
  ⟨sound_k _ _, by decide +kernel, by decide +kernel, box_at (by decide +kernel) rfl fun _ h => h.elim, by decide +kernel,
    by decide +kernel, rfl⟩
/-- A drain, and a fill, of a tile of shared memory or of the vault. -/
def stDr (kind : CmdKind) (vault : Bool) : State :=
  stK (cmdOf kind .ready) { state := if kind == .fill then .filling else .draining, vault := vault, len := 1 }
theorem witness_tile_moves : (∀ v ∈ [false, true], tileMove (stDr .drain v) 0 63 .drain = some (cmdOf .drain .ready) ∧
      ((stDr .drain v).tile 0 63).vault = v) ∧
    tileMove (stDr .fill true) 0 63 .fill = some (cmdOf .fill .ready) ∧ ((stDr .fill true).tile 0 63).vault = true ∧
    (∀ v, Claim.Sound (stDr .drain v) 0) ∧ Claim.Sound (stDr .fill true) 0 ∧
    (∀ v ∈ [false, true], Claim.BoxAt (stDr .drain v) 0 .copyWrite t0 0 32 (rowsAt 0x200000)
      (Claim.among 2 32 (rowsAt 0x200000))) ∧
    Claim.BoxAt (stDr .fill true) 0 .copyRead t0 0 32 (rowsAt 0x200000) (Claim.among 2 32 (rowsAt (vaultAddr 0 0))) ∧
    (∀ i < 2, ∀ j < 32, ¬Claim.among 2 32 (rowsAt 0x200000) (rowsAt (vaultAddr 0 0) i j)) ∧
    ∀ i < 2, ∀ j < 32, ¬Claim.among 2 32 (rowsAt (vaultAddr 0 0)) (rowsAt 0x200000 i j) :=
  ⟨by decide +kernel, by decide +kernel, by decide +kernel, fun _ => sound_k _ _, sound_k _ _,
    fun v hv => box_at (by
      simp only [List.mem_cons, List.not_mem_nil, or_false] at hv
      rcases hv with rfl | rfl <;> decide +kernel) rfl fun _ => among_low (by decide),
    box_at (by decide +kernel) rfl fun _ => among_low (by decide), not_among (by decide), not_among (by decide)⟩
/-- Each kind of movement whose first row lies where no page is mapped. -/
theorem witness_faulting_movements : ∀ k ∈ [CmdKind.fill, .copy, .copym, .mcast],
    let c := { cmdOf k .ready with d0 := 0x40000000, dst := if k == .fill then 63 else 0 }
    let s := stK c { state := .filling, len := 1 }
    nextMove s 0 = some c ∧ tensorAt s 0 c.src = some t0 ∧ (tensorAt s 0 0).isSome ∧
      (t0.segs c.d0 0).head? = some { addr := 0x40200000, off := 0, len := 32 } ∧
      (match translate s 0 0x40200000 .copyRead with | .ok _ => false | .error r => r != poisonReason) = true ∧
      (s.block 0).killed = false := by decide +kernel

/-! ## Attention: what its commands read -/

/-- A value read from a range that the translation maps. -/
theorem read_of {e : Except (DWord × Nat) Nat} (h : isOk e = true) : ∃ x, e = .ok x := by
  cases e with
  | ok x => exact ⟨x, rfl⟩
  | error _ => cases h
/-- A folded round of a Sideboard of one row of 16 channels, and the SBMRG that reads it. -/
def stSb (norm : Bool) : State :=
  let s := stK { cmdOf .sbmrg .ready with d0 := 0x00100001, flag := norm } { state := .ready, len := 1 }
  { s with clusters := [(clKey 0 0, { channel := some { nextRank := 2, nr := 1, dv := 16, partialSum := [(5, 0x3F)] } })] }
theorem witness_sideboard_results : ∀ norm ∈ [false, true],
    nextMove (stSb norm) 0 = some { cmdOf .sbmrg .ready with d0 := 0x00100001, flag := norm } ∧
    (clusterOf (stSb norm) 0).channel = some { nextRank := 2, nr := 1, dv := 16, partialSum := [(5, 0x3F)] } ∧
    sideShape 0x00100001 = some (1, 16) ∧ ((stSb norm).gridOf 0).launch.clSize = 2 := by decide +kernel

/-- A command on the slab whose record is given, and tiles 1, 2 and 63. -/
def stKv (record : Nat) (c : Cmd) : State :=
  let t : Tile := { state := .ready, len := 4 }
  stQ record fun b => { b with cmds := [{ c with slab := 0x210000 }], tiles := [(1, t), (2, { t with offset := 4 }), (63, t)] }
/-- A row-major slab of FP16 rows of 16 elements. -/
def rowRec : Nat := 0x220000 + 5 * 2 ^ 128 + 0xFFFFFFFF * 2 ^ 224 + 8 * 2 ^ 256 + 16 * 2 ^ 320 + 8 * 2 ^ 336 + 32 * 2 ^ 384
theorem records_valid : Slab.bad (slabRec 5 0) = none ∧ Slab.bad rowRec = none ∧ Slab.paged (slabRec 5 0) = true ∧
    Slab.paged rowRec = false ∧ Slab.rb rowRec = 32 ∧ Slab.ch rowRec = 16 ∧ Slab.ch (slabRec 5 0) = 16 ∧
    Slab.rb (slabRec 5 0) = 16 := by decide +kernel
/-- PSEL of the best 4 of the slab's 4 pages. -/
def pselCmd : Cmd := { cmdOf .psel .ready with d0 := 0x00040201, d1 := 4 * 2 ^ 32 }
theorem witness_page_selection : let s := stKv (slabRec 5 0) pselCmd
    nextMove s 0 = some { pselCmd with slab := 0x210000 } ∧ pselArgs pselCmd.d0 pselCmd.d1 = some (1, 2, 4, 0, 4) ∧
    (match readSlab s 0 0x210000 with | .ok r => r == slabRec 5 0 | .error _ => false) = true ∧
    0 + 4 ≤ 2 ^ (Slab.capl (slabRec 5 0) - 6) ∧ 4 * Slab.ch (slabRec 5 0) ≤ (s.tile 0 1).bytes ∧
    ∀ i < 4, Slab.baseFor (slabRec 5 0) (64 * (0 + i)) = some 0x220000 ∧
      isOk (readVirt s 0 (BitVec.ofNat 64 (0x220000 + Slab.pageOff (slabRec 5 0) (64 * (0 + i)))) .load 64) = true := by
  decide +kernel
/-- KVUNP and KVPK of one token into, or from, tile 1: FP32 or BF16, a paged and a row-major slab. -/
def kvCmd (kind : CmdKind) (bf : Bool) : Cmd := { cmdOf kind .ready with d0 := if bf then 0x00010101 else 0x00010001 }
theorem sound_kv (r : Nat) (w : bytesWf (stKv r pselCmd).mem = true) (c : Cmd) : Claim.Sound (stKv r c) 0 :=
  sound_one w rfl rfl ⟨rfl, rfl, rfl⟩
theorem kv_ready (bf : Bool) (kind : CmdKind) (hk : kind = .kvunp ∨ kind = .kvpk) : ∀ r ∈ [slabRec 5 0, rowRec],
    Claim.KvReady (stKv r (kvCmd kind bf)) 0 { kvCmd kind bf with slab := 0x210000 } r 1 bf 1 0 0 0x220000 := by
  intro r hr
  simp only [List.mem_cons, List.not_mem_nil, or_false] at hr
  rcases hr with rfl | rfl <;> rcases hk with rfl | rfl <;> cases bf <;>
    exact ⟨sound_kv _ (by decide +kernel) _, by decide +kernel, by decide +kernel, ⟨ok_of (by decide +kernel), by decide +kernel⟩,
      by decide +kernel, by decide +kernel, by decide +kernel, by decide +kernel⟩
theorem witness_slab_unpacking : ∀ e ∈ [(slabRec 5 0, 0x220060, 16), (rowRec, 0x220000, 32)],
    let s := stKv e.1 (kvCmd .kvunp false)
    BitVec.ofNat 64 (0x220000 + Slab.rowOff e.1 (0 + 0)) = BitVec.ofNat 64 e.2.1 ∧
    isOk (readVirt s 0 (BitVec.ofNat 64 e.2.1) .load e.2.2) = true ∧
    isOk (readVirt s 0 (BitVec.ofNat 64 (0x220000 + Slab.pageOff e.1 0 + 4 * Slab.ch e.1)) .load (2 * Slab.ch e.1)) = true := by
  decide +kernel
theorem range_at {s : State} {va : DWord} {acc : Access} {w pa : Nat} {dest : Nat → Prop}
    (h : okIs (translate s 0 va acc) pa = true)
    (p : va.toNat % 65536 + w ≤ 65536) (l : s.tlb = []) (d : ∀ a, dest a → 0x4000 ≤ a) (q : lowSlots s va = true) :
    Claim.RangeAt s 0 va acc w pa dest := ⟨okIs_eq h, p, steady_of l d q⟩
theorem witness_slab_packing :
    Claim.RangeAt (stKv rowRec (kvCmd .kvpk false)) 0 (BitVec.ofNat 64 (0x220000 + Slab.rowOff rowRec (0 + 0))) .store 32 0x220000
      (fun a => ∃ j < 1, 0x220000 ≤ a ∧ a < 0x220000 + 32) ∧
    Claim.RangeAt (stKv (slabRec 5 0) (kvCmd .kvpk true)) 0 (BitVec.ofNat 64 (0x220000 + Slab.pageOff (slabRec 5 0) 0)) .store
      (Slab.pgb (slabRec 5 0)) 0x220000 (fun a => 0x220000 ≤ a ∧ a < 0x220000 + Slab.pgb (slabRec 5 0)) :=
  ⟨range_at (by decide +kernel) (by decide +kernel) rfl (fun a ⟨_, _, h, _⟩ => by omega) (by decide +kernel),
    range_at (by decide +kernel) (by decide +kernel) rfl (fun a ⟨h, _⟩ => by omega) (by decide +kernel)⟩
/-- Channels of E2M1: an infinity, zeros, one and minus six, and a magnitude beyond BF16. -/
theorem witness_channel_packing : let f := nfOf 0xAF07
    (packChannel f [.inf true]).scale = 0x7FC0 ∧ (packChannel f [.fin true 0 0, .fin false 0 0]).scale = 0 ∧
    (packChannel f [.fin false 1 0, .fin true 3 1]).scale ≠ 0x7FC0 ∧ (packChannel f [.fin false 1 0, .fin true 3 1]).scale ≠ 0 ∧
    (packChannel f [.fin false 1 200]).scale = 0x7FC0 := by decide +kernel
/-- Merges of NaN, of equal and of unequal m, and of two infinities whose l becomes NaN; sums of zero and of a NaN (R332, R333). -/
theorem witness_merge_values : (softMerge 0x7FC00000 0 0 0).flags = 0b010000 ∧
    softMerge 0x3F800000 0x3F800000 0x3F800000 0x3F800000 = ⟨0x3F800000, 0x40000000, 0x3F800000, 0x3F800000, 0⟩ ∧
    (softMerge 0 0x7F800000 0 0xFF800000).flags = 0b010001 ∧
    (softMerge 0xFF800000 0 0x3F800000 0x3F800000).m = 0x3F800000 ∧
    normalise 0x3F800000 0 0x80000000 = (0, 0b100000) ∧ (normalise 0x3F800000 0x7FC00000 0).2 = 0b010000 ∧
    normalise 0x40400000 0 0x40000000 = (0x3FC00000, 0) := by decide +kernel

/-- The product of t0 and t1 that runs: two rows of 32 by 32 columns of 16, D in tile 3 (R311). -/
def stMv : State :=
  let s := stV .moved
  let tile := fun o : BitVec 16 => ({ state := .ready, vault := true, offset := o, len := 4 } : Tile)
  { s with blocks := s.blocks.map fun e => (e.1, { e.2 with tiles := [(1, tile 0), (2, tile 4), (3, tile 8)] }) }
def tB : Tensor := { etype := 1, ndim := 2, ext := [16, 32], stride := [1, 16] }
theorem witness_matrix_command_values : ∃ c, mmatRunning stMv 0 = some c ∧ c.mmatOp.ranks = 1 ∧
    Claim.MmatAt stMv 0 c t0 tB 32 (fun _ => 0) := by
  refine ⟨{ cmdOf .mmat .moved with src := 0xA4, dst := 1, d0 := 0x00030201, d1 := 1, matrix := true }, rfl, rfl, ?_⟩
  refine ⟨sound_one (by decide +kernel : bytesWf (stK (copyCmd 0) {}).mem = true) rfl rfl ⟨rfl, rfl, rfl⟩, rfl, by decide +kernel, by decide +kernel,
    by decide +kernel, fun p hp => ?_, fun p hp => ⟨by decide +kernel, by decide +kernel⟩, .inl rfl, fun p hp => ⟨fun q hq => ⟨?_, ?_⟩, fun _ => ?_⟩⟩
  · have : p = 0 := Nat.lt_one_iff.mp hp
    subst this; decide +kernel
  · exact fun h => absurd ((Nat.lt_one_iff.mp hq).trans (Nat.lt_one_iff.mp hp).symm) h
  · have : q = 0 := Nat.lt_one_iff.mp hq
    have : p = 0 := Nat.lt_one_iff.mp hp
    subst q p; unfold Claim.Apart; decide +kernel
  · have : p = 0 := Nat.lt_one_iff.mp hp
    subst p; unfold Claim.Apart; decide +kernel

/-! ## Results at the Lectern's waits, and other clauses -/

/-- Every operation of UGET at the Lectern's wait, over values of 32 or of 64 bits (R234). -/
def ugetReady (op : Nat) (w : Bool) : Bool :=
  let s := stU (.uget (BitVec.ofNat 4 op) w)
  (match waitEntry s 0 with
    | some (pos, e) => pos == 0 && e.wq == some (2, none) && e.kind == .uget (BitVec.ofNat 4 op) w && decide (e.contrib.map (·.1) = [0, 1])
    | none => false) && allPassed s 0 0 && !s.lectStopped 0
theorem witness_uget_results : ((List.range 12).all fun op => ugetReady op false && ugetReady op true) = true := by decide +kernel
theorem test_uget_results : (List.range 12).map (fun op => after (.ugetCombine 0) (stU (.uget (BitVec.ofNat 4 op) true)) fun t =>
    (tabGetD (t.block 0).lect.q 2 0).toNat) = [3, 7, 3, 4, 3, 4, 0, 7, 7, 1, 1, 2].map some := by decide +kernel
/-- A POST of a card, to core 0 of its die or to its own core, whose queue holds as many cards as given. -/
def stPo (card core : DWord) (self : Bool) (held : Nat) : State :=
  let s := stU (.post card core self)
  { s with cores := [(0, { queue := { cards := List.replicate held { addr := 0x50000, asid := 0, poster := 0 } } })] }
/-- A card of zero, one misplaced, a core that the die lacks, a full queue, and a card that is placed (R235). -/
theorem test_post_status : [stPo 0 0 false 0, stPo 0x50001 0 false 0, stPo 0x50000 40 false 0, stPo 0x50000 0 false 16,
      stPo 0x50000 0 true 15].map (fun s => after (.postAct 0) s fun t =>
        ((tabGetD (t.block 0).lect.q 2 0).toNat, (t.core 0).queue.cards.length)) =
    [(3, 0), (3, 0), (2, 0), (1, 16), (0, 16)].map some := by decide +kernel
theorem witness_post_statuses : ∀ self ∈ [false, true], 
    (waitEntry (stPo 0x50000 0 self 15) 0).map (·.1) = some 0 ∧
    (waitEntry (stPo 0x50000 0 self 15) 0).map (·.2.wq) = some (some (2, none)) ∧
    (waitEntry (stPo 0x50000 0 self 15) 0).map (·.2.kind) = some (.post 0x50000 0 self) ∧ allPassed (stPo 0x50000 0 self 15) 0 0 = true ∧
    (stPo 0x50000 0 self 15).lectStopped 0 = false := by decide +kernel

/-- Lanes whose pair v6 holds an address in the given half of the address space. -/
def stHi (hi : Word) : State :=
  let s := stM none
  { s with threads := s.threads.map fun e => (e.1, { e.2 with v := (7, hi) :: e.2.v }) }
/-- LDG.32 at the pair v6 and a register's bytes further. -/
def lanesG (s : State) (i : BitVec 8) : List LaneAcc := s.enabled.map fun k =>
  { k := k, addr := s.dword 6 k + Claim.immDword s i, place := .virt (s.dword 6 k + Claim.immDword s i) }
theorem witness_access_checks : acquiring (stM none) = false ∧
    ((lanesM 6 0 0 4 false (stM none)).filter fun l => l.bounds.isSome).map (·.k) = [0, 1] ∧
    ((lanesG (stM none) 0).filter fun l => l.addr.toNat % 16 != 0).map (·.k) = [1] ∧
    ((lanesG (stHi 0x02000000) 0).filter fun l => decide (2 ^ 57 ≤ l.addr.toNat)).map (·.k) = [0, 1] ∧
    (lanesG (stHi 1) 0).all (fun l => l.bounds.isNone && l.addr.toNat % 4 == 0 && decide (l.addr.toNat < 2 ^ 57)) = true ∧
    ((lanesG (stHi 1) 0).filter fun l => (Claim.unmapped (stHi 1) .load l).isSome).map (·.k) = [0, 1] ∧
    ((lanesG (stHi 1) 0).filter fun l => (Claim.unmapped (stHi 1) .store l).isSome).map (·.k) = [0, 1] ∧ (stHi 1).poison = [] := by
  decide +kernel

/-- A page that moves from stack 0 to stack 11: the frame, its entry and the frame list lie apart. -/
theorem witness_page_move_ends : let m : PageMove := { asid := 0, va := 0x200000, entry := 0x20000F, slot := 0x4008, stack := 11, frame := 0xB000400000 }
    let list := (stPl.stack (m.page / 2 ^ 36)).frBase.toNat + 8 * (stPl.stack (m.page / 2 ^ 36)).frCount.toNat
    m.page = 0x200000 ∧ Claim.Apart m.page (2 ^ 21) m.frame (2 ^ 21) ∧ Claim.Apart m.slot 8 m.frame (2 ^ 21) ∧
      Claim.Apart list 8 m.frame (2 ^ 21) ∧ Claim.Apart list 8 m.slot 8 ∧ stPl.poison = [] ∧ stPl.mgmt.legal = true := by
  simp only [Claim.Apart]; decide +kernel
/-- The unit of stMi goes to die 6, whose class its source lacks, and its one block starts from its image. -/
theorem witness_migration_ends : let m : Migration := { gid := 0, unit := (none, 0), blks := [], cls := 3, trapped := [], srcDie := 0, saved := true }
    stMi.migrations = [m] ∧ stMi.saved[0]?.map (·.kind) = some 3 ∧ Config.fclassOf m.srcDie / 2 ^ m.cls % 2 = 0 ∧
    placeOf stMi 0 = some ([saved3], 6, [240]) ∧ saved3.cluster = none ∧ m.unit = (none, saved3.num.toNat) ∧
    stMi.records = [] ∧ stMi.poison = [] ∧ stMi.weak = [] ∧ stMi.host.prectl.go = false ∧ (stMi.grid 0).stage = .eligible ∧
    readImage stMi (stMi.grid 0).asid ((stMi.grid 0).slotAddr 0) (stMi.grid 0).imgSize = some [] ∧
    imageGrown (stMi.grid 0).launch [] ≤ saved3.grown ∧
    (Claim.slotsOn stMi (stMi.grid 0).launch 240)[32 / 32]? = some 1 :=
  ⟨rfl, rfl, by decide, by decide +kernel, rfl, rfl, rfl, rfl, rfl, rfl, by decide +kernel, image_mi, by decide +kernel, by decide +kernel⟩
/-- A queue's control word that starts ABORT and POKE, and a ring that lies nowhere. -/
theorem witness_queue_control : (stY 1).mgmt.devState ≠ .failed ∧ ringOk (stY 1).mgmt ((stY 1).queue 7 15) = true ∧
    ringOk (stY 1).mgmt { base := 0xFFFFFFFFFF000, size := 4 } = false ∧
    (match exec (.queueEnable 7 15 (6 &&& 0xFFFFFFF9)) (stY 1) with
      | .next s1 => (match exec (.abort 7 15) s1 with | .next _ => true | _ => false) | _ => false) = true := by decide +kernel
/-- The device in full service, and in state 3. -/
theorem witness_service_states : (∀ s ∈ [st7, stLa false 15 0, stAn true, stNB [], stPr .none none 0 0 false],
      s.mgmt.devState ≠ .failed) ∧
    ({ st7 with mgmt := { st7.mgmt with devState := .failed } } : State).mgmt.devState = .failed ∧
    ((stLa false 15 0).stack 11).cap ≠ 0 := by decide +kernel

end Sys2Proof.Tests
end

section
/-! Core numbers and placement (O51): the number of a core on its die (R15), what the placement of a unit does to the state
(R41, R74, R102, R103, R118), and which reservations a decision grants (R103). -/

namespace Sys2Proof.Machine

/-! ## Core numbers -/

theorem coresOf_cd7 {d : Nat} (h : d < 6) : Config.coresOf d = 40 := by
  simp [Config.coresOf, Config.isCd6, h]

theorem coresOf_cd6 {d : Nat} (h : 6 ≤ d) : Config.coresOf d = 32 := by
  simp [Config.coresOf, Config.isCd6, h]

/-- A core's global index lies in the package and names its die and its number there. -/
theorem globalCore_names {d c : Nat} (hd : d < 8) (hc : c < Config.coresOf d) :
    Config.globalCore d c < 304 ∧ Config.dieOfCore (Config.globalCore d c) = d ∧
      Config.coreInDie (Config.globalCore d c) = c := by
  unfold Config.globalCore Config.dieOfCore Config.coreInDie
  by_cases h : d < 6
  · rw [coresOf_cd7 h] at hc
    simp only [show d ≤ 5 by omega, show 40 * d + c < 240 by omega, if_true]
    omega
  · rw [coresOf_cd6 (by omega)] at hc
    simp only [show ¬d ≤ 5 by omega, show ¬240 + 32 * (d - 6) + c < 240 by omega, if_false]
    omega

/-- Every index of the package is the global index of a core. -/
theorem globalCore_of_index {g : Nat} (hg : g < 304) : Config.dieOfCore g < 8 ∧
    Config.coreInDie g < Config.coresOf (Config.dieOfCore g) ∧
      Config.globalCore (Config.dieOfCore g) (Config.coreInDie g) = g := by
  unfold Config.globalCore Config.dieOfCore Config.coreInDie
  by_cases h : g < 240
  · simp only [h, if_true, show g / 40 ≤ 5 by omega, coresOf_cd7 (show g / 40 < 6 by omega)]
    omega
  · simp only [h, if_false, show ¬6 + (g - 240) / 32 ≤ 5 by omega, coresOf_cd6 (show 6 ≤ 6 + (g - 240) / 32 by omega)]
    omega

theorem dieOfCore_of_mem_coresOfDie {d core : Nat} (hd : d < 8) (h : core ∈ coresOfDie d) : Config.dieOfCore core = d := by
  obtain ⟨c, hc, rfl⟩ := List.mem_map.1 h
  exact (globalCore_names hd (List.mem_range.1 hc)).2.1

theorem globalCoreIndices : Claims.GlobalCoreIndices :=
  ⟨fun _ => coresOf_cd7, fun _ h _ => coresOf_cd6 h, rfl, fun _ _ hd hc => ⟨rfl, globalCore_names hd hc⟩,
    fun _ => globalCore_of_index⟩

/-! ## The first of a list by a key -/

theorem keyLess_irrefl (a : List Nat) : keyLess a a = false := by
  induction a with
  | nil => rfl
  | cons x a ih => simp [keyLess, ih]

theorem keyLess_trans {a b c : List Nat} (hab : keyLess a b = true) (hbc : keyLess b c = true) : keyLess a c = true := by
  induction a generalizing b c with
  | nil => simp [keyLess] at hab
  | cons x a ih =>
    cases b with
    | nil => simp [keyLess] at hab
    | cons y b =>
      cases c with
      | nil => simp [keyLess] at hbc
      | cons z c =>
        simp only [keyLess, Bool.or_eq_true, decide_eq_true_eq, Bool.and_eq_true, beq_iff_eq] at *
        rcases hab with hxy | ⟨rfl, hab⟩
        · left; omega
        · exact hbc.imp_right fun ⟨hxz, hbc⟩ => ⟨hxz, ih hab hbc⟩

theorem keyLess_asymm {a b : List Nat} (h : keyLess a b = true) : keyLess b a = false :=
  Bool.eq_false_iff.2 fun hba => Bool.eq_false_iff.1 (keyLess_irrefl a) (keyLess_trans h hba)

/-- The running first of a list: the start or a later element that comes before it, and none of the list comes before the
running first. -/
theorem foldl_first {α : Type} (key : α → List Nat) (l : List α) (x : α) :
    let m := l.foldl (fun m y => if keyLess (key y) (key m) then y else m) x
    (m = x ∨ m ∈ l ∧ keyLess (key m) (key x) = true) ∧ ∀ y ∈ l, keyLess (key y) (key m) = false := by
  induction l generalizing x with
  | nil => simp
  | cons z l ih =>
    simp only [List.foldl_cons, List.forall_mem_cons]
    by_cases hz : keyLess (key z) (key x) = true
    · simp only [hz, if_true]
      obtain ⟨hm, hmin⟩ := ih z
      rcases hm with hm | ⟨hm, hlt⟩
      · rw [hm] at hmin ⊢
        exact ⟨.inr ⟨List.mem_cons_self .., hz⟩, keyLess_irrefl _, hmin⟩
      · exact ⟨.inr ⟨List.mem_cons_of_mem _ hm, keyLess_trans hlt hz⟩, keyLess_asymm hlt, hmin⟩
    · rw [if_neg hz]
      obtain ⟨hm, hmin⟩ := ih x
      rcases hm with hm | ⟨hm, hlt⟩
      · rw [hm] at hmin ⊢
        exact ⟨.inl rfl, Bool.eq_false_iff.2 hz, hmin⟩
      · exact ⟨.inr ⟨List.mem_cons_of_mem _ hm, hlt⟩, Bool.eq_false_iff.2 fun h => hz (keyLess_trans h hlt), hmin⟩

theorem firstBy_eq_some {α : Type} {key : α → List Nat} {l : List α} {m : α} (h : firstBy key l = some m) :
    m ∈ l ∧ ∀ y ∈ l, keyLess (key y) (key m) = false := by
  cases l with
  | nil => cases h
  | cons x l =>
    obtain rfl := Option.some.inj h
    obtain ⟨hm, hmin⟩ := foldl_first key l x
    rcases hm with hm | ⟨hm, hlt⟩
    · rw [hm] at hmin ⊢
      exact ⟨List.mem_cons_self .., List.forall_mem_cons.2 ⟨keyLess_irrefl _, hmin⟩⟩
    · exact ⟨List.mem_cons_of_mem _ hm, List.forall_mem_cons.2 ⟨keyLess_asymm hlt, hmin⟩⟩

theorem firstBy_eq_none {α : Type} {key : α → List Nat} {l : List α} (h : firstBy key l = none) : l = [] := by
  cases l with
  | nil => rfl
  | cons x l => cases h

/-! ## Where the next unit goes -/

theorem placeFor_eq_some {s : State} {c : Cand} {d : Nat} {cores : List Nat} (h : placeFor s c = some (d, cores)) :
    d < 8 ∧ coresFor s c d = some cores := by
  obtain ⟨e, he, hp⟩ := List.mem_filterMap.1 (firstBy_eq_some h).1
  obtain ⟨l, hl, hel⟩ := Option.map_eq_some_iff.1 hp
  cases hel
  exact ⟨List.mem_range.1 he, hl⟩

theorem nextPlacement_eq_some {s : State} {c : Cand} {d : Nat} {cores : List Nat}
    (h : nextPlacement s = some (c, d, cores)) : d < 8 ∧ coresFor s c d = some cores := by
  obtain ⟨e, -, hp⟩ := List.mem_filterMap.1 (firstBy_eq_some h).1
  obtain ⟨p, hpl, hep⟩ := Option.map_eq_some_iff.1 hp
  cases hep
  exact placeFor_eq_some hpl

/-- A candidate of one block stands on a core of the die of its place. -/
theorem coresFor_block {s : State} {c : Cand} {d core : Nat} (hc : c.clusterSize s = none)
    (h : coresFor s c d = some [core]) : core ∈ coresOfDie d := by
  simp only [coresFor, hc] at h
  split at h
  · cases h
  · obtain ⟨x, hx, hxc⟩ := Option.map_eq_some_iff.1 h
    cases hxc
    exact List.mem_of_find?_eq_some hx

theorem nextPlacement_die {s : State} {gid d core : Nat} (h : nextPlacement s = some (.head gid, d, [core]))
    (hk : (s.grid gid).launch.kind ≠ 1) : Config.dieOfCore core = d := by
  have hblock : (Cand.head gid).clusterSize s = none := if_neg hk
  obtain ⟨hd, hcores⟩ := nextPlacement_eq_some h
  exact dieOfCore_of_mem_coresOfDie hd (coresFor_block hblock hcores)

/-! ## What a block takes on its core -/

theorem lowestFree_nodup (taken : List Nat) (n : Nat) : (lowestFree taken n).Nodup :=
  List.nodup_range.sublist List.filter_sublist

theorem slotsOn_nodup (s : State) (r : Launch) (core : Nat) : (Claim.slotsOn s r core).Nodup :=
  (lowestFree_nodup _ _).sublist (List.take_sublist _ _)

/-- The groups of a block stand in slots of their own. -/
theorem slotsOn_inj {s : State} {r : Launch} {core n n' sl : Nat} (h : (Claim.slotsOn s r core)[n]? = some sl)
    (h' : (Claim.slotsOn s r core)[n']? = some sl) : n = n' :=
  (List.getElem?_inj (List.getElem?_eq_some_iff.1 h).1 (slotsOn_nodup s r core)).1 (h.trans h'.symm)

theorem ctxOn_lt (s : State) (core : Nat) : Claim.ctxOn s core < 16 := by
  have below : ∀ i ∈ lowestFree ((blocksOnCore s core).map (· % 16)) 16, i < 16 := fun i hi =>
    List.mem_range.1 (List.mem_filter.1 hi).1
  unfold Claim.ctxOn
  cases h : lowestFree ((blocksOnCore s core).map (· % 16)) 16 with
  | nil => decide
  | cons i l => exact below i (h ▸ List.mem_cons_self ..)

theorem coreOfB_bKey {core ctx : Nat} (h : ctx < 16) : coreOfB (bKey core ctx) = core := by
  unfold coreOfB bKey; omega

theorem tKey_inj {core core' sl sl' i j : Nat} (hi : i < 32) (hj : j < 32)
    (h : tKey (gKey core sl) i = tKey (gKey core' sl') j) : gKey core sl = gKey core' sl' ∧ i = j := by
  unfold tKey at h; omega

theorem gKey_inj {core sl sl' : Nat} (h : gKey core sl = gKey core sl') : sl = sl' := Nat.add_left_cancel h

/-- A fold keeps a reading of v that each step either makes v or leaves. -/
theorem foldl_stays {α β γ : Type} (p : α → γ) (f : α → β → α) (v : γ) {l : List β}
    (steps : ∀ j ∈ l, ∀ a, p (f a j) = v ∨ p (f a j) = p a) {a : α} (ha : p a = v) : p (l.foldl f a) = v := by
  induction l generalizing a with
  | nil => exact ha
  | cons j l ih =>
    obtain ⟨hj, hl⟩ := List.forall_mem_cons.1 steps
    exact ih hl ((hj a).elim id fun h => h.trans ha)

/-- A fold reads v where one of its steps makes it v, and every step makes it v or leaves it. -/
theorem foldl_settles {α β γ : Type} (p : α → γ) (f : α → β → α) (v : γ) {l : List β} {i : β} (hi : i ∈ l)
    (hit : ∀ a, p (f a i) = v) (others : ∀ j ∈ l, ∀ a, p (f a j) = v ∨ p (f a j) = p a) (a : α) :
    p (l.foldl f a) = v := by
  obtain ⟨before, after, rfl⟩ := List.append_of_mem hi
  rw [List.foldl_append, List.foldl_cons]
  exact foldl_stays p f v (fun j hj => others j (List.mem_append_right _ (List.mem_cons_of_mem _ hj))) (hit _)

/-- One group of a block enters the table, as occupy does it. -/
def putGroup (core b : Nat) (group : Nat → Group → Group) (t : Tab Group) (e : Nat × Nat) : Tab Group :=
  tabSet t (gKey core e.1) (group e.2 { blk := b, num := e.2 })

/-- One thread of a block enters the table, as occupy does it. -/
def putThread (core : Nat) (slots : List Nat) (thread : Nat → Option Thread) (t : Tab Thread) (i : Nat) : Tab Thread :=
  match thread i, slots[i / 32]? with
  | some x, some sl => tabSet t (tKey (gKey core sl) (i % 32)) x
  | _, _ => t

section
variable {core : Nat} {slots : List Nat} {thread : Nat → Option Thread} {t : Tab Thread} {i : Nat}

theorem putThread_some {x : Thread} {sl : Nat} (hx : thread i = some x) (hs : slots[i / 32]? = some sl) :
    putThread core slots thread t i = tabSet t (tKey (gKey core sl) (i % 32)) x := by
  simp only [putThread, hx, hs]

theorem putThread_none (h : ¬∃ x sl, thread i = some x ∧ slots[i / 32]? = some sl) :
    putThread core slots thread t i = t := by
  unfold putThread
  split
  · exact absurd ⟨_, _, ‹_›, ‹_›⟩ h
  · rfl

end

section
variable (s : State) (r : Launch) (core : Nat) (fill : List Nat → Block) (thread : Nat → Option Thread)
  (group : Nat → Group → Group)

theorem occupy_block (b : Nat) : (occupy s r core fill thread group).block b =
    if b = bKey core (Claim.ctxOn s core) then fill (Claim.slotsOn s r core) else s.block b :=
  tabGetD_set ..

theorem occupy_groups : (occupy s r core fill thread group).groups =
    (Claim.slotsOn s r core).zipIdx.foldl (putGroup core (bKey core (Claim.ctxOn s core)) group) s.groups := rfl

theorem occupy_threads : (occupy s r core fill thread group).threads =
    (List.range r.threads).foldl (putThread core (Claim.slotsOn s r core) thread) s.threads := rfl

theorem occupy_group {n sl : Nat} (h : (Claim.slotsOn s r core)[n]? = some sl) :
    (occupy s r core fill thread group).group (gKey core sl) =
      group n { blk := bKey core (Claim.ctxOn s core), num := n } := by
  rw [State.group, occupy_groups]
  refine foldl_settles (fun t : Tab Group => tabGetD t (gKey core sl) {}) _ _
    (List.mem_zipIdx_iff_getElem?.2 h : (sl, n) ∈ _) (fun t => ?_) (fun e he t => ?_) s.groups
  · exact (tabGetD_set ..).trans (if_pos rfl)
  · by_cases hk : gKey core sl = gKey core e.1
    · obtain ⟨sl', n'⟩ := e
      obtain rfl := gKey_inj hk
      obtain rfl := slotsOn_inj h (List.mem_zipIdx_iff_getElem?.1 he)
      exact .inl ((tabGetD_set ..).trans (if_pos rfl))
    · exact .inr ((tabGetD_set ..).trans (if_neg hk))

theorem occupy_thread {i sl : Nat} {x : Thread} (hi : i < r.threads) (hx : thread i = some x)
    (h : (Claim.slotsOn s r core)[i / 32]? = some sl) :
    (occupy s r core fill thread group).thread (tKey (gKey core sl) (i % 32)) = x := by
  rw [State.thread, occupy_threads]
  refine foldl_settles (fun t : Tab Thread => tabGetD t (tKey (gKey core sl) (i % 32)) {}) _ _
    (List.mem_range.2 hi) (fun t => ?_) (fun j _ t => ?_) s.threads
  · rw [putThread_some hx h, tabGetD_set, if_pos rfl]
  · by_cases hj : ∃ y sl', thread j = some y ∧ (Claim.slotsOn s r core)[j / 32]? = some sl'
    · obtain ⟨y, sl', hy, hs⟩ := hj
      rw [putThread_some hy hs, tabGetD_set]
      by_cases hk : tKey (gKey core sl) (i % 32) = tKey (gKey core sl') (j % 32)
      · obtain ⟨hg, hlane⟩ := tKey_inj (Nat.mod_lt _ (by decide)) (Nat.mod_lt _ (by decide)) hk
        obtain rfl := gKey_inj hg
        have hgroup := slotsOn_inj h hs
        obtain rfl : i = j := by omega
        exact .inl ((if_pos rfl).trans (Option.some.inj (hy.symm.trans hx)))
      · exact .inr (if_neg hk)
    · exact .inr (by rw [putThread_none hj])

/-- The read-only cache of a core that holds no other block of the grid is empty (R272). -/
theorem occupy_ro (gid : Nat) (hg : (fill (Claim.slotsOn s r core)).gid = gid)
    (h : ∀ b ∈ blocksOnCore s core, (s.block b).gid ≠ gid) :
    ((occupy s r core fill thread group).core core).ro = [] := by
  subst hg
  have hnone : (blocksOnCore s core).any (fun b => (s.block b).gid == (fill (Claim.slotsOn s r core)).gid) = false :=
    List.any_eq_false.2 fun b hb => by simpa using h b hb
  show (tabGetD (dropReadOnly s core (fill (Claim.slotsOn s r core)).gid) core {}).ro = []
  unfold dropReadOnly
  rw [hnone, Bool.false_or]
  split
  · exact List.isEmpty_iff.1 ‹_›
  · rw [tabGetD_set, if_pos rfl]

end

/-! ## A block starts -/

/-- The number of the block of a rank that starts next: its rank in its cluster, or the grid's next (R41). -/
def startNumber (s : State) (gid : Nat) (cluster : Option Nat) (rank : Nat) : Word :=
  match cluster with
  | some c => BitVec.ofNat 32 (c * (s.grid gid).launch.clSize + rank)
  | none => BitVec.ofNat 32 (s.grid gid).nextBlock

section
variable (s : State) (gid : Nat) (cluster : Option Nat) (core rank : Nat)

theorem startBlock_grid (n : Nat) : (startBlock gid cluster s (core, rank)).grid n = s.grid n := rfl

theorem startBlock_block (b : Nat) : (startBlock gid cluster s (core, rank)).block b =
    if b = bKey core (Claim.ctxOn s core) then
      newBlock s gid (startNumber s gid cluster rank) cluster rank (Config.dieOfCore core)
        (Claim.slotsOn s (s.grid gid).launch core)
    else s.block b :=
  occupy_block ..

/-- A block that starts stands fresh on its core. -/
theorem startBlock_placed : Claim.Placed s (startBlock gid cluster s (core, rank)) gid core (Config.dieOfCore core)
    (startNumber s gid cluster rank) cluster rank where
  block := (startBlock_block s gid cluster core rank _).trans (if_pos rfl)
  thread _ _ hi h := occupy_thread _ _ _ _ _ _ hi rfl h
  group _ _ h := occupy_group _ _ _ _ _ _ h

theorem startBlock_ro (h : ∀ b ∈ blocksOnCore s core, (s.block b).gid ≠ gid) :
    ((startBlock gid cluster s (core, rank)).core core).ro = [] :=
  occupy_ro _ _ _ _ _ _ gid rfl h

theorem startBlock_mem : (startBlock gid cluster s (core, rank)).mem =
    clearSlices s.mem core (Claim.slotsOn s (s.grid gid).launch core) := rfl

end

/-! ## The head moves on -/

/-- What the placement of a unit leaves to the head: the grid's next block number rises by one, and the queue may move on. -/
theorem placedUnit_eq (s : State) (gid : Nat) : ∃ qs cs, placedUnit s gid =
    { s with grids := tabSet s.grids gid { s.grid gid with nextBlock := (s.grid gid).nextBlock + 1 }
             queues := qs, cores := cs } ∧ ∀ c, (tabGetD cs c {}).ro = (s.core c).ro := by
  unfold placedUnit
  dsimp only
  split
  · cases (s.grid gid).origin with
    | die d q => exact ⟨_, _, rfl, fun _ => rfl⟩
    | core g =>
      refine ⟨_, _, rfl, fun c => ?_⟩
      rw [tabGetD_set]
      split
      · subst c; rfl
      · rfl
  · exact ⟨_, _, rfl, fun _ => rfl⟩

theorem placedUnit_grid (s : State) (gid : Nat) :
    (placedUnit s gid).grid gid = { s.grid gid with nextBlock := (s.grid gid).nextBlock + 1 } := by
  obtain ⟨qs, cs, h, -⟩ := placedUnit_eq s gid
  rw [h]
  exact (tabGetD_set ..).trans (if_pos rfl)

/-! ## BLOCK_PLACE -/

theorem exec_blockPlace (core : Nat) (s : State) : exec (.blockPlace core) s = execBlockPlace core s := by rfl

theorem placeHead_block {s : State} {gid d core : Nat} (hk : (s.grid gid).launch.kind ≠ 1) :
    placeHead s gid d [core] = placedUnit (startBlock gid none s (core, 0)) gid := if_neg hk

theorem execBlockPlace_head {s : State} {gid d core : Nat} (h : nextPlacement s = some (.head gid, d, [core]))
    (hk : (s.grid gid).launch.kind ≠ 1) (c : Nat) : execBlockPlace c s =
      .next (if core = c then placedUnit (startBlock gid none s (core, 0)) gid else s) := by
  simp only [execBlockPlace, h, hk, ne_eq, not_false_eq_true, and_true, placeHead_block hk]

theorem blockPlacement : Claims.BlockPlacement := by
  intro s core gid d h hk
  refine ⟨?_, fun c hc => ?_⟩
  · obtain ⟨qs, cs, ht, hro⟩ := placedUnit_eq (startBlock gid none s (core, 0)) gid
    have placed := startBlock_placed s gid none core 0
    rw [nextPlacement_die h hk] at placed
    refine ⟨placedUnit (startBlock gid none s (core, 0)) gid, ?_, ?_, placedUnit_grid _ _, ?_, ?_, ?_⟩
    · rw [exec_blockPlace, execBlockPlace_head h hk, if_pos rfl]
    · rw [ht]; exact ⟨placed.block, placed.thread, placed.group⟩
    · rw [ht]; exact fun b hb => (startBlock_block s gid none core 0 b).trans (if_neg hb)
    · rw [ht]; exact fun hb => (hro core).trans (startBlock_ro s gid none core 0 hb)
    · rw [ht]; exact startBlock_mem s gid none core 0
  · rw [exec_blockPlace, execBlockPlace_head h hk, if_neg hc.symm]

/-! ## CLUSTER_PLACE -/

/-- The block of a rank of a cluster is resident on a core, with its number. -/
def RankOn (s : State) (gid cl core rank : Nat) (num : Word) : Prop :=
  ∃ b, coreOfB b = core ∧ (s.block b).gid = gid ∧ (s.block b).cluster = some cl ∧ (s.block b).rank = rank ∧
    (s.block b).num = num

theorem startBlock_rankOn (s : State) (gid cl core rank : Nat) : RankOn (startBlock gid (some cl) s (core, rank)) gid cl core rank
    (BitVec.ofNat 32 (cl * (s.grid gid).launch.clSize + rank)) := by
  refine ⟨bKey core (Claim.ctxOn s core), coreOfB_bKey (ctxOn_lt s core), ?_⟩
  rw [(startBlock_placed s gid (some cl) core rank).block]
  exact ⟨rfl, rfl, rfl, rfl⟩

/-- A block that starts leaves the blocks of the other cores. -/
theorem startBlock_rankOn_other {s : State} {gid cl core rank : Nat} {num : Word} (h : RankOn s gid cl core rank num)
    {e : Nat × Nat} (he : e.1 ≠ core) : RankOn (startBlock gid (some cl) s e) gid cl core rank num := by
  obtain ⟨b, hb, h⟩ := h
  have other : b ≠ bKey e.1 (Claim.ctxOn s e.1) := by
    rintro rfl
    exact he ((coreOfB_bKey (ctxOn_lt s e.1)).symm.trans hb)
  refine ⟨b, hb, ?_⟩
  rw [startBlock_block, if_neg other]
  exact h

theorem foldl_startBlock_rankOn_other {gid cl core rank : Nat} {num : Word} (l : List (Nat × Nat)) {s : State}
    (h : RankOn s gid cl core rank num) (hl : ∀ e ∈ l, e.1 ≠ core) :
    RankOn (l.foldl (startBlock gid (some cl)) s) gid cl core rank num := by
  induction l generalizing s with
  | nil => exact h
  | cons e l ih =>
    obtain ⟨he, hl⟩ := List.forall_mem_cons.1 hl
    exact ih (startBlock_rankOn_other h he) hl

/-- Blocks that start on cores of their own all stand there. -/
theorem foldl_startBlock_rankOn (gid cl : Nat) (l : List (Nat × Nat)) (s : State) (hl : (l.map (·.1)).Nodup)
    {core rank : Nat} (he : (core, rank) ∈ l) : RankOn (l.foldl (startBlock gid (some cl)) s) gid cl core rank
      (BitVec.ofNat 32 (cl * (s.grid gid).launch.clSize + rank)) := by
  induction l generalizing s with
  | nil => cases he
  | cons e l ih =>
    obtain ⟨apart, hl⟩ := List.nodup_cons.1 hl
    rw [List.foldl_cons]
    rcases List.mem_cons.1 he with rfl | hm
    · exact foldl_startBlock_rankOn_other l (startBlock_rankOn s gid cl core rank) fun x hx hxc =>
        apart (List.mem_map.2 ⟨x, hx, hxc⟩)
    · rw [← startBlock_grid s gid (some cl) e.1 e.2 gid]
      exact ih _ hl hm

/-- The state in which the blocks of the head's next cluster start: its cluster stands, and its reservation is gone. -/
def clusterStart (s : State) (gid d : Nat) : State :=
  let g := s.grid gid
  { s with clusters := tabSet s.clusters (clKey gid g.nextBlock)
             { die := d, channel := if g.attention && !Config.isCd6 d then some {} else none }
           reservations := s.reservations.filter fun r => r.gid != gid }

/-- The blocks of the head's next cluster start on its cores, by rank. -/
def startCluster (s : State) (gid d : Nat) (cores : List Nat) : State :=
  cores.zipIdx.foldl (startBlock gid (some (s.grid gid).nextBlock)) (clusterStart s gid d)

theorem placeHead_cluster {s : State} {gid d : Nat} {cores : List Nat} (hk : (s.grid gid).launch.kind = 1) :
    placeHead s gid d cores = placedUnit (startCluster s gid d cores) gid := if_pos hk

theorem startCluster_keeps {γ : Type} (p : State → γ) (h : ∀ cl gid u e, p (startBlock gid cl u e) = p u) (s : State)
    (gid d : Nat) (cores : List Nat) : p (startCluster s gid d cores) = p (clusterStart s gid d) :=
  foldl_keeps p _ (h _ _) _ _

theorem exec_clusterPlace (d : Nat) (s : State) : exec (.clusterPlace d) s = execClusterPlace d s := by rfl

theorem execClusterPlace_head {s : State} {gid d : Nat} {cores : List Nat} (h : nextPlacement s = some (.head gid, d, cores))
    (hk : (s.grid gid).launch.kind = 1) (e : Nat) : execClusterPlace e s =
      .next (if d = e then placedUnit (startCluster s gid d cores) gid else s) := by
  simp only [execClusterPlace, h, hk, and_true, placeHead_cluster hk]

/-- R118: one decision starts the block of every rank, each on its core, and ends the grid's reservation. -/
theorem clusterPlace_head {s : State} {d gid : Nat} {cores : List Nat} (h : nextPlacement s = some (.head gid, d, cores))
    (hk : (s.grid gid).launch.kind = 1) (hc : cores.Nodup) :
    let g := s.grid gid
    (∃ t, exec (.clusterPlace d) s = .next t ∧ t.grid gid = { g with nextBlock := g.nextBlock + 1 } ∧
      (tabGetD t.clusters (clKey gid g.nextBlock) {}).die = d ∧ (∀ r ∈ t.reservations, r.gid ≠ gid) ∧
      ∀ rank core, cores[rank]? = some core →
        RankOn t gid g.nextBlock core rank (BitVec.ofNat 32 (g.nextBlock * g.launch.clSize + rank))) ∧
    ∀ e, e ≠ d → exec (.clusterPlace e) s = .next s := by
  refine ⟨⟨placedUnit (startCluster s gid d cores) gid, ?_, ?_, ?_⟩, fun e he => ?_⟩
  · rw [exec_clusterPlace, execClusterPlace_head h hk, if_pos rfl]
  · rw [placedUnit_grid, startCluster_keeps (fun u => u.grid gid) fun _ _ u _ => startBlock_grid u ..]
    rfl
  · obtain ⟨qs, cs, ht, -⟩ := placedUnit_eq (startCluster s gid d cores) gid
    rw [ht]
    refine ⟨?_, fun r hr => ?_, fun rank core hrank => ?_⟩
    · dsimp only
      rw [startCluster_keeps State.clusters fun _ _ _ _ => rfl]
      exact congrArg Cluster.die ((tabGetD_set ..).trans (if_pos rfl))
    · dsimp only at hr
      rw [startCluster_keeps State.reservations fun _ _ _ _ => rfl] at hr
      simpa using (List.mem_filter.1 hr).2
    · exact foldl_startBlock_rankOn gid _ cores.zipIdx (clusterStart s gid d) (by simpa using hc)
        (List.mem_zipIdx_iff_getElem?.2 hrank)
  · rw [exec_clusterPlace, execClusterPlace_head h hk, if_neg he.symm]

/-! ## Reservations -/

theorem exec_clusterReservation (gid : Nat) (s : State) :
    exec (.clusterReservation gid) s = execClusterReservation gid s := by rfl

theorem clusterReservation_head {s : State} {gid d : Nat} (hgrid : (tabGet s.grids gid).isSome) (hready : headReady s gid = true)
    (hk : (s.grid gid).launch.kind = 1) (hnone : ∀ r ∈ s.reservations, r.gid ≠ gid) (hd : d < 8)
    (hallows : (s.grid gid).launch.allows d = true)
    (hnear : ∀ e, e < 8 → (s.grid gid).launch.allows e = true →
      Config.hops (s.grid gid).origin.die? d < Config.hops (s.grid gid).origin.die? e ∨
        Config.hops (s.grid gid).origin.die? d = Config.hops (s.grid gid).origin.die? e ∧ d ≤ e) :
    exec (.clusterReservation gid) s =
      .next (grantReservations { s with reservations := s.reservations ++ [{ gid := gid, die := d }] }) := by
  have hany : (s.reservations.any fun r => r.gid == gid) = false :=
    List.any_eq_false.2 fun r hr => by simpa using hnone r hr
  have hmem : d ∈ (List.range 8).filter (s.grid gid).launch.allows := List.mem_filter.2 ⟨List.mem_range.2 hd, hallows⟩
  rw [exec_clusterReservation]
  simp only [execClusterReservation, hgrid, hready, hk, hany, and_self, if_true]
  split
  next hf => rw [firstBy_eq_none hf] at hmem; cases hmem
  next e hf =>
    obtain ⟨he, hmin⟩ := firstBy_eq_some hf
    obtain ⟨he, hea⟩ := List.mem_filter.1 he
    have near := hnear e (List.mem_range.1 he) hea
    have first := hmin d hmem
    simp only [keyLess, Bool.and_false, Bool.or_false, Bool.or_eq_false_iff, Bool.and_eq_false_iff, decide_eq_false_iff_not,
      beq_eq_false_iff_ne, ne_eq] at first
    obtain rfl : d = e := by omega
    rfl

/-- The reservations for a die, those that stand and those that wait. -/
def reservationsOn (s : State) (d : Nat) : List Reservation := s.reservations.filter fun r => r.die == d

/-- One reservation of a list begins to stand. -/
def standOne (r : Reservation) (l : List Reservation) : List Reservation :=
  l.map fun x => if x = r then { x with stands := true } else x

/-- The reservations for a die after its turn: where none stands the first by a key begins to. -/
def granted (key : Nat → List Nat) (here : List Reservation) : List Reservation :=
  if here.any (·.stands) then here
  else match firstBy (fun r => key r.gid) here with
    | none => here
    | some r => standOne r here

/-- The turn of one die in grantReservations. -/
def grantDie (s : State) (d : Nat) : State :=
  if (reservationsOn s d).any (·.stands) then s
  else match firstBy (fun r => candKey s (.head r.gid)) (reservationsOn s d) with
    | none => s
    | some r => { s with reservations := standOne r s.reservations }

theorem grantReservations_eq (s : State) : grantReservations s = (List.range 8).foldl grantDie s := rfl

/-- A turn leaves the state, but for one reservation of its die that may begin to stand. -/
theorem grantDie_cases (s : State) (d : Nat) : grantDie s d = s ∨
    ∃ r, r.die = d ∧ grantDie s d = { s with reservations := standOne r s.reservations } := by
  unfold grantDie
  split
  · exact .inl rfl
  · split
    · exact .inl rfl
    · next r h => exact .inr ⟨r, by simpa using (List.mem_filter.1 (firstBy_eq_some h).1).2, rfl⟩

theorem grantDie_rest (s : State) (d : Nat) : { grantDie s d with reservations := [] } = { s with reservations := [] } := by
  rcases grantDie_cases s d with h | ⟨r, -, h⟩ <;> rw [h]

theorem candKey_head_grantDie (s : State) (d gid : Nat) : candKey (grantDie s d) (.head gid) = candKey s (.head gid) := by
  rcases grantDie_cases s d with h | ⟨r, -, h⟩ <;> rw [h]
  rfl

theorem filter_standOne (r : Reservation) (l : List Reservation) (d : Nat) :
    (standOne r l).filter (fun x => x.die == d) = standOne r (l.filter fun x => x.die == d) := by
  unfold standOne
  rw [List.filter_map]
  congr 1
  refine List.filter_congr fun x _ => ?_
  dsimp only [Function.comp]
  split <;> rfl

theorem standOne_other {r : Reservation} {l : List Reservation} (h : r ∉ l) : standOne r l = l := by
  unfold standOne
  refine (List.map_congr_left fun x hx => ?_).trans (List.map_id l)
  exact if_neg fun hxr : x = r => h (hxr ▸ hx)

theorem reservationsOn_grantDie_other {s : State} {d e : Nat} (h : e ≠ d) :
    reservationsOn (grantDie s e) d = reservationsOn s d := by
  rcases grantDie_cases s e with hs | ⟨r, hr, hs⟩ <;> rw [hs]
  refine (filter_standOne r s.reservations d).trans (standOne_other fun hmem => h ?_)
  rw [← hr]
  simpa using (List.mem_filter.1 hmem).2

theorem reservationsOn_grantDie (s : State) (d : Nat) :
    reservationsOn (grantDie s d) d = granted (fun gid => candKey s (.head gid)) (reservationsOn s d) := by
  unfold grantDie granted
  split
  · rfl
  · split
    · next h => rw [h]
    · next r h => rw [h]; exact filter_standOne r s.reservations d

/-- Turns of several dies grant each of them as its own turn alone does. -/
theorem reservationsOn_foldl {d : Nat} (l : List Nat) (hl : l.Nodup) (s : State) :
    reservationsOn (l.foldl grantDie s) d =
      if d ∈ l then granted (fun gid => candKey s (.head gid)) (reservationsOn s d) else reservationsOn s d := by
  induction l generalizing s with
  | nil => rfl
  | cons e l ih =>
    obtain ⟨he, hl⟩ := List.nodup_cons.1 hl
    rw [List.foldl_cons, ih hl]
    simp only [candKey_head_grantDie]
    by_cases hd : e = d
    · subst hd
      rw [if_neg he, if_pos (List.mem_cons_self ..), reservationsOn_grantDie]
    · rw [reservationsOn_grantDie_other hd]
      simp only [List.mem_cons, Ne.symm hd, false_or]

theorem reservationsOn_grantReservations (s : State) {d : Nat} (hd : d < 8) : reservationsOn (grantReservations s) d =
    granted (fun gid => candKey s (.head gid)) (reservationsOn s d) := by
  rw [grantReservations_eq, reservationsOn_foldl _ List.nodup_range, if_pos (List.mem_range.2 hd)]

theorem granted_stands {key : Nat → List Nat} {here : List Reservation} (h : ∃ r ∈ here, r.stands = true) :
    granted key here = here := if_pos (List.any_eq_true.2 h)

theorem granted_waits {key : Nat → List Nat} {here : List Reservation} (h : ∀ r ∈ here, r.stands = false)
    (hne : here ≠ []) : ∃ r ∈ here, (∀ q ∈ here, keyLess (key q.gid) (key r.gid) = false) ∧ granted key here = standOne r here := by
  have hany : here.any (·.stands) = false := List.any_eq_false.2 fun r hr => by simp [h r hr]
  cases hf : firstBy (fun r => key r.gid) here with
  | none => exact absurd (firstBy_eq_none hf) hne
  | some r =>
    obtain ⟨hr, hmin⟩ := firstBy_eq_some hf
    exact ⟨r, hr, hmin, by simp [granted, hany, hf]⟩

theorem clusterPlacement : Claims.ClusterPlacement := by
  refine ⟨fun s d gid cores => clusterPlace_head, fun s gid hgrid hready hk hnone d hd hallows => ?_,
    fun s => ⟨?_, fun d hd => ?_⟩⟩
  · exact clusterReservation_head hgrid hready hk hnone hd hallows
  · exact foldl_keeps (fun u : State => { u with reservations := [] }) grantDie grantDie_rest _ s
  · have on := reservationsOn_grantReservations s hd
    refine ⟨fun h => on.trans (granted_stands h), fun h hne => ?_⟩
    obtain ⟨r, hr, hmin, hg⟩ := granted_waits (key := fun gid => candKey s (.head gid)) h hne
    exact ⟨r, hr, hmin, on.trans hg⟩

/-- Settles O51: core numbers by arithmetic; a placement writes one context, its slots and its threads per block; of the
reservations of a die its own turn alone decides. -/
theorem blockAndClusterPlacement : Obligations.BlockAndClusterPlacement :=
  ⟨globalCoreIndices, blockPlacement, clusterPlacement⟩

end Sys2Proof.Machine
end

section
/-! Integer division (O5): how a row of R205 runs through the lane model, how a row of R229 or R230 runs on the Lectern, and
the quotients and remainders of R206 that their divisions compute. -/

namespace Sys2Proof.Machine

/-! ## Rows of 32-bit results -/

/-- An operation of the lane model with narrow operands A and B and a narrow result that computes `x` of their low words, under
the guard, with no flag raised and no random word drawn. -/
structure Alu.Computes (op : Alu) (x : Word → Word → Word) : Prop where
  narrowA : op.wa = false
  narrowB : op.wb = false
  narrowD : op.wd = false
  readsB : op.useB = true
  guarded : op.sel = false
  quiet : ∀ i, (op.fn i).flags = 0 ∧ (op.fn i).gen = i.gen
  result : ∀ i, (op.fn i).x.setWidth 32 = x (i.a.setWidth 32) (i.b.setWidth 32)

/-- Both forms of a row run through the lane model by one operation. -/
structure Claim.Row32.RunBy (e : Claim.Row32) (op : Alu) : Prop where
  reg : ∀ d w a b s, exec (e.reg d w a b) s = execAlu .base op { d, w, a, b } [] false s
  imm : ∀ d w a i s,
    exec (e.imm d w a i) s = execAlu .base op { d, w, a, imm := some (immOf s.lead i e.sext false) } [] true s
  computes : op.Computes e.x

/-- A bound LIT stands above the immediate; otherwise the row's type extends it (R144). -/
theorem immOf_word (s : State) (i : BitVec 8) (sext : Bool) :
    (immOf s.lead i sext false).setWidth 32 = Claim.immWord s i sext := by
  unfold immOf Claim.immWord
  cases s.lead.lit with
  | some l => simp
  | none => cases sext <;> simp

section
variable {s : State} {op : Alu} {x : Word → Word → Word} {d : BitVec 7} {w : BitVec 1} {a b i : BitVec 8} {imm : DWord}

theorem Alu.Computes.released_reg (h : op.Computes x) :
    released op { d, w, a, b } = freedRegs a false ++ freedRegs b false := by
  simp [released, marked, freedRegs, h.narrowA, h.narrowB, h.readsB]

theorem Alu.Computes.released_imm (h : op.Computes x) :
    released op { d, w, a, imm := some imm } = freedRegs a false := by
  simp [released, marked, freedRegs, h.narrowA]

theorem Alu.Computes.lane_reg (h : op.Computes x) (k : Nat) :
    (op.fn (laneIn s op { d, w, a, b } k (s.thread k))).x.setWidth 32 = x (s.word a k) (s.word b k) := by
  rw [h.result]
  simp [laneIn, State.word, h.narrowA, h.narrowB, h.readsB]

theorem Alu.Computes.lane_imm (h : op.Computes x) (k : Nat) :
    (op.fn (laneIn s op { d, w, a, imm := some imm } k (s.thread k))).x.setWidth 32 = x (s.word a k) (imm.setWidth 32) := by
  rw [h.result]
  simp [laneIn, State.word, h.narrowA]

/-- An instruction whose fields pass completes with the value `y` of every lane. -/
theorem Alu.Computes.execAlu_results (h : op.Computes x) {f : Fields} {lit : Bool} {y : Nat → Word} {freed : List Nat}
    (r : Runs s .base) (u : NoBlk s) (hl : lit = true ∨ NoLit s) (hf : FieldsOk s op f)
    (hy : ∀ k, (op.fn (laneIn s op f k (s.thread k))).x.setWidth 32 = y k) (hfreed : released op f = freed) :
    ∃ t, execAlu .base op f [] lit s = .next t ∧ Gives s t f.d f.w y ∧ Quiet s t ∧
      Completed s t (dstRegs f.d f.w false) freed := by
  have gives := alu_gives (s := s) (f := f) h.narrowD h.guarded
  have completed := alu_completed (s := s) (op := op) (f := f)
  rw [funext hy] at gives
  rw [h.narrowD, hfreed] at completed
  exact ⟨_, execAlu_next r u hl (fun _ hx => nomatch hx) hf, gives, alu_quiet h.quiet, completed⟩

variable {e : Claim.Row32}

theorem Claim.Row32.RunBy.reg_results (h : e.RunBy op) (r : Runs s .base) (u : NoBlk s) (l : NoLit s)
    (hd : DstOk s d w false) (ha : SrcOk s a false) (hb : SrcOk s b false) :
    ∃ t, exec (e.reg d w a b) s = .next t ∧ Gives s t d w (fun k => e.x (s.word a k) (s.word b k)) ∧ Quiet s t ∧
      Completed s t (dstRegs d w false) (freedRegs a false ++ freedRegs b false) := by
  have c := h.computes
  rw [h.reg]
  exact c.execAlu_results r u (.inr l) ⟨c.narrowD.symm ▸ hd, c.narrowA.symm ▸ ha, fun _ _ => c.narrowB.symm ▸ hb, rfl⟩
    c.lane_reg c.released_reg

theorem Claim.Row32.RunBy.imm_results (h : e.RunBy op) (r : Runs s .base) (u : NoBlk s)
    (hd : DstOk s d w false) (ha : SrcOk s a false) :
    ∃ t, exec (e.imm d w a i) s = .next t ∧ Gives s t d w (fun k => e.x (s.word a k) (Claim.immWord s i e.sext)) ∧
      Quiet s t ∧ Completed s t (dstRegs d w false) (freedRegs a false) := by
  have c := h.computes
  rw [h.imm, ← immOf_word]
  exact c.execAlu_results r u (.inl rfl) ⟨c.narrowD.symm ▸ hd, c.narrowA.symm ▸ ha, nofun, rfl⟩ c.lane_imm c.released_imm

end

/-! ## Functions of signed and unsigned words -/

theorem toDWord_setWidth (x : Int) : (toDWord x).setWidth 32 = BitVec.ofInt 32 x := by
  apply BitVec.eq_of_toNat_eq
  simp only [toDWord, BitVec.toNat_setWidth, BitVec.toNat_ofInt]
  omega

/-- A signed operation computes `g` of its words where its own function agrees with `g` in the low 32 bits. -/
theorem computes_signed {f g : Int → Int → Int} {iv : IvRow}
    (h : ∀ a b : Word, BitVec.ofInt 32 (f a.toInt b.toInt) = BitVec.ofInt 32 (g a.toInt b.toInt)) :
    ({ fn := fnI f, iv := iv } : Alu).Computes (Claim.signed g) where
  narrowA := rfl
  narrowB := rfl
  narrowD := rfl
  readsB := rfl
  guarded := rfl
  quiet _ := ⟨rfl, rfl⟩
  result _ := (toDWord_setWidth _).trans (h _ _)

theorem computes_unsigned {f g : Nat → Nat → Nat} {iv : IvRow} (h : ∀ a b, f a b = g a b) :
    ({ fn := fnN f, iv := iv } : Alu).Computes (Claim.unsigned g) where
  narrowA := rfl
  narrowB := rfl
  narrowD := rfl
  readsB := rfl
  guarded := rfl
  quiet _ := ⟨rfl, rfl⟩
  result _ := by
    rw [show f = g from funext fun a => funext (h a)]
    exact BitVec.setWidth_setWidth_of_le _ (by decide)

/-! ## Quotients and remainders (R206) -/

/-- All ones for a zero divisor, and the quotient 2^31 of −2^31 by −1, keep their low 32 bits. -/
theorem divI_quotI (a b : Int) : BitVec.ofInt 32 (divI a b) = BitVec.ofInt 32 (Claim.quotI a b) := by
  unfold divI Claim.quotI
  by_cases hb : b = 0
  · simp only [if_pos hb]
    rfl
  · by_cases ho : a = minI32 ∧ b = -1
    · obtain ⟨rfl, rfl⟩ := ho
      rfl
    · simp only [if_neg hb, if_neg ho]

theorem remI_remainI (a b : Int) : remI a b = Claim.remainI a b := by
  unfold remI Claim.remainI
  rw [Int.tmod_def]

theorem divN_quotN (a b : Nat) : divN a b = Claim.quotN a b := rfl

theorem remN_remainN (a b : Nat) : remN a b = Claim.remainN a b := by
  unfold remN Claim.remainN
  rw [Nat.mod_eq_sub_mul_div]

theorem rowsDiv_runBy {e : Claim.Row32} (he : e ∈ Claim.rowsDiv) : ∃ op, e.RunBy op := by
  simp only [Claim.rowsDiv, List.mem_cons, List.not_mem_nil, or_false] at he
  rcases he with rfl | rfl | rfl | rfl
  · exact ⟨aluDivI32, fun _ _ _ _ _ => rfl, fun _ _ _ _ _ => rfl, computes_signed fun _ _ => divI_quotI _ _⟩
  · exact ⟨aluDivN32, fun _ _ _ _ _ => rfl, fun _ _ _ _ _ => rfl, computes_unsigned divN_quotN⟩
  · exact ⟨aluRemI32, fun _ _ _ _ _ => rfl, fun _ _ _ _ _ => rfl,
      computes_signed fun _ _ => congrArg _ (remI_remainI _ _)⟩
  · exact ⟨aluRemN32, fun _ _ _ _ _ => rfl, fun _ _ _ _ _ => rfl, computes_unsigned remN_remainN⟩

theorem laneDivision : Claims.LaneDivision := by
  refine ⟨fun e he s d w a b r u hd ha => ?_, by decide, by decide⟩
  obtain ⟨op, run⟩ := rowsDiv_runBy he
  exact ⟨fun l hb => run.reg_results r u l hd ha hb, run.imm_results r u hd ha⟩

/-! ## The Lectern writes an entry (R173) -/

/-- Register qn of the Lectern after an entry. -/
def qAfter (s : State) (e : DqEntry) : Nat → DWord :=
  match e.wq with
  | some (d, some x) => Claim.qWith s d x
  | _ => Claim.q s

theorem block_modBlock {s : State} {b : Nat} {f : Block → Block} (h : (tabGet s.blocks b).isSome) :
    (s.modBlock b f).block b = f (s.block b) := by
  obtain ⟨x, hx⟩ := Option.isSome_iff_exists.1 h
  simp only [State.block, State.modBlock_blocks, tabGetD, tabGet_modify, if_pos, hx, Option.map_some, Option.getD_some]

section
variable {s : State} (e : DqEntry) (wait : Bool)

theorem pushEntry_q (h : (tabGet s.blocks s.issueBlock).isSome) (n : Nat) :
    Claim.q (pushEntry s e wait) n = qAfter s e n := by
  have hlect : (pushEntry s e wait).lect.q =
      match e.wq with
      | some (d, some x) => tabSet s.lect.q d x
      | _ => s.lect.q := congrArg (·.lect.q) (block_modBlock h)
  rw [Claim.q, hlect]
  unfold qAfter
  rcases e.wq with _ | ⟨d, _ | x⟩
  · rfl
  · rfl
  · exact tabGetD_set ..

theorem pushEntry_entered (h : (tabGet s.blocks s.issueBlock).isSome) :
    Claim.Entered s (pushEntry s e wait) e (qAfter s e) wait := by
  have hb : (pushEntry s e wait).block s.issueBlock = _ := block_modBlock h
  have hlect : (pushEntry s e wait).lect = _ := congrArg Block.lect hb
  constructor
  case dq | committed => rw [hb]
  case pc | hints | wait => rw [hlect]
  case q => exact pushEntry_q e wait h
  case others =>
    intro b hne
    rw [pushEntry, State.modBlock_blocks, tabGet_modify, if_neg hne]
  case rest => rfl

end

/-! ## UOP and UCMP on the Lectern (R227, R229, R230) -/

theorem hintChecks_lit {t : Thread} (h : t.hints.bind (·.blk) = none) : ∀ x ∈ hintChecks t true false false, x.2 = false := by
  cases e : t.hints <;> simp_all [hintChecks]

theorem onUniform_lectern {s : State} {checks : List (Nat × Bool)} {value : Option (Nat → DWord)} {effect : State → State}
    (h : s.issue.agent = .lectern) (hc : ∀ x ∈ checks, x.2 = false) :
    onUniform s .base checks value effect = .next (effect s) := by
  simp [onUniform, h, lowestReason_none hc, Class.onDie]

theorem execUop_entered {s : State} (h : Claim.LectRuns s) (sext : Bool) (f : DWord → DWord → DWord) (d a b : BitVec 6)
    (i : BitVec 1) :
    let x := f (Claim.q s a.toNat) (Claim.second s b i sext)
    ∃ t, execUop sext f d a b i s = .next t ∧
      Claim.Entered s t { Claim.entry s with wq := some (d.toNat, some x) } (Claim.qWith s d.toNat x) false := by
  have hlead : (uniLead s).hints = s.lect.hints := by rw [uniLead, if_pos h.agent]
  exact ⟨_, onUniform_lectern h.agent (hintChecks_lit (hlead ▸ h.blk)), pushEntry_entered _ _ h.block⟩

/-! ## Divisions of the Lectern (R57, R206, R229) -/

theorem uremI_eq (a b : DWord) :
    uremI a b = if b = 0 then a else BitVec.ofInt 64 (a.toInt - b.toInt * a.toInt.tdiv b.toInt) := by
  unfold uremI toDWord
  rw [Int.tmod_def]

theorem udivRows_exec {e : Claim.UniRow} (he : e ∈ Claim.udivRows) (d a b : BitVec 6) (i : BitVec 1) (s : State) :
    exec (e.form d a b i) s = execUop e.sext e.x d a b i s := by
  simp only [Claim.udivRows, List.mem_cons, List.not_mem_nil, or_false] at he
  rcases he with rfl | rfl | rfl | rfl
  · rfl
  · rfl
  · rfl
  · exact congrArg (execUop true · d a b i s) (funext fun a => funext (uremI_eq a))

theorem uniformDivision : Claims.UniformDivision := by
  refine ⟨fun s h e he d a b i => ?_, by decide⟩
  simp only [udivRows_exec he]
  exact execUop_entered h e.sext e.x d a b i

/-- Settles O5: every division is one element of the lane model or one entry of the Lectern, and the model's quotients and
remainders are those of R206 in the bits that the result keeps. -/
theorem divisionResults : Obligations.DivisionResults := ⟨laneDivision, uniformDivision⟩

end Sys2Proof.Machine
end

section
/-! FMIN and FMAX (O17): a pattern that is no NaN comes back from decoding and rounding, the order of R242 on the values is the
order of the patterns' keys, and a quiet operation of the lane model gives the lanes of a claim. -/

namespace Sys2Proof.Machine

/-! ## What a pattern stands for (R59, R60) -/

/-- The magnitude bits of a pattern. -/
def FFmt.mag (f : FFmt) (x : Nat) : Nat := x % 2 ^ (f.width - 1)

/-- The sign bit of a pattern. -/
def FFmt.negative (f : FFmt) (x : Nat) : Bool := bitNat x (f.width - 1)

theorem FFmt.width_pred (f : FFmt) : f.width - 1 = f.fw + f.ew := by
  unfold FFmt.width
  omega

theorem FFmt.two_pow_width (f : FFmt) : 2 ^ f.width = 2 ^ (f.width - 1) * 2 := by
  rw [← Nat.pow_succ, f.width_pred]
  congr 1
  unfold FFmt.width
  omega

section
variable {f : FFmt} {x y : Nat}

theorem negative_eq (hx : x < 2 ^ f.width) : f.negative x = decide (2 ^ (f.width - 1) ≤ x) := by
  have hp : 0 < 2 ^ (f.width - 1) := Nat.two_pow_pos _
  have hq : x / 2 ^ (f.width - 1) < 2 := Nat.div_lt_of_lt_mul (f.two_pow_width ▸ hx)
  rw [FFmt.negative, bitNat, Bool.eq_iff_iff, beq_iff_eq, Nat.mod_eq_of_lt hq, decide_eq_true_iff,
    ← Nat.one_le_div_iff hp]
  omega

/-- A pattern is its sign bit above its magnitude bits. -/
theorem sign_add_mag (hx : x < 2 ^ f.width) : f.sign (f.negative x) + f.mag x = x := by
  have hw := f.two_pow_width
  rw [negative_eq hx, FFmt.sign, FFmt.mag]
  by_cases h : 2 ^ (f.width - 1) ≤ x
  · rw [if_pos (decide_eq_true h), Nat.mod_eq_sub_mod h, Nat.mod_eq_of_lt (by omega), Nat.add_sub_cancel' h]
  · rw [if_neg (by simpa using h), Nat.mod_eq_of_lt (Nat.lt_of_not_le h), Nat.zero_add]

/-- The key of a sign and magnitude bits: −0 stands just below +0. -/
def signedKey (neg : Bool) (g : Nat) : Int := if neg then -1 - (g : Int) else g

theorem orderKey_eq (hx : x < 2 ^ f.width) : Claim.orderKey f x = signedKey (f.negative x) (f.mag x) := by
  have hs := sign_add_mag hx
  have hp : ((2 ^ (f.width - 1) : Nat) : Int) = 2 ^ (f.width - 1) := by push_cast; rfl
  rw [negative_eq hx, FFmt.sign] at hs
  rw [negative_eq hx, Claim.orderKey, signedKey]
  by_cases h : 2 ^ (f.width - 1) ≤ x
  · rw [if_pos (decide_eq_true h)] at hs
    rw [if_neg (Nat.not_lt.2 h), if_pos (decide_eq_true h)]
    omega
  · rw [if_neg (by simpa using h)] at hs
    rw [if_pos (Nat.lt_of_not_le h), if_neg (by simpa using h)]
    omega

/-- Decoding reads the sign and the two fields of the magnitude. -/
theorem decode_eq (hf : 0 < f.ew) : f.decode x =
    if f.mag x / 2 ^ f.fw = f.top then (if f.mag x % 2 ^ f.fw = 0 then .inf (f.negative x) else .nan)
    else if f.mag x / 2 ^ f.fw = 0 then .fin (f.negative x) (f.mag x % 2 ^ f.fw) f.step
    else .fin (f.negative x) (f.mag x % 2 ^ f.fw + 2 ^ f.fw) (f.step + (f.mag x / 2 ^ f.fw : Nat) - 1) := by
  have he : bitsNat x (f.width - 2) f.fw = f.mag x / 2 ^ f.fw := by
    rw [bitsNat, FFmt.mag, f.width_pred, Nat.pow_add, Nat.mod_mul_right_div_self,
      show f.width - 2 + 1 - f.fw = f.ew by unfold FFmt.width; omega]
  have hm : x % 2 ^ f.fw = f.mag x % 2 ^ f.fw := by
    rw [FFmt.mag, f.width_pred, Nat.mod_mod_of_dvd _ (Nat.pow_dvd_pow 2 (Nat.le_add_right _ _))]
  unfold FFmt.decode
  simp only [he, hm]
  rfl

/-- The exponent field of a magnitude fits its width. -/
theorem mag_div_le_top : f.mag x / 2 ^ f.fw ≤ f.top := by
  have hlt : f.mag x < 2 ^ f.fw * 2 ^ f.ew := by
    rw [FFmt.mag, f.width_pred, ← Nat.pow_add]
    exact Nat.mod_lt _ (Nat.two_pow_pos _)
  exact Nat.le_sub_one_of_lt (Nat.div_lt_of_lt_mul hlt)

/-- A finite value in units of 2^k least steps: the significand and k are those of a normal or a subnormal number. -/
structure FFmt.Canonical (f : FFmt) (m k : Nat) : Prop where
  fits : m < 2 * 2 ^ f.fw
  normal : k ≠ 0 → 2 ^ f.fw ≤ m

theorem decode_finite (hf : 0 < f.ew) (h : f.mag x < f.top * 2 ^ f.fw) :
    ∃ m k : Nat, f.decode x = .fin (f.negative x) m (f.step + k) ∧ f.Canonical m k ∧ k * 2 ^ f.fw + m = f.mag x := by
  have hp : 0 < 2 ^ f.fw := Nat.two_pow_pos _
  have hm := Nat.mod_lt (f.mag x) hp
  have hd := Nat.div_add_mod' (f.mag x) (2 ^ f.fw)
  rw [decode_eq hf, if_neg (Nat.ne_of_lt (Nat.div_lt_of_lt_mul (by rwa [Nat.mul_comm])))]
  split
  · rename_i he
    rw [he, Nat.zero_mul, Nat.zero_add] at hd
    exact ⟨f.mag x % 2 ^ f.fw, 0, by simp, ⟨by omega, nofun⟩, by omega⟩
  · rename_i he
    obtain ⟨k, hk⟩ := Nat.exists_eq_succ_of_ne_zero he
    rw [hk, Nat.succ_mul] at hd
    refine ⟨f.mag x % 2 ^ f.fw + 2 ^ f.fw, k, ?_, ⟨by omega, fun _ => by omega⟩, by omega⟩
    rw [hk]
    congr 1
    push_cast
    omega

theorem decode_infinite (hf : 0 < f.ew) (h : f.mag x = f.top * 2 ^ f.fw) : f.decode x = .inf (f.negative x) := by
  rw [decode_eq hf, h, Nat.mul_div_cancel _ (Nat.two_pow_pos _), if_pos rfl, Nat.mul_mod_left, if_pos rfl]

theorem decode_nan (hf : 0 < f.ew) (h : f.top * 2 ^ f.fw < f.mag x) : f.decode x = .nan := by
  have hp : 0 < 2 ^ f.fw := Nat.two_pow_pos _
  have he : f.mag x / 2 ^ f.fw = f.top := 
    Nat.le_antisymm mag_div_le_top ((Nat.le_div_iff_mul_le hp).2 (Nat.le_of_lt h))
  have hd := Nat.div_add_mod' (f.mag x) (2 ^ f.fw)
  rw [he] at hd
  rw [decode_eq hf, if_pos he, if_neg (by omega)]

theorem nanBits_iff : Claim.nanBits f x = true ↔ f.top * 2 ^ f.fw < f.mag x := decide_eq_true_iff

theorem isNan_decode (hf : 0 < f.ew) : (f.decode x).isNan = Claim.nanBits f x := by
  rw [Bool.eq_iff_iff, nanBits_iff]
  rcases Nat.lt_trichotomy (f.mag x) (f.top * 2 ^ f.fw) with h | h | h
  · obtain ⟨m, k, hd, -⟩ := decode_finite hf h
    rw [hd]
    exact iff_of_false nofun (Nat.lt_asymm h)
  · rw [decode_infinite hf h, h]
    exact iff_of_false nofun (Nat.lt_irrefl _)
  · rw [decode_nan hf h]
    exact iff_of_true rfl h

/-! ## Rounding a decoded pattern -/

/-- The last place of a canonical value is its own unit. -/
theorem FFmt.Canonical.unitOf_eq {m k : Nat} (h : f.Canonical m k) : unitOf f.fw f.step m (f.step + k) = f.step + k := by
  obtain ⟨hfit, hnorm⟩ := h
  have hp : 0 < 2 ^ f.fw := Nat.two_pow_pos _
  unfold unitOf natLen
  by_cases hm : m = 0
  · have hk : k = 0 := Decidable.by_contra fun hk => by have := hnorm hk; omega
    simp [hm, hk]
  · have hle : m.log2 ≤ f.fw := Nat.lt_succ_iff.1 ((Nat.log2_lt hm).2 (by rw [Nat.pow_succ]; omega))
    have hge : k ≠ 0 → f.fw ≤ m.log2 := fun hk => (Nat.le_log2 hm).2 (hnorm hk)
    rw [if_neg hm, if_neg hm]
    push_cast
    omega

theorem round_canonical {m k : Nat} (rm : Rm) (r : Nat) (neg : Bool) (h : f.Canonical m k)
    (hlt : k * 2 ^ f.fw + m < f.top * 2 ^ f.fw) :
    f.round rm r (.fin neg m (f.step + k)) = f.sign neg + (k * 2 ^ f.fw + m) := by
  have hq : (f.step + k - f.step).toNat = k := by omega
  simp only [FFmt.round, h.unitOf_eq, roundUnits, Int.le_refl, if_true, Int.sub_self, Int.toNat_zero, Nat.pow_zero,
    Nat.mul_one, hq, if_neg (Nat.not_le.2 hlt)]

/-- No mode changes a pattern that is no NaN (R72). -/
theorem round_decode (hf : 0 < f.ew) (hx : x < 2 ^ f.width) (hn : Claim.nanBits f x = false) (rm : Rm) (r : Nat) :
    f.round rm r (f.decode x) = x := by
  rw [← Bool.not_eq_true, nanBits_iff, Nat.not_lt] at hn
  refine Eq.trans ?_ (sign_add_mag hx)
  rcases Nat.lt_or_eq_of_le hn with h | h
  · obtain ⟨m, k, hd, hc, hm⟩ := decode_finite hf h
    rw [hd, round_canonical rm r _ hc (by rwa [hm]), hm]
  · rw [decode_infinite hf h, h]
    rfl

/-! ## The order of decoded patterns (R242) -/

/-- A significand stands at a lower exponent as itself times the power between. -/
theorem sigAt_mul {m : Nat} {neg : Bool} {e lo least : Int} (h : least ≤ lo) (hlo : lo ≤ e) :
    sigAt neg m e least = sigAt neg m e lo * ((2 ^ (lo - least).toNat : Nat) : Int) := by
  have hexp : (e - least).toNat = (e - lo).toNat + (lo - least).toNat := by omega
  have hmag : m * 2 ^ (e - least).toNat = m * 2 ^ (e - lo).toNat * 2 ^ (lo - least).toNat := by
    rw [hexp, Nat.pow_add, Nat.mul_assoc]
  simp only [sigAt, hmag, Int.natCast_mul]
  cases neg
  · rfl
  · exact (Int.neg_mul _ _).symm

/-- Finite values compare as their significands at any common exponent. -/
theorem cmp_fin {a b : Bool} {m n : Nat} {e d least : Int} (he : least ≤ e) (hd : least ≤ d) :
    (Fl.fin a m e).cmp (.fin b n d) = (sigAt a m e least - sigAt b n d least).sign := by
  have hlo : least ≤ min e d := Int.le_min.2 ⟨he, hd⟩
  have hpow : (((2 ^ (min e d - least).toNat : Nat) : Int)).sign = 1 :=
    Int.sign_eq_one_of_pos (Int.natCast_pos.2 (Nat.two_pow_pos _))
  rw [sigAt_mul hlo (Int.min_le_left e d), sigAt_mul hlo (Int.min_le_right e d), ← Int.sub_mul, Int.sign_mul, hpow,
    Int.mul_one]
  simp only [Fl.cmp]
  rcases Int.lt_trichotomy (sigAt a m e (min e d) - sigAt b n d (min e d)) 0 with h | h | h
  · rw [if_pos h, Int.sign_eq_neg_one_of_neg h]
  · rw [h]
    rfl
  · rw [if_neg (Int.not_lt.2 (Int.le_of_lt h)), if_neg (Int.ne_of_gt h), Int.sign_eq_one_of_pos h]

/-- The larger exponent has the larger magnitude bits and the larger magnitude. -/
theorem FFmt.Canonical.lt_of_exponent {m n k l : Nat} (hm : f.Canonical m k) (hn : f.Canonical n l) (hkl : k < l) :
    k * 2 ^ f.fw + m < l * 2 ^ f.fw + n ∧ m * 2 ^ k < n * 2 ^ l := by
  have hfit := hm.fits
  have hnorm := hn.normal (by omega)
  constructor
  · have : (k + 1) * 2 ^ f.fw ≤ l * 2 ^ f.fw := Nat.mul_le_mul_right _ hkl
    rw [Nat.succ_mul] at this
    omega
  · calc m * 2 ^ k < 2 * 2 ^ f.fw * 2 ^ k := Nat.mul_lt_mul_of_pos_right hfit (Nat.two_pow_pos _)
      _ = 2 ^ f.fw * 2 ^ (k + 1) := by rw [Nat.mul_comm 2, Nat.mul_assoc, ← Nat.pow_succ']
      _ ≤ n * 2 ^ l := Nat.mul_le_mul hnorm (Nat.pow_le_pow_right (by decide) hkl)

/-- Magnitude bits are in the order of the magnitudes. -/
theorem FFmt.Canonical.lt_iff {m n k l : Nat} (hm : f.Canonical m k) (hn : f.Canonical n l) :
    k * 2 ^ f.fw + m < l * 2 ^ f.fw + n ↔ m * 2 ^ k < n * 2 ^ l := by
  rcases Nat.lt_trichotomy k l with h | rfl | h
  · obtain ⟨hbits, hmag⟩ := hm.lt_of_exponent hn h
    exact iff_of_true hbits hmag
  · rw [Nat.mul_lt_mul_right (Nat.two_pow_pos _)]
    omega
  · obtain ⟨hbits, hmag⟩ := hn.lt_of_exponent hm h
    exact iff_of_false (Nat.lt_asymm hbits) (Nat.lt_asymm hmag)

theorem sigAt_step (neg : Bool) (m k : Nat) :
    sigAt neg m (f.step + k) f.step = if neg then -((m * 2 ^ k : Nat) : Int) else ((m * 2 ^ k : Nat) : Int) := by
  have hexp : (f.step + k - f.step).toNat = k := by omega
  rw [sigAt, hexp]

theorem below_iff (p q : Fl) :
    p.below q = true ↔ p.cmp q = -1 ∨ p.cmp q = 0 ∧ p.isNeg = true ∧ q.isNeg = false := by
  simp only [Fl.below, Bool.or_eq_true, Bool.and_eq_true, beq_iff_eq, Bool.not_eq_true', and_assoc]

theorem below_canonical {m n k l : Nat} (a b : Bool) (hm : f.Canonical m k) (hn : f.Canonical n l) :
    (Fl.fin a m (f.step + k)).below (.fin b n (f.step + l)) =
      decide (signedKey a (k * 2 ^ f.fw + m) < signedKey b (l * 2 ^ f.fw + n)) := by
  have hlt := hm.lt_iff hn
  have hgt := hn.lt_iff hm
  rw [Bool.eq_iff_iff, below_iff, decide_eq_true_iff, cmp_fin (least := f.step) (by omega) (by omega), sigAt_step,
    sigAt_step, Int.sign_eq_neg_one_iff_neg, Int.sign_eq_zero_iff_zero]
  generalize k * 2 ^ f.fw + m = g, l * 2 ^ f.fw + n = h, m * 2 ^ k = u, n * 2 ^ l = v at *
  simp only [signedKey, Fl.isNeg]
  cases a <;> cases b <;>
    simp only [if_true, if_false, reduceCtorEq, and_true, and_false, or_false] <;> omega

theorem below_inf_fin (a b : Bool) (n : Nat) (d : Int) : (Fl.inf a).below (.fin b n d) = a := by cases a <;> rfl

theorem below_fin_inf (a b : Bool) (m : Nat) (e : Int) : (Fl.fin a m e).below (.inf b) = !b := by cases b <;> rfl

theorem below_inf_inf (a b : Bool) : (Fl.inf a).below (.inf b) = (a && !b) := by cases a <;> cases b <;> rfl

theorem signedKey_lt_inf {g t : Nat} (a b : Bool) (h : g < t) : decide (signedKey a g < signedKey b t) = !b := by
  cases a <;> cases b <;> simp [signedKey] <;> omega

theorem signedKey_inf_lt {g t : Nat} (a b : Bool) (h : g < t) : decide (signedKey a t < signedKey b g) = a := by
  cases a <;> cases b <;> simp [signedKey] <;> omega

theorem signedKey_lt_same (a b : Bool) (t : Nat) : decide (signedKey a t < signedKey b t) = (a && !b) := by
  cases a <;> cases b <;> simp [signedKey] <;> omega

/-- −0 below +0, and every other pair of patterns that are no NaN in the order of their values. -/
theorem below_decode (hf : 0 < f.ew) (hx : x < 2 ^ f.width) (hy : y < 2 ^ f.width) (hnx : Claim.nanBits f x = false)
    (hny : Claim.nanBits f y = false) :
    (f.decode x).below (f.decode y) = decide (Claim.orderKey f x < Claim.orderKey f y) := by
  rw [← Bool.not_eq_true, nanBits_iff, Nat.not_lt] at hnx hny
  rw [orderKey_eq hx, orderKey_eq hy]
  rcases Nat.lt_or_eq_of_le hnx with h | h <;> rcases Nat.lt_or_eq_of_le hny with g | g
  · obtain ⟨m, k, hd, hc, hm⟩ := decode_finite hf h
    obtain ⟨n, l, hd', hc', hn⟩ := decode_finite hf g
    rw [hd, hd', below_canonical _ _ hc hc', hm, hn]
  · obtain ⟨m, k, hd, -⟩ := decode_finite hf h
    rw [hd, decode_infinite hf g, below_fin_inf, g, signedKey_lt_inf _ _ h]
  · obtain ⟨n, l, hd, -⟩ := decode_finite hf g
    rw [hd, decode_infinite hf h, below_inf_fin, h, signedKey_inf_lt _ _ g]
  · rw [decode_infinite hf h, decode_infinite hf g, below_inf_inf, h, g, signedKey_lt_same]

end

/-! ## The operand that FMIN and FMAX return -/

/-- The two patterns are decoded, one is picked, and its rounding is the pattern that R242 names. -/
theorem fnPick_eq_extreme {f : FFmt} (hf : 0 < f.ew) (greater : Bool) (a b : DWord) (gen : Word) :
    fnPick f greater a b gen = { x := Claim.extreme f greater a b, gen } := by
  have hx : a.toNat % 2 ^ f.width < 2 ^ f.width := Nat.mod_lt _ (Nat.two_pow_pos _)
  have hy : b.toNat % 2 ^ f.width < 2 ^ f.width := Nat.mod_lt _ (Nat.two_pow_pos _)
  unfold fnPick Claim.extreme flOf Fl.pick
  generalize a.toNat % 2 ^ f.width = x, b.toNat % 2 ^ f.width = y at *
  simp only [isNan_decode hf]
  cases hnx : Claim.nanBits f x <;> cases hny : Claim.nanBits f y
  · simp only [below_decode hf hx hy hnx hny, Bool.false_eq_true, Bool.and_self, if_false]
    by_cases h : Claim.orderKey f x < Claim.orderKey f y <;> cases greater <;>
      simp [h, round_decode hf hx hnx, round_decode hf hy hny]
  · simp [round_decode hf hx hnx]
  · simp [round_decode hf hy hny]
  · have hnan : f.decode y = .nan := decode_nan hf (nanBits_iff.1 hny)
    simp [hnan, FFmt.round]

/-! ## Lanes of a quiet operation -/

/-- A narrow source is a word, zero-extended. -/
theorem srcValue_narrow (s : State) (k : Nat) (t : Thread) (code : Nat) :
    ((srcValue s k t false code).setWidth 32 : Word).setWidth 64 = srcValue s k t false code := by
  have hlt : (srcValue s k t false code).toNat < 2 ^ 32 := by
    unfold srcValue
    split
    · simp only [Bool.false_eq_true, if_false, BitVec.toNat_setWidth]
      omega
    · simp only [Bool.false_eq_true, if_false, BitVec.toNat_and]
      exact Nat.lt_of_le_of_lt Nat.and_le_right (by decide)
  apply BitVec.eq_of_toNat_eq
  simp only [BitVec.toNat_setWidth]
  omega

theorem srcValue_operand (s : State) (wide : Bool) (a : BitVec 8) (k : Nat) :
    srcValue s k (s.thread k) wide (codeOf a) = Claim.operand s wide a k := by
  cases wide
  · exact (srcValue_narrow ..).symm
  · rfl

theorem srcValue_before {s : State} {d : BitVec 7} (hd : d.toNat < 96) (wide : Bool) (k : Nat) :
    srcValue s k (s.thread k) wide d.toNat = Claim.before s wide d k := if_pos hd

/-- An operation under the guard whose lanes raise no flag and draw nothing gives the lanes of a claim. -/
theorem alu_lanes {s : State} {op : Alu} {f : Fields} (hs : op.sel = false)
    (hq : ∀ i, (op.fn i).flags = 0 ∧ (op.fn i).gen = i.gen) :
    Claim.Lanes s (advanceAll (elemStep s op f) (f.w = 1) (latchOf s op f)) f.d f.w op.wd (released op f)
      fun k => op.fn (laneIn s op f k (s.thread k)) where
  word hd := alu_gives hd hs
  pair hd := alu_givesPair hd hs
  gen k _ := by
    rw [alu_gens (fun i => (hq i).2), (hq _).2]
    exact (ite_self _).symm
  flags g _ := by
    rw [alu_flags (fun i => (hq i).1)]
    simp only [(hq _).1]
    exact (foldl_keeps id _ (fun _ _ => by simp) _ _).symm
  preds := alu_preds s op f
  rest := alu_completed

/-- An instruction of formats R and U whose fields pass completes with the lanes `out`. -/
theorem execAlu_lanes {s : State} {c : Class} {op : Alu} {f : Fields} {more : List (Nat × Bool)} {out : Nat → LaneOut}
    (r : Runs s c) (u : NoBlk s) (l : NoLit s) (hm : ∀ x ∈ more, x.2 = false) (hf : FieldsOk s op f) (hs : op.sel = false)
    (hq : ∀ i, (op.fn i).flags = 0 ∧ (op.fn i).gen = i.gen) (hout : ∀ k, op.fn (laneIn s op f k (s.thread k)) = out k) :
    ∃ t, execAlu c op f more false s = .next t ∧ Claim.Lanes s t f.d f.w op.wd (released op f) out :=
  ⟨_, execAlu_next r u (.inr l) hm hf, funext hout ▸ alu_lanes hs hq⟩

/-! ## The instructions (R241, R242) -/

section
variable {s : State} {f : FFmt} {wide greater : Bool} {c : Class} {d : BitVec 7} {w : BitVec 1} {a b : BitVec 8}

/-- FMIN and FMAX of format R. -/
theorem execFPick_lanes (hf : 0 < f.ew) (hw : (f == f64) = wide) (r : Runs s .base) (u : NoBlk s) (l : NoLit s)
    (hd : DstOk s d w wide) (ha : SrcOk s a wide) (hb : SrcOk s b wide) :
    ∃ t, execFPick f greater d w a b s = .next t ∧
      Claim.Lanes s t d w wide (freedRegs a wide ++ freedRegs b wide) fun k =>
        { x := Claim.extreme f greater (Claim.operand s wide a k) (Claim.operand s wide b k), gen := (s.thread k).gen } := by
  subst hw
  have hfreed : freedRegs a (f == f64) ++ freedRegs b (f == f64) =
      released (aluF f false true fun i => fnPick f greater i.a i.b i.gen) { d, w, a, b } := by
    simp [released, marked, freedRegs, aluF]
  rw [hfreed]
  refine execAlu_lanes (f := { d, w, a, b }) r u l nofun ⟨hd, ha, fun _ _ => hb, rfl⟩ rfl (fun _ => ⟨rfl, rfl⟩) fun k => ?_
  simp only [laneIn, aluF, if_true, srcValue_operand, fnPick_eq_extreme hf]

/-- FMIN and FMAX of FMOD, whose first operand is the destination. -/
theorem execFmodIn_pick_lanes {more : List (Nat × Bool)} (hf : 0 < f.ew) (hw : (f == f64) = wide)
    (hm : ∀ x ∈ more, x.2 = false) (h0 : w = 0) (r : Runs s c) (u : NoBlk s) (l : NoLit s)
    (hd : DstOk s d w wide) (ha : SrcOk s a wide) :
    ∃ t, execFmodIn c f true false (fun i => fnPick f greater i.c i.a i.gen) d w a more s = .next t ∧
      Claim.Lanes s t d w wide (freedRegs a wide) fun k =>
        { x := Claim.extreme f greater (Claim.before s wide d k) (Claim.operand s wide a k), gen := (s.thread k).gen } := by
  subst hw h0
  have hreg := (hd.reg rfl).1
  have hfreed : freedRegs a (f == f64) =
      released (aluF f true false fun i => fnPick f greater i.c i.a i.gen) { d, w := 0, a } := by
    simp [released, marked, freedRegs, aluF]
  rw [hfreed]
  refine execAlu_lanes (f := { d, w := 0, a }) r u l ?_ ⟨hd, ha, nofun, rfl⟩ rfl (fun _ => ⟨rfl, rfl⟩) fun k => ?_
  · simpa using hm
  · simp only [laneIn, aluF, if_true, srcValue_operand, srcValue_before hreg, fnPick_eq_extreme hf]

end

/-- The formats of a type field are narrow (R241). -/
theorem fmtOf_narrow (t : Nat) : 0 < (fmtOf t).ew ∧ (fmtOf t == f64) = false := by
  unfold fmtOf
  split
  · decide
  · split <;> decide

/-- Settles O17: every form is one element of the lane model whose function picks one of two decoded patterns; decoding keeps the
order of the patterns' keys, and rounding gives the picked pattern back. -/
theorem floatMinMax : Obligations.FloatMinMax := by
  intro s a b d w u l
  refine ⟨fun e he r hd ha hb => ?_, fun e he t h3 h0 hw r hd ha => ?_, fun e he hw r hd ha => ?_⟩ <;>
    simp only [List.mem_cons, List.not_mem_nil, or_false] at he
  · rcases he with rfl | rfl <;> exact execFPick_lanes (by decide) rfl r u l hd ha hb
  · obtain ⟨hf, hn⟩ := fmtOf_narrow t.toNat
    have typed : ∀ x ∈ [((3 : Nat), decide (t = 0) || decide (t = 3))], x.2 = false := by
      simp only [List.mem_singleton, forall_eq, h0, h3, decide_false, Bool.or_self]
    rcases he with rfl | rfl <;> exact execFmodIn_pick_lanes hf hn typed hw r u l hd ha
  · rcases he with rfl | rfl <;> exact execFmodIn_pick_lanes (by decide) rfl nofun hw r u l hd ha

end Sys2Proof.Machine
end

section
/-! Values per lane (O36, O37): what last uses, flags and a write of the destination change of a bundle, and what holds when the
bundle then falls through. -/

namespace Sys2Proof.Machine

/-! ## Registers of the enabled members -/

theorem tabGetD_over {α : Type} (t : Tab α) (ks : List Nat) (f : Nat → α → α) (j : Nat) (d : α) :
    tabGetD (tabOver t ks f) j d = if j ∈ ks ∧ (tabGet t j).isSome then f j (tabGetD t j d) else tabGetD t j d := by
  unfold tabGetD
  rw [tabGet_over]
  cases h : tabGet t j <;> by_cases hj : j ∈ ks <;> simp [hj]

/-- Only v registers of enabled members, and what their groups keep beside them (mapped rows, shadows, tags, flags), differ. -/
structure RegsOnly (s u : State) : Prop where
  rest : u.rest = s.rest
  cores : u.cores = s.cores
  groups : ∀ g, (u.group g).rest = (s.group g).rest
  threads : ∀ k, ∃ v, tabGet u.threads k = (tabGet s.threads k).map fun t => { t with v := v }
  others : ∀ k, k ∉ s.enabled → tabGet u.threads k = tabGet s.threads k

section
variable {s u t : State}

theorem RegsOnly.issue (h : RegsOnly s u) : u.issue = s.issue :=
  (congrArg State.issue h.rest :)

theorem RegsOnly.thread (h : RegsOnly s u) (k : Nat) : ∃ v, u.thread k = { s.thread k with v := v } := by
  obtain ⟨v, hv⟩ := h.threads k
  unfold State.thread tabGetD
  rw [hv]
  cases tabGet s.threads k with
  | none => exact ⟨[], rfl⟩
  | some t => exact ⟨v, rfl⟩

/-- A field of a thread other than its registers is the same. -/
theorem RegsOnly.field {γ : Type} (h : RegsOnly s u) (p : Thread → γ) (hp : ∀ t v, p { t with v := v } = p t) (k : Nat) :
    p (u.thread k) = p (s.thread k) := by
  obtain ⟨v, hv⟩ := h.thread k
  rw [hv, hp]

theorem RegsOnly.enabled_thread (h : RegsOnly s u) (k : Nat) : (u.thread k).enabled = (s.thread k).enabled :=
  h.field Thread.enabled (fun _ _ => rfl) k

theorem RegsOnly.members (h : RegsOnly s u) : u.members = s.members :=
  (congrArg Issue.members h.issue :)

theorem RegsOnly.enabled (h : RegsOnly s u) : u.enabled = s.enabled := by
  unfold State.enabled
  rw [h.members]
  exact List.filter_congr fun k _ => h.enabled_thread k

theorem RegsOnly.isSome (h : RegsOnly s u) (k : Nat) : (tabGet u.threads k).isSome = (tabGet s.threads k).isSome := by
  obtain ⟨v, hv⟩ := h.threads k
  rw [hv, Option.isSome_map]

theorem RegsOnly.issues (h : RegsOnly s u) (k : Nat) : u.issues k ↔ s.issues k := by
  unfold State.issues
  rw [h.issue, h.isSome]

theorem RegsOnly.trans (h : RegsOnly s u) (h' : RegsOnly u t) : RegsOnly s t where
  rest := h'.rest.trans h.rest
  cores := h'.cores.trans h.cores
  groups g := (h'.groups g).trans (h.groups g)
  threads k := by
    obtain ⟨v, hv⟩ := h.threads k
    obtain ⟨v', hv'⟩ := h'.threads k
    exact ⟨v', by rw [hv', hv, Option.map_map]; rfl⟩
  others k hk := (h'.others k (h.enabled.symm ▸ hk)).trans (h.others k hk)

theorem RegsOnly.refl (s : State) : RegsOnly s s where
  rest := rfl
  cores := rfl
  groups _ := rfl
  threads k := ⟨(s.thread k).v, by unfold State.thread tabGetD; cases tabGet s.threads k <;> rfl⟩
  others _ _ := rfl

/-- A change of groups but for what `Group.rest` keeps. -/
theorem regsOnly_of_groups {gs : List Nat} {f : Nat → Group → Group} (hf : ∀ g x, (f g x).rest = x.rest) :
    RegsOnly s { s with groups := tabOver s.groups gs f } where
  rest := rfl
  cores := rfl
  groups g := by
    simp only [State.group, tabGetD_over]
    split
    · exact hf _ _
    · rfl
  threads := (RegsOnly.refl s).threads
  others _ _ := rfl

/-- A change of the registers of enabled members and of groups but for what `Group.rest` keeps. -/
theorem regsOnly_of_over {ks gs : List Nat} {v : Nat → Thread → Tab Word} {f : Nat → Group → Group}
    (hks : ∀ k ∈ ks, k ∈ s.enabled) (hf : ∀ g x, (f g x).rest = x.rest) :
    RegsOnly s { s with threads := tabOver s.threads ks fun k t => { t with v := v k t }
                        groups := tabOver s.groups gs f } where
  rest := rfl
  cores := rfl
  groups := (regsOnly_of_groups hf).groups
  threads k := by
    simp only [tabGet_over]
    cases tabGet s.threads k with
    | none => exact ⟨[], by simp⟩
    | some t =>
      by_cases hk : k ∈ ks
      · exact ⟨v k t, if_pos hk⟩
      · exact ⟨t.v, if_neg hk⟩
  others k hk := by
    simp only [tabGet_over]
    exact if_neg fun h => hk (hks k h)

theorem mem_enabled {k : Nat} : k ∈ s.enabled ↔ k ∈ s.issue.members ∧ (s.thread k).enabled = true := List.mem_filter

end

/-! ## Last uses -/

theorem groupUse_rest (live m : Word) (f : BitVec 8) (wide : Bool) (g : Group) : (groupUse live m f wide g).rest = g.rest := by
  unfold groupUse
  split
  · dsimp only
    split
    · rw [lastUse_rest, lastUse_rest]
    · rw [lastUse_rest]
  · rfl

theorem groupUse_fstat (live m : Word) (f : BitVec 8) (wide : Bool) (g : Group) :
    (groupUse live m f wide g).fstat = g.fstat := by
  unfold groupUse
  split
  · dsimp only
    split
    · rw [lastUse_fstat, lastUse_fstat]
    · rw [lastUse_fstat]
  · rfl

theorem reg_threadUse {v : Tab Word} {f : BitVec 8} {wide : Bool} {n : Nat} (hn : n ∉ freedRegs f wide) :
    tabGetD (threadUse v f wide) n 0 = tabGetD v n 0 := by
  unfold freedRegs vRegs at hn
  unfold threadUse
  split
  · rename_i h
    simp only [Bool.and_eq_true, decide_eq_true_eq] at h
    rw [if_pos h.1, if_pos h.2] at hn
    cases wide
    · rw [reg_drop, if_neg (by simpa using hn)]
    · simp only [if_true, List.mem_cons, List.not_mem_nil, or_false, not_or] at hn
      rw [dropReg, if_pos rfl, tabGetD_drop, if_neg hn.2, tabGetD_drop, if_neg hn.1]
  · rfl

section
variable (s : State) (f : BitVec 8) (wide : Bool)

theorem useFields_regsOnly : RegsOnly s (useFields s [(f, wide)]) :=
  regsOnly_of_over (fun _ hk => hk) fun _ _ => groupUse_rest ..

theorem useFields_fstat (g : Nat) : ((useFields s [(f, wide)]).group g).fstat = (s.group g).fstat := by
  simp only [State.group, useFields, tabGetD_over]
  split
  · exact groupUse_fstat ..
  · rfl

theorem useFields_reg (k : Nat) {n : Nat} (hn : n ∉ freedRegs f wide) :
    ((useFields s [(f, wide)]).thread k).reg n = (s.thread k).reg n := by
  simp only [State.thread, useFields, tabGetD_over]
  split
  · exact reg_threadUse hn
  · rfl

end

/-! ## A written destination -/

theorem reg_putReg_other {v : Tab Word} {d : BitVec 7} {wide : Bool} {x : DWord} {n : Nat} (hn : n ∉ dstRegs d 0 wide) :
    tabGetD (putReg v d.toNat wide x) n 0 = tabGetD v n 0 := by
  simp only [dstRegs, show ¬((0 : BitVec 1) = 1) by decide, if_false] at hn
  cases wide
  · rw [reg_put, if_neg (by simpa using hn)]
  · simp only [if_true, List.mem_cons, List.not_mem_nil, or_false, not_or] at hn
    rw [reg_putPair, if_neg hn.2, if_neg hn.1]

section
variable {s : State} {ks : List Nat} {d : BitVec 7} {w : BitVec 1} {wide : Bool} {val : Nat → Thread → DWord} {iv : Nat → Interval}

theorem putResult_regsOnly (hks : ∀ k ∈ ks, k ∈ s.enabled) : RegsOnly s (putResult s ks d w wide val iv) := by
  unfold putResult
  split
  · exact RegsOnly.refl s
  · exact regsOnly_of_over hks fun _ _ => groupWrite_rest ..

theorem putResult_fstat (g : Nat) : ((putResult s ks d w wide val iv).group g).fstat = (s.group g).fstat := by
  unfold putResult
  split
  · rfl
  · simp only [State.group, tabGetD_over]
    split
    · exact groupWrite_fstat ..
    · rfl

theorem putResult_reg_other (k : Nat) {n : Nat} (hn : n ∉ dstRegs d w wide) :
    ((putResult s ks d w wide val iv).thread k).reg n = (s.thread k).reg n := by
  unfold putResult
  split
  · rfl
  · rename_i hw
    obtain rfl : w = 0 := (bit_cases w).resolve_right hw
    simp only [State.thread, tabGetD_over]
    split
    · exact reg_putReg_other hn
    · rfl

theorem putResult_v {k : Nat} (hk : k ∈ ks) (ht : (tabGet s.threads k).isSome) :
    ((putResult s ks d 0 wide val iv).thread k).v = putReg (s.thread k).v d.toNat wide (val k (s.thread k)) := by
  unfold putResult
  rw [if_neg (by decide)]
  simp only [State.thread, tabGetD_over, hk, ht, and_self, if_true]

end

/-! ## The bundle falls through -/

section
variable {s u : State} {w : BitVec 1} {l : Nat → Option Latch}

theorem advanceAll_thread (w : Bool) {k : Nat} (h : u.issues k) :
    (advanceAll u w l).thread k = (u.thread k).advance u.now w (l k) := by
  obtain ⟨t, ht⟩ := Option.isSome_iff_exists.1 h.2
  simp only [State.thread, tabGetD, advanceAll_get, if_pos h.1, ht, Option.map_some, Option.getD_some]

/-- A field of a thread that no advance changes is the same. -/
theorem advanceAll_field {γ : Type} (p : Thread → γ) (hp : ∀ (t : Thread) n w l, p (t.advance n w l) = p t) (w : Bool) (k : Nat) :
    p ((advanceAll u w l).thread k) = p (u.thread k) := by
  simp only [State.thread, tabGetD, advanceAll_get]
  split
  · cases tabGet u.threads k with
    | none => rfl
    | some t => exact hp ..
  · rfl

theorem RegsOnly.advanceAll_gens (h : RegsOnly s u) (w : Bool) : SameGens s (advanceAll u w l) := fun k =>
  (advanceAll_field Thread.gen (fun _ _ _ _ => rfl) w k).trans (h.field Thread.gen (fun _ _ => rfl) k)

theorem RegsOnly.advanceAll_preds (h : RegsOnly s u) (w : Bool) : SamePreds s (advanceAll u w l) := fun k =>
  (advanceAll_field Thread.p (fun _ _ _ _ => rfl) w k).trans (h.field Thread.p (fun _ _ => rfl) k)

theorem RegsOnly.advanceAll_pc (h : RegsOnly s u) (w : Bool) {k : Nat} (hk : s.issues k) :
    ((advanceAll u w l).thread k).pc = (s.thread k).pc + 4 := by
  rw [advanceAll_thread w ((h.issues k).2 hk)]
  exact congrArg (· + 4) (h.field Thread.pc (fun _ _ => rfl) k)

theorem RegsOnly.advanceAll_others (h : RegsOnly s u) (w : Bool) {k : Nat} (hk : k ∉ s.issue.members) :
    tabGet (advanceAll u w l).threads k = tabGet s.threads k := by
  rw [advanceAll_get, h.issue, if_neg hk]
  exact h.others k fun he => hk (mem_enabled.1 he).1

theorem RegsOnly.advanceAll_completed {dst freed : List Nat} (h : RegsOnly s u) (w : Bool)
    (hr : ∀ k n, n ∉ dst → n ∉ freed → (u.thread k).reg n = (s.thread k).reg n) :
    Completed s (advanceAll u w l) dst freed where
  rest := (advanceAll_rest ..).trans h.rest
  cores c := (advanceAll_core ..).trans (by unfold State.core; rw [h.cores])
  groups g := by
    rw [State.group, advanceAll_groups]
    exact h.groups g
  others _ := h.advanceAll_others w
  pc _ := h.advanceAll_pc w
  threads k := (advanceAll_field Thread.rest (fun _ _ _ _ => rfl) w k).trans (h.field Thread.rest (fun _ _ => rfl) k)
  regs k _ n hd hf := (advanceAll_field (·.reg n) (fun _ _ _ _ => rfl) w k).trans (hr k n hd hf)

end

/-! ## Results of a bundle -/

section
variable {s u : State} {d : BitVec 7} {w : BitVec 1} {wide : Bool} {val : Nat → Thread → DWord} {iv : Interval} {freed : List Nat}

theorem giveResult_completed (h : RegsOnly s u)
    (hr : ∀ k n, n ∉ freed → (u.thread k).reg n = (s.thread k).reg n) :
    Completed s (giveResult u d w wide val iv) (dstRegs d w wide) freed :=
  (h.trans (putResult_regsOnly fun _ hk => hk)).advanceAll_completed (w = 1) fun k n hd hf =>
    (putResult_reg_other k hd).trans (hr k n hf)

theorem giveResult_gens (h : RegsOnly s u) : SameGens s (giveResult u d w wide val iv) :=
  (h.trans (putResult_regsOnly fun _ hk => hk)).advanceAll_gens _

theorem giveResult_preds (h : RegsOnly s u) : SamePreds s (giveResult u d w wide val iv) :=
  (h.trans (putResult_regsOnly fun _ hk => hk)).advanceAll_preds _

theorem giveResult_fstat (g : Nat) : ((giveResult u d w wide val iv).group g).fstat = (u.group g).fstat := by
  rw [State.group, giveResult, advanceAll_groups]
  exact putResult_fstat g

/-- The registers of an enabled member that receives its value. -/
theorem giveResult_v (h : RegsOnly s u) {k : Nat} (hk : s.issues k) (he : (s.thread k).enabled = true) :
    ((giveResult u d 0 wide val iv).thread k).v = putReg (u.thread k).v d.toNat wide (val k (u.thread k)) := by
  have hu := (h.issues k).2 hk
  exact (advanceAll_field Thread.v (fun _ _ _ _ => rfl) _ k).trans
    (putResult_v (mem_enabled.2 ⟨hu.1, (h.enabled_thread k).trans he⟩) hu.2)

theorem giveResult_latches (h : RegsOnly s u) : Latches s (giveResult u d w wide val iv) w fun k y =>
    y = if (s.thread k).enabled then val k (u.thread k) else 0 := by
  intro k hk hw hn
  have hp := h.trans (putResult_regsOnly (ks := u.enabled) (d := d) (w := w) (wide := wide) (val := val) (iv := fun _ => iv) fun _ hk => hk)
  have hrun := hp.field Thread.run (fun _ _ => rfl) k
  refine ⟨{ value := if (u.thread k).enabled then val k (u.thread k) else 0, iv := iv }, ?_, by simp only [h.enabled_thread]⟩
  rw [giveResult, advanceAll_thread _ ((hp.issues k).2 hk),
    advance_latch (by simpa [hrun] using hw) (by rw [hrun]; exact hn)]

/-- The 64-bit results of the bundle. -/
theorem giveResult_givesPair {x : Nat → DWord} (h : RegsOnly s u) (hx : ∀ k ∈ s.enabled, ∀ t, val k t = x k) :
    GivesPair s (giveResult u d w true val iv) d w x where
  value k hk he hw := by
    subst hw
    rw [Thread.pair, Thread.reg, Thread.reg, giveResult_v h hk he, reg_putPair, reg_putPair, if_pos rfl, if_neg (by omega),
      if_pos rfl, pair_halves, hx k (mem_enabled.2 ⟨hk.1, he⟩)]
  disabled k hk he := by
    have hp := h.trans (putResult_regsOnly (ks := u.enabled) (d := d) (w := w) (wide := true) (val := val)
      (iv := fun _ => iv) fun _ hk => hk)
    refine (advanceAll_field Thread.v (fun _ _ _ _ => rfl) _ k).trans ?_
    rw [State.thread, tabGetD, hp.others k fun hm => by simp [(mem_enabled.1 hm).2] at he]
    rfl
  latch k hk hw hn := by
    obtain ⟨l, hl, hv⟩ := giveResult_latches (d := d) (wide := true) (val := val) (iv := iv) h k hk hw hn
    refine ⟨l, hl, hv.trans ?_⟩
    cases he : (s.thread k).enabled
    · rfl
    · exact hx k (mem_enabled.2 ⟨hk.1, he⟩) _

end

end Sys2Proof.Machine
end

section
/-! SLXL (O36): the slots of tokens (R322), what the lanes of an SLXL meet, its trap (R337), and the addresses that it gives
(R323, R328, R339). -/

namespace Sys2Proof.Machine

/-! ## Slots (R322) -/

theorem slot_retrieval {r : Slab} (h : Slab.streaming r = false) (t : Nat) :
    Slab.slot r t = if t < 2 ^ Slab.capl r then some t else none := by
  simp only [Slab.slot, h, Bool.false_eq_true, if_false]

theorem slot_streaming {r : Slab} (h : Slab.streaming r = true) (t : Nat) :
    Slab.slot r t = some (if t < Slab.sink r then t else Slab.sink r + t % 2 ^ Slab.wl r) := by
  simp only [Slab.slot, h, if_true]

/-! ## What the lanes of an SLXL meet -/

/-- The lane's record could be read and holds: what it meets follows from its token. -/
def SlxlLane.ofToken : SlxlLane → Bool
  | .page .. | .descriptor .. => false
  | _ => true

/-- The lane's token has no slot. -/
def SlxlLane.outOfRange : SlxlLane → Bool
  | .range .. => true
  | _ => false

/-- What each enabled lane of an SLXL meets. -/
def slxlFound (s : State) (page : Bool) (a : BitVec 8) (n : BitVec 4) : List (Nat × SlxlLane) :=
  s.enabled.map fun k => (k, slxlLane s page n.toNat (fun t => (srcValue s t (s.thread t) false (codeOf a)).toNat) k)

theorem slxlAddress_ofToken (r : Slab) (page : Bool) (t : Nat) (recAt : DWord) :
    (slxlAddress r page t recAt).ofToken = true := by
  unfold slxlAddress
  split
  · rfl
  · split <;> rfl

theorem slxlAddress_outOfRange (r : Slab) (page : Bool) (t : Nat) (recAt : DWord) :
    (slxlAddress r page t recAt).outOfRange = (Slab.slot r t).isNone := by
  unfold slxlAddress
  split
  · rename_i h; rw [h]; rfl
  · rename_i h; rw [h]; split <;> rfl

/-- The address of a token with a slot and a base (R323). -/
theorem slxlAddress_eq {r : Slab} {t x b : Nat} (hs : Slab.slot r t = some x) (hb : Slab.baseFor r x = some b) (page : Bool)
    (recAt : DWord) : slxlAddress r page t recAt = .address (BitVec.ofNat 64 (b + Claim.slabOffset r page x)) := by
  simp only [slxlAddress, hs, hb]
  cases page <;> rfl

/-- A narrow source read as a number is the claim's token. -/
theorem srcValue_toNat (s : State) (a : BitVec 8) (k : Nat) :
    (srcValue s k (s.thread k) false (codeOf a)).toNat = (s.word a k).toNat := by
  rw [← srcValue_narrow]
  exact BitVec.toNat_setWidth_of_le (by decide)

/-- The lanes' records, through the kN that each names, can be read and hold. -/
def RecordsHold (s : State) (page : Bool) (n : BitVec 4) (addr : Nat → DWord) (r : Nat → Slab) : Prop :=
  ∀ k ∈ s.enabled, (s.blockOf (grpOf k)).kView (viewPos s k (s.thread k)) n.toNat = some (addr k) ∧
    readSlab s (s.asidOf (s.group (grpOf k)).blk) (addr k) = .ok (r k) ∧ Slab.bad (r k) = none ∧
    (page = true → Slab.paged (r k) = true)

section
variable {s : State} {page : Bool} {a : BitVec 8} {n : BitVec 4} {addr : Nat → DWord} {r : Nat → Slab}
  {found : List (Nat × SlxlLane)}

theorem slxlFound_eq (h : RecordsHold s page n addr r) :
    slxlFound s page a n = s.enabled.map fun k => (k, slxlAddress (r k) page (Claim.token s a k) (addr k)) := by
  refine List.map_congr_left fun k hk => ?_
  obtain ⟨hview, hread, hbad, hpaged⟩ := h k hk
  have hform : (page && !Slab.paged (r k)) = false := by
    cases page
    · rfl
    · simp [hpaged rfl]
  rw [State.blockOf] at hview
  simp only [slxlLane, hview, hread, hbad, hform, Bool.false_eq_true, if_false, srcValue_toNat]
  rfl

theorem slxlFound_ofToken (h : RecordsHold s page n addr r) : ∀ e ∈ slxlFound s page a n, e.2.ofToken = true := by
  rw [slxlFound_eq h]
  exact List.forall_mem_map.2 fun _ _ => slxlAddress_ofToken ..

/-- The lanes out of range are those whose token has no slot. -/
theorem slxlFound_outOfRange (h : RecordsHold s page n addr r) :
    ((slxlFound s page a n).filter (·.2.outOfRange)).map (·.1) =
      s.enabled.filter fun k => (Slab.slot (r k) (Claim.token s a k)).isNone := by
  rw [slxlFound_eq h, List.filter_map, List.map_map]
  simp only [Function.comp_def, slxlAddress_outOfRange, List.map_id']

/-! ## The trap of an SLXL (R337) -/

/-- The keys that a partial map picks are those that a test picks. -/
theorem map_fst_filterMap {α β : Type} {f : Nat × α → Option (Nat × β)} {p : Nat × α → Bool}
    (h : ∀ e, (f e).map (·.1) = if p e then some e.1 else none) (l : List (Nat × α)) :
    (l.filterMap f).map (·.1) = (l.filter p).map (·.1) := by
  rw [List.map_filterMap, funext h]
  induction l with
  | nil => rfl
  | cons e l ih => cases hp : p e <;> simp [hp, ih]

/-- Lanes with records that hold trap for their tokens alone: all of those without a slot. -/
theorem slxlTrap_tokens {m : Nat} (h : ∀ e ∈ found, e.2.ofToken = true) :
    ∃ info, slxlTrap s m found = if ((found.filter (·.2.outOfRange)).map (·.1)).isEmpty then none
      else some (bundleTrap s ((found.filter (·.2.outOfRange)).map (·.1)) 0x0041 true info) := by
  unfold slxlTrap
  dsimp only
  have noFault : ∀ {β : Type} {f : Nat × SlxlLane → Option β}, (∀ e, e.2.ofToken = true → f e = none) →
      found.filterMap f = [] := fun hf => List.filterMap_eq_nil_iff.2 fun e he => hf e (h e he)
  have ranges : ∀ {β : Type} {f : Nat × SlxlLane → Option (Nat × β)},
      (∀ e, (f e).map (·.1) = if e.2.outOfRange then some e.1 else none) →
      (found.filterMap f).map (·.1) = (found.filter (·.2.outOfRange)).map (·.1) := fun hf => map_fst_filterMap hf _
  rw [noFault, noFault]
  · simp only [List.find?_nil, List.isEmpty_nil, Bool.not_true, Bool.false_eq_true, if_false]
    rw [← List.isEmpty_map (f := fun x : Nat × DWord × List DWord => x.1), ranges]
    · cases ((found.filter (·.2.outOfRange)).map (·.1)).isEmpty with
      | true => exact ⟨fun _ => (0, []), rfl⟩
      | false => exact ⟨_, rfl⟩
    · rintro ⟨k, x⟩
      cases x <;> rfl
  · rintro ⟨k, x⟩ h
    cases x with
    | descriptor => cases h
    | _ => rfl
  · rintro ⟨k, x⟩ h
    cases x with
    | page => cases h
    | _ => rfl

end

/-! ## SLXL (R339) -/

theorem exec_slxlAs {f : (BitVec 7 → BitVec 1 → BitVec 8 → BitVec 4 → Instr) × Bool}
    (hf : f ∈ [(Instr.slxl, false), (Instr.slxlPg, true)]) (d : BitVec 7) (w : BitVec 1) (a : BitVec 8) (n : BitVec 4)
    (s : State) : exec (f.1 d w a n) s = execSlxlAs f.2 d w a n s := by
  simp only [List.mem_cons, List.not_mem_nil, or_false] at hf
  rcases hf with rfl | rfl <;> rfl

theorem find?_beq_of_mem {l : List Nat} {k : Nat} (h : k ∈ l) : l.find? (· == k) = some k := by
  obtain ⟨j, hj⟩ := Option.isSome_iff_exists.1 (List.find?_isSome (p := (· == k)) |>.2 ⟨k, h, beq_self_eq_true k⟩)
  exact hj.trans (congrArg some (eq_of_beq (List.find?_some (p := (· == k)) hj)))

/-- The value that an enabled lane of an SLXL receives. -/
def slxlValue (found : List (Nat × SlxlLane)) (k : Nat) : DWord :=
  match (found.find? fun e => e.1 == k).map (·.2) with
  | some (SlxlLane.address x) => x
  | _ => 0

section
variable {s : State} {page : Bool} {d : BitVec 7} {w : BitVec 1} {a : BitVec 8} {n : BitVec 4} {addr : Nat → DWord}
  {r : Nat → Slab}

theorem execSlxlAs_next (run : Runs s .attention) (u : NoBlk s) (l : NoLit s) (hd : DstOk s d w true) (ha : SrcOk s a false) :
    execSlxlAs page d w a n s = .next (match slxlTrap s n.toNat (slxlFound s page a n) with
      | some t => t
      | none =>
        if ((slxlFound s page a n).any fun e => e.2 = SlxlLane.locked) || acquiring s then s
        else giveResult (useFields (slxlReads s n.toNat) [(a, false)]) d w true
          (fun k _ => slxlValue (slxlFound s page a n) k) .full) :=
  onThreads_next run (.inl rfl) fun x hx => by
    simp only [List.mem_append] at hx
    rcases hx with (hx | hx) | hx
    · exact dstChecks_ok hd x hx
    · exact srcChecks_ok ha x hx
    · exact hintChecks_ok (.inr l) (.inr u) x hx

/-- Lanes whose tokens all have slots and bases receive their addresses. -/
theorem execSlxlAs_addresses (run : Runs s .attention) (u : NoBlk s) (l : NoLit s) (hd : DstOk s d w true) (ha : SrcOk s a false)
    (hacq : acquiring s = false) (h : RecordsHold s page n addr r) {slot base : Nat → Nat}
    (hslot : ∀ k ∈ s.enabled, Slab.slot (r k) (Claim.token s a k) = some (slot k) ∧
      Slab.baseFor (r k) (slot k) = some (base k)) :
    execSlxlAs page d w a n s = .next (giveResult (useFields (slxlReads s n.toNat) [(a, false)]) d w true
      (fun k _ => slxlValue (slxlFound s page a n) k) .full) ∧
    ∀ k ∈ s.enabled, slxlValue (slxlFound s page a n) k =
      BitVec.ofNat 64 (base k + Claim.slabOffset (r k) page (slot k)) := by
  have found : slxlFound s page a n = s.enabled.map fun k =>
      (k, .address (BitVec.ofNat 64 (base k + Claim.slabOffset (r k) page (slot k)))) := by
    rw [slxlFound_eq h]
    refine List.map_congr_left fun k hk => ?_
    rw [slxlAddress_eq (hslot k hk).1 (hslot k hk).2]
  have out : ((slxlFound s page a n).filter (·.2.outOfRange)).map (·.1) = [] := by
    rw [found, List.filter_map, List.map_map, List.map_eq_nil_iff, List.filter_eq_nil_iff]
    exact fun _ _ h => by cases h
  have locked : ((slxlFound s page a n).any fun e => e.2 = SlxlLane.locked) = false := by
    rw [found, List.any_map, List.any_eq_false]
    exact fun _ _ => by simp
  obtain ⟨info, ht⟩ := slxlTrap_tokens (s := s) (m := n.toNat) (slxlFound_ofToken (a := a) h)
  rw [out] at ht
  refine ⟨?_, fun k hk => ?_⟩
  · rw [execSlxlAs_next run u l hd ha, ht]
    simp only [List.isEmpty_nil, if_true, locked, hacq, Bool.or_self, Bool.false_eq_true, if_false]
  · rw [slxlValue, found, List.find?_map]
    simp only [Function.comp_def, find?_beq_of_mem hk, Option.map_some]

/-- Lanes whose token has no slot take the slab-range fault (R337). -/
theorem execSlxlAs_range (run : Runs s .attention) (u : NoBlk s) (l : NoLit s) (hd : DstOk s d w true) (ha : SrcOk s a false)
    (h : RecordsHold s page n addr r)
    (hout : (s.enabled.filter fun k => (Slab.slot (r k) (Claim.token s a k)).isNone) ≠ []) :
    ∃ info, execSlxlAs page d w a n s = .next (bundleTrap s
      (s.enabled.filter fun k => (Slab.slot (r k) (Claim.token s a k)).isNone) 0x0041 true info) := by
  obtain ⟨info, ht⟩ := slxlTrap_tokens (s := s) (m := n.toNat) (slxlFound_ofToken (a := a) h)
  rw [slxlFound_outOfRange h, if_neg (by simpa using hout)] at ht
  exact ⟨info, by rw [execSlxlAs_next run u l hd ha, ht]⟩

end

theorem slabSlots : Claims.SlabSlots := by
  refine ⟨fun r t => ⟨fun h ht => ?_, fun h ht => ?_, fun h ht => ?_, fun h ht => ?_⟩,
    fun s d w a n addr r run u l hd ha f hf h => ?_⟩
  · rw [slot_retrieval h, if_pos ht]
  · rw [slot_retrieval h, if_neg (Nat.not_lt.2 ht)]
  · rw [slot_streaming h, if_pos ht]
  · rw [slot_streaming h, if_neg (Nat.not_lt.2 ht)]
  · rw [exec_slxlAs hf]
    exact execSlxlAs_range run u l hd ha h

/-! ## Reads of records correct errors (R454) -/

/-- The threads of a state and the bundle that issues. -/
def State.bundle (s : State) : Tab Thread × Issue := (s.threads, s.issue)

theorem enabled_of_bundle {s t : State} (h : t.bundle = s.bundle) : t.enabled = s.enabled := by
  obtain ⟨ht, hi⟩ := Prod.mk.inj h
  unfold State.enabled State.members State.thread
  rw [ht, hi]

/-- A reading of the state that the marks of errors do not enter is the same after a write has settled them. -/
theorem clearMarks_keeps {γ : Type} (p : State → γ)
    (h : ∀ (s : State) a b c d, p { s with poison := a, found := b, weak := c, carried := d } = p s) (s : State)
    (rs : List (Nat × Nat)) : p (clearMarks s rs) = p s := by
  unfold clearMarks
  split
  · rfl
  · exact h ..

/-- A reading that neither memory, marks of errors nor the host's registers enter is the same after an event. -/
theorem sendEvent_keeps {γ : Type} (p : State → γ) (store : ∀ s pa n v, p (State.store s pa n v) = p s)
    (marks : ∀ (s : State) a b c d, p { s with poison := a, found := b, weak := c, carried := d } = p s)
    (host : ∀ (s : State) h, p { s with host := h } = p s) (s : State) (code die core : Nat) (p0 p1 p2 : DWord) :
    p (sendEvent s code die core p0 p1 p2) = p s := by
  unfold sendEvent
  dsimp only
  split
  · rw [host, clearMarks_keeps p marks, store]
  · exact host ..

theorem sendEvent_bundle (s : State) (code die core : Nat) (p0 p1 p2 : DWord) :
    (sendEvent s code die core p0 p1 p2).bundle = s.bundle :=
  sendEvent_keeps State.bundle (fun _ _ _ _ => rfl) (fun _ _ _ _ _ => rfl) (fun _ _ => rfl) ..

theorem corrected_bundle (s : State) (g : Nat) : (corrected s g).bundle = s.bundle := by
  unfold corrected
  dsimp only
  split <;> exact (sendEvent_bundle _ _ _ _ _ _ _ :)

theorem demand_bundle (s : State) (pa n : Nat) : (demand s pa n).bundle = s.bundle :=
  foldl_keeps State.bundle _ corrected_bundle _ _

theorem meetWalk_bundle (s : State) (asid : BitVec 6) (va : Nat) : (meetWalk s asid va).bundle = s.bundle := by
  unfold meetWalk
  split
  · rfl
  · exact foldl_keeps State.bundle _ (fun s a => demand_bundle s a 8) _ _

theorem meets_bundle (s : State) (asid : BitVec 6) (acc : Access) (ranges : List (DWord × Nat)) :
    (meets s asid acc ranges).bundle = s.bundle := by
  unfold meets
  split
  · rfl
  · refine foldl_keeps State.bundle _ (fun s p => ?_) _ _
    split
    · rw [demand_bundle, meetWalk_bundle]
    · exact meetWalk_bundle ..

theorem slxlReads_bundle (s : State) (n : Nat) : (slxlReads s n).bundle = s.bundle := by
  unfold slxlReads
  split
  · rfl
  · refine foldl_keeps State.bundle _ (fun s k => ?_) _ _
    dsimp only
    split
    · exact meets_bundle ..
    · rfl

theorem slabAddresses : Claims.SlabAddresses := by
  intro s d w a n addr r slot base run u l hd ha hacq f hf h
  have records : RecordsHold s f.2 n addr r := fun k hk => by
    obtain ⟨hview, hread, hbad, -, -, hpaged⟩ := h k hk
    exact ⟨hview, hread, hbad, hpaged⟩
  have slots : ∀ k ∈ s.enabled, Slab.slot (r k) (Claim.token s a k) = some (slot k) ∧
      Slab.baseFor (r k) (slot k) = some (base k) := fun k hk => by
    obtain ⟨-, -, -, hslot, hbase, -⟩ := h k hk
    exact ⟨hslot, hbase⟩
  obtain ⟨hexec, hvalue⟩ := execSlxlAs_addresses run u l hd ha hacq records slots
  have uses := useFields_regsOnly (slxlReads s n.toNat) a false
  refine ⟨_, (exec_slxlAs hf ..).trans hexec, ⟨fun g => ?_, giveResult_gens uses, giveResult_preds uses⟩,
    giveResult_completed uses fun k m hm => useFields_reg _ a false k hm, giveResult_givesPair uses fun k hk _ => ?_⟩
  · rw [giveResult_fstat, useFields_fstat]
  · exact hvalue k (enabled_of_bundle (slxlReads_bundle s n.toNat) ▸ hk)

end Sys2Proof.Machine
end

section
/-! Slab records that change (O36): SLAPP and SLGROW at their start (R325, R326, R338), and the relocation of a slab chunk by
chunk (R326 to R330). -/

namespace Sys2Proof.Machine

/-! ## Accesses where no error is marked -/

section
variable {s t : State} {asid : BitVec 6} {acc : Access} {va : DWord} {n v : Nat}

theorem meets_of_weak_nil (h : s.weak = []) (asid : BitVec 6) (acc : Access) (ranges : List (DWord × Nat)) :
    meets s asid acc ranges = s := by
  simp only [meets, h, List.isEmpty_nil, if_true]

theorem clearVirt_clean (hp : s.poison = []) (hw : s.weak = []) : clearVirt s asid va acc n = s := by
  simp only [clearVirt, hp, hw, List.isEmpty_nil, Bool.and_self, if_true]

/-- Two states that agree but for memory, and for what the bytes of memory had released. -/
structure SameButMem (s t : State) : Prop where
  poison : t.poison = s.poison
  weak : t.weak = s.weak
  blocks : t.blocks = s.blocks
  threads : t.threads = s.threads
  relocs : t.relocs = s.relocs

theorem SameButMem.trans {u : State} (h : SameButMem s t) (h' : SameButMem t u) : SameButMem s u :=
  ⟨h'.poison.trans h.poison, h'.weak.trans h.weak, h'.blocks.trans h.blocks, h'.threads.trans h.threads,
    h'.relocs.trans h.relocs⟩

theorem writeVirt_sameButMem (h : writeVirt s asid va acc n v = .ok t) : SameButMem s t := by
  have e := writeVirt_rest asid acc n h
  exact ⟨(congrArg State.poison e :), (congrArg State.weak e :), (congrArg State.blocks e :), (congrArg State.threads e :),
    (congrArg State.relocs e :)⟩

theorem writeMarked_clean (hp : s.poison = []) (hw : s.weak = []) (h : writeVirt s asid va acc n v = .ok t) :
    writeMarked s asid va acc n v = .ok t := by
  have same := writeVirt_sameButMem h
  rw [writeMarked, h]
  exact congrArg Except.ok (clearVirt_clean (same.poison.trans hp) (same.weak.trans hw))

theorem writeClean_clean (hp : s.poison = []) (hw : s.weak = []) (h : writeVirt s asid va acc n v = .ok t) :
    writeClean s asid va acc n v = .ok t := by
  simp only [writeClean, walksPoison, hp, List.isEmpty_nil, if_true, writeMarked_clean hp hw h]

end

/-! ## The Lectern receives a value (R176, R338) -/

theorem foldQueue_keeps (least : Nat) (es : List DqEntry) (x : Block) :
    (foldQueue least x es).lect = x.lect ∧ (foldQueue least x es).cmds = x.cmds := by
  induction es generalizing x with
  | nil => exact ⟨rfl, rfl⟩
  | cons e es ih =>
    rw [foldQueue]
    exact iteInduction (motive := fun y : Block => y.lect = x.lect ∧ y.cmds = x.cmds) (fun _ => ih _) fun _ => ⟨rfl, rfl⟩

theorem modBlock_id (s : State) (b : Nat) : s.modBlock b (fun x => x) = s := by
  unfold State.modBlock tabModify
  simp

theorem freeEntries_eq (s : State) (b : Nat) : ∃ f : Block → Block, freeEntries s b = s.modBlock b f ∧
    ∀ x, (f x).lect = x.lect ∧ (f x).cmds = x.cmds := by
  unfold freeEntries
  split
  · exact ⟨_, (modBlock_id s b).symm, fun _ => ⟨rfl, rfl⟩⟩
  · exact ⟨_, rfl, fun x => foldQueue_keeps _ _ x⟩

/-- The value of a command has gone to q(n), and the command is over; nothing but its block has changed. -/
structure ValueGiven (s t : State) (b n : Nat) (c : Cmd) (v : DWord) : Prop where
  value : tabGetD (t.block b).lect.q n 0 = v
  wait : (t.block b).lect.wait = .none
  cmds : (t.block b).cmds = Claim.cmdsBut s b c.pos
  rest : { t with blocks := [] } = { s with blocks := [] }

theorem modBlock_modBlock (s : State) (b : Nat) (f g : Block → Block) :
    (s.modBlock b f).modBlock b g = s.modBlock b fun x => g (f x) := by
  unfold State.modBlock tabModify
  rw [List.map_map]
  congr 2
  funext e
  by_cases h : e.1 = b <;> simp [h]

/-- The entry of a block that waits for q(n) takes its value; the Lectern's wait ends. -/
theorem writeEntry_eq (s : State) (b pos : Nat) (v : DWord) : ∃ f : Block → Block, writeEntry s b pos v = s.modBlock b f ∧
    ∀ x n e, x.dq[pos - x.dqBase]? = some e → e.wq = some (n, none) →
      tabGetD (f x).lect.q n 0 = v ∧ (f x).lect.wait = .none ∧ (f x).cmds = x.cmds := by
  unfold writeEntry
  extract_lets done
  obtain ⟨f, hf, keeps⟩ := freeEntries_eq (s.modBlock b done) b
  refine ⟨fun x => f (done x), hf.trans (modBlock_modBlock ..), fun x n e hq he => ?_⟩
  obtain ⟨hlect, hcmds⟩ := keeps (done x)
  obtain ⟨addr, taken, next, kind, wq, wa, wk, contrib, hb, flags⟩ := e
  subst he
  rw [hlect, hcmds]
  simp only [done, hq]
  exact ⟨(tabGetD_set ..).trans (if_pos rfl), trivial, trivial⟩

theorem finishValue_given {s : State} {b n : Nat} {c : Cmd} {e : DqEntry}
    (hq : (s.block b).dq[c.pos - (s.block b).dqBase]? = some e) (he : e.wq = some (n, none)) (v : DWord) :
    ∃ t, finishValue b c s v = .done t 0 ∧ ValueGiven s t b n c v := by
  have hb : (tabGet s.blocks b).isSome := by
    cases h : tabGet s.blocks b with
    | some x => rfl
    | none => simp [State.block, tabGetD, h] at hq
  obtain ⟨f, hf, given⟩ := writeEntry_eq (dropCmd s b c.pos) b c.pos v
  obtain ⟨hval, hwait, hcmds⟩ := given { s.block b with cmds := (s.block b).cmds.filter fun d => d.pos != c.pos } n e hq he
  have block : ((dropCmd s b c.pos).modBlock b f).block b =
      f { s.block b with cmds := (s.block b).cmds.filter fun d => d.pos != c.pos } := by
    rw [dropCmd, modBlock_modBlock, block_modBlock hb]
  refine ⟨_, rfl, ?_⟩
  rw [hf]
  exact ⟨block ▸ hval, block ▸ hwait, block ▸ hcmds, rfl⟩

/-! ## Commands that run at their start (R338) -/

theorem exec_syncCommandStart {s : State} {b : Nat} {c : Cmd} (h : syncReady s b = some c) :
    exec (.syncCommandStart b) s = .next (startCmd s b c) := by
  show execSyncCommandStart b s = _
  rw [execSyncCommandStart, h]

theorem startCmd_slapp {s : State} {b : Nat} {c : Cmd} (h : c.kind = .slapp) :
    startCmd s b c = settleStart s b c (runSlapp s b c (finishValue b c)) := by
  simp only [startCmd, h]

theorem startCmd_slgrow {s : State} {b : Nat} {c : Cmd} (h : c.kind = .slgrow) :
    startCmd s b c = settleStart s b c (runSlgrow s b c (finishValue b c)) := by
  simp only [startCmd, h]

theorem withRecord_ok {s : State} {b : Nat} {c : Cmd} {r : Slab} {body : Slab → Carry}
    (hr : readSlab s (s.asidOf b) c.slab = .ok r) (hb : Slab.bad r = none) :
    withRecord s b c body = (body r).meets (s.asidOf b) [(c.slab, 64)] := by
  simp only [withRecord, hr, hb]

theorem meets_done {s : State} (h : s.weak = []) (f : BitVec 6) (asid : BitVec 6) (ranges : List (DWord × Nat)) :
    (Carry.done s f).meets asid ranges = .done s f :=
  congrArg (Carry.done · f) (meets_of_weak_nil h asid .load ranges)

/-- A SLAPP or SLGROW at its start, with the entry that takes its value and its record; no error is marked. -/
structure SlabStart (s : State) (b n : Nat) (c : Cmd) (r : Slab) : Prop where
  ready : syncReady s b = some c
  entry : ∃ e : DqEntry, (s.block b).dq[c.pos - (s.block b).dqBase]? = some e ∧ e.wq = some (n, none)
  record : readSlab s (s.asidOf b) c.slab = .ok r
  valid : Slab.bad r = none
  weak : s.weak = []
  poison : s.poison = []

section
variable {s u : State} {b n : Nat} {c : Cmd} {r : Slab}

/-- From a state with the same blocks, the command ends by giving its value. -/
theorem SlabStart.finish (h : SlabStart s b n c r) (hb : u.blocks = s.blocks) (v : DWord) :
    ∃ t, finishValue b c u v = .done t 0 ∧ ValueGiven u t b n c v := by
  obtain ⟨e, hq, he⟩ := h.entry
  refine finishValue_given ?_ he v
  rw [State.block, hb]
  exact hq

theorem SlabStart.finish_meets (h : SlabStart s b n c r) (hb : u.blocks = s.blocks) (hw : u.weak = []) (v : DWord)
    (asid : BitVec 6) (ranges : List (DWord × Nat)) :
    (finishValue b c u v).meets asid ranges = finishValue b c u v := by
  obtain ⟨t, ht, given⟩ := h.finish hb v
  have weak : t.weak = u.weak := (congrArg State.weak given.rest :)
  rw [ht, meets_done (weak.trans hw)]

/-- A command whose run ends in a value, from a state with the same blocks and threads, gives that value. -/
theorem SlabStart.exec_value (h : SlabStart s b n c r) (hb : u.blocks = s.blocks) (ht : u.threads = s.threads) (hw : u.weak = [])
    {v : DWord} {asid : BitVec 6} {ranges : List (DWord × Nat)}
    (hrun : startCmd s b c = settleStart s b c ((finishValue b c u v).meets asid ranges)) :
    ∃ t, exec (.syncCommandStart b) s = .next t ∧
      (tabGetD (t.block b).lect.q n 0 = v ∧ (t.block b).lect.wait = .none ∧
        (t.block b).cmds = Claim.cmdsBut s b c.pos ∧ t.threads = s.threads) ∧ t.mem = u.mem ∧ t.relocs = u.relocs := by
  obtain ⟨t, hdone, given⟩ := h.finish hb v
  refine ⟨t, ?_, ⟨given.value, given.wait, given.cmds.trans ?_, (congrArg State.threads given.rest).trans ht⟩,
    (congrArg State.mem given.rest :), (congrArg State.relocs given.rest :)⟩
  · rw [exec_syncCommandStart h.ready, hrun, h.finish_meets hb hw, hdone]
    rfl
  · rw [Claim.cmdsBut, State.block, hb]
    rfl

/-! ## SLAPP (R338) -/

variable {finish : State → DWord → Carry}

theorem runSlapp_full (hr : readSlab s (s.asidOf b) c.slab = .ok r) (hb : Slab.bad r = none)
    (h : Slab.streaming r = false ∧ 2 ^ Slab.capl r < Slab.len r + c.d0.toNat) :
    runSlapp s b c finish = (finish s (-1)).meets (s.asidOf b) [(c.slab, 64)] := by
  rw [runSlapp, withRecord_ok hr hb]
  simp only [h, decide_true, Bool.not_false, Bool.and_self, if_true]

theorem runSlapp_append (hr : readSlab s (s.asidOf b) c.slab = .ok r) (hb : Slab.bad r = none)
    (h : ¬(Slab.streaming r = false ∧ 2 ^ Slab.capl r < Slab.len r + c.d0.toNat))
    (hw : writeSlab s (s.asidOf b) c.slab (putBits r 128 64 (Slab.len r + c.d0.toNat)) = .ok u) :
    runSlapp s b c finish = (finish u (BitVec.ofNat 64 (Slab.len r))).meets (s.asidOf b) [(c.slab, 64)] := by
  rw [runSlapp, withRecord_ok hr hb]
  simp only [Bool.and_eq_true, Bool.not_eq_true', decide_eq_true_eq, h, if_false, hw]

/-! ## SLGROW (R325, R326, R338) -/

/-- The record itself refuses to grow: it moves, streams, or has the greatest capacity. -/
def Slab.Refuses (r : Slab) : Prop := Slab.moving r = true ∨ Slab.streaming r = true ∨ Slab.capl r = 24

theorem growStatus_of_not_refuses (h : ¬Slab.Refuses r) (count size : Nat) : Claim.growStatus r count size =
    if count = 0 then 4 else if size < Slab.regionBytes r (Slab.capl r + 1) then 5 else 0 := by
  simp only [Slab.Refuses, not_or] at h
  obtain ⟨hm, hs, hc⟩ := h
  simp only [Claim.growStatus, hm, hs, hc, Bool.false_eq_true, if_false]

theorem not_refuses_of_growStatus {count size : Nat} (h : Claim.growStatus r count size = 0) : ¬Slab.Refuses r := by
  unfold Claim.growStatus at h
  split at h
  · cases h
  · rename_i moving
    split at h
    · cases h
    · rename_i streaming
      split at h
      · cases h
      · rename_i greatest
        rintro (href | href | href)
        · exact moving href
        · exact streaming href
        · exact greatest href

theorem runSlgrow_refuses (hr : readSlab s (s.asidOf b) c.slab = .ok r) (hb : Slab.bad r = none) (h : Slab.Refuses r)
    (count size : Nat) : runSlgrow s b c finish =
      (finish s (BitVec.ofNat 64 (Claim.growStatus r count size))).meets (s.asidOf b) [(c.slab, 64)] := by
  rw [runSlgrow, withRecord_ok hr hb]
  unfold Claim.growStatus
  by_cases hm : Slab.moving r = true
  · simp only [hm, if_true]
    rfl
  · by_cases hs : Slab.streaming r = true
    · simp only [hm, hs, if_true]
      rfl
    · have hc := (h.resolve_left hm).resolve_left hs
      simp only [hm, hs, hc, if_true]
      rfl

/-- A relocation joins those under way. -/
def startReloc (s : State) (b : Nat) (asid : BitVec 6) (record : DWord) : State :=
  { s with relocs := s.relocs ++ [{ core := coreOfB b, asid := asid, record := record, chunk := 0 }] }

/-- A record that does not refuse leaves the decision to the pool. -/
theorem runSlgrow_pool (hr : readSlab s (s.asidOf b) c.slab = .ok r) (hb : Slab.bad r = none) (href : ¬Slab.Refuses r)
    {count size : Nat} (hc : readClean s (s.asidOf b) c.d0 .load 4 = .ok count)
    (hsz : readClean s (s.asidOf b) (c.d0 + 8) .load 8 = .ok size) :
    (Claim.growStatus r count size ≠ 0 → runSlgrow s b c finish =
      (finish s (BitVec.ofNat 64 (Claim.growStatus r count size))).meets (s.asidOf b) [(c.slab, 64)]) ∧
    (Claim.growStatus r count size = 0 → ∀ region s1 s2,
      readClean s (s.asidOf b) (c.d0 + BitVec.ofNat 64 (16 + 8 * (count - 1))) .load 8 = .ok region →
      writeClean s (s.asidOf b) c.d0 .store 4 (count - 1) = .ok s1 →
      writeSlab s1 (s.asidOf b) c.slab (Slab.grown r region) = .ok s2 →
      ∃ ranges, runSlgrow s b c finish = ((finish (startReloc s2 b (s.asidOf b) c.slab) 0).meets (s.asidOf b) ranges).meets
        (s.asidOf b) [(c.slab, 64)]) := by
  rw [growStatus_of_not_refuses href, runSlgrow, withRecord_ok hr hb]
  simp only [Slab.Refuses, not_or] at href
  obtain ⟨hm, hs, hcap⟩ := href
  simp only [hm, hs, hcap, hc, hsz, Bool.false_eq_true, if_false]
  by_cases h0 : count = 0
  · simp only [h0, if_true]
    exact ⟨fun _ => rfl, nofun⟩
  · by_cases h5 : size < Slab.regionBytes r (Slab.capl r + 1)
    · simp only [h0, h5, if_true, if_false]
      exact ⟨fun _ => rfl, nofun⟩
    · simp only [h0, h5, if_false]
      refine ⟨nofun, fun _ region s1 s2 hreg h1 h2 => ?_⟩
      simp only [hreg, h1, h2]
      exact ⟨_, rfl⟩

/-- A status other than 0 is all that SLGROW gives. -/
theorem runSlgrow_status (hr : readSlab s (s.asidOf b) c.slab = .ok r) (hb : Slab.bad r = none) {count size : Nat}
    (hc : readClean s (s.asidOf b) c.d0 .load 4 = .ok count)
    (hsz : readClean s (s.asidOf b) (c.d0 + 8) .load 8 = .ok size) (h : Claim.growStatus r count size ≠ 0) :
    runSlgrow s b c finish =
      (finish s (BitVec.ofNat 64 (Claim.growStatus r count size))).meets (s.asidOf b) [(c.slab, 64)] := by
  by_cases href : Slab.Refuses r
  · exact runSlgrow_refuses hr hb href count size
  · exact (runSlgrow_pool hr hb href hc hsz).1 h

end

theorem slabUpdates : Claims.SlabUpdates := by
  intro s b d c e r ready hq he hr hb hw hp
  have start : SlabStart s b d c r := ⟨ready, ⟨e, hq, he⟩, hr, hb, hw, hp⟩
  refine ⟨fun hk => ⟨fun hfull => ?_, fun hroom s1 h1 => ?_⟩, fun hk st hst hstat => ?_,
    fun hk count size hc hsz => ⟨fun hst => ?_, fun hst region s1 s2 hreg h1 h2 => ?_⟩⟩
  · obtain ⟨t, ht, ends, hmem, -⟩ := start.exec_value rfl rfl hw
      ((startCmd_slapp hk).trans (congrArg _ (runSlapp_full hr hb hfull)))
    exact ⟨t, ht, ends, hmem⟩
  · have same := writeVirt_sameButMem h1
    obtain ⟨t, ht, ends, hmem, -⟩ := start.exec_value same.blocks same.threads (same.weak.trans hw)
      ((startCmd_slapp hk).trans (congrArg _ (runSlapp_append hr hb hroom (writeClean_clean hp hw h1))))
    exact ⟨t, ht, ends, hmem⟩
  · have href : Slab.Refuses r := by
      refine Classical.byContradiction fun href => ?_
      have h4 : Claim.growStatus r 0 0 = 4 := growStatus_of_not_refuses href 0 0
      rw [hstat] at h4
      subst h4
      exact absurd hst (by decide)
    have hrun := runSlgrow_refuses (finish := finishValue b c) hr hb href 0 0
    rw [hstat] at hrun
    exact start.exec_value rfl rfl hw ((startCmd_slgrow hk).trans (congrArg _ hrun))
  · exact start.exec_value rfl rfl hw ((startCmd_slgrow hk).trans (congrArg _ (runSlgrow_status hr hb hc hsz hst)))
  · have href : ¬Slab.Refuses r := not_refuses_of_growStatus hst
    have same1 := writeVirt_sameButMem h1
    have same := same1.trans (writeVirt_sameButMem h2)
    have hw2 : (startReloc s2 b (s.asidOf b) c.slab).weak = [] := same.weak.trans hw
    have hb2 : (startReloc s2 b (s.asidOf b) c.slab).blocks = s.blocks := same.blocks
    obtain ⟨ranges, hrun⟩ := (runSlgrow_pool (finish := finishValue b c) hr hb href hc hsz).2 hst region s1 s2 hreg
      (writeClean_clean hp hw h1) (writeClean_clean (same1.poison.trans hp) (same1.weak.trans hw) h2)
    rw [start.finish_meets hb2 hw2] at hrun
    obtain ⟨t, ht, ends, hmem, hrel⟩ := start.exec_value hb2 same.threads hw2 ((startCmd_slgrow hk).trans (congrArg _ hrun))
    exact ⟨t, ht, ends, hmem, hrel.trans (congrArg (· ++ _) same.relocs)⟩

/-! ## Relocation (R326 to R330) -/

theorem exec_reloc_of_runs {s : State} {n : Nat} {x : Reloc} (hx : s.relocs[n]? = some x) (hr : x.runs s = true) :
    exec (if x.retry then .slabMoveRetry n else .slabChunkMove n) s = .next (relocStep s n x) := by
  by_cases h : x.retry = true
  · rw [if_pos h]
    show execSlabMoveRetry n s = _
    simp only [execSlabMoveRetry, hx, h, hr, Bool.and_self, if_true]
  · rw [if_neg h]
    show execSlabChunkMove n s = _
    simp only [execSlabChunkMove, hx, h, hr, Bool.not_true, Bool.or_self, Bool.false_eq_true, if_false]

/-- SLAB_CHUNK_MOVE leaves a relocation that is retried, or whose die does not run. -/
theorem exec_slabChunkMove_idle {s : State} {n : Nat} {x : Reloc} (hx : s.relocs[n]? = some x)
    (h : x.retry = true ∨ x.runs s = false) : exec (.slabChunkMove n) s = .next s := by
  show execSlabChunkMove n s = _
  rcases h with h | h <;>
    simp only [execSlabChunkMove, hx, h, Bool.true_or, Bool.not_false, Bool.or_true, if_true]

/-- SLAB_MOVE_RETRY leaves a relocation that has met no fault, or whose die does not run. -/
theorem exec_slabMoveRetry_idle {s : State} {n : Nat} {x : Reloc} (hx : s.relocs[n]? = some x)
    (h : x.retry = false ∨ x.runs s = false) : exec (.slabMoveRetry n) s = .next s := by
  show execSlabMoveRetry n s = _
  rcases h with h | h <;>
    simp only [execSlabMoveRetry, hx, h, Bool.false_and, Bool.and_false, Bool.false_eq_true, if_false]

theorem exec_reloc_none {s : State} {n : Nat} (h : s.relocs[n]? = none) :
    exec (.slabChunkMove n) s = .next s ∧ exec (.slabMoveRetry n) s = .next s := by
  show execSlabChunkMove n s = _ ∧ execSlabMoveRetry n s = _
  simp only [execSlabChunkMove, execSlabMoveRetry, h, and_self]

section
variable {s s1 s2 : State} {n : Nat} {x : Reloc} {r : Slab}

/-- The copy of a chunk changes memory alone where no error is marked. -/
theorem movePieces_sameButMem {asid : BitVec 6} {l : List (DWord × DWord × Nat)} (hp : s.poison = []) (hw : s.weak = [])
    (h : movePieces asid l s = .ok s1) : SameButMem s s1 := by
  induction l generalizing s with
  | nil => cases h; exact ⟨rfl, rfl, rfl, rfl, rfl⟩
  | cons p l ih =>
    obtain ⟨o, m, len⟩ := p
    rw [movePieces] at h
    cases hread : readVirt s asid o .load len with
    | error e => rw [hread] at h; cases h
    | ok v =>
      rw [hread] at h
      cases hwrite : writeVirt s asid m .store len v with
      | error e => simp only [writeMarked, hwrite] at h; cases h
      | ok u =>
        have same := writeVirt_sameButMem hwrite
        have hpu := same.poison.trans hp
        have hwu := same.weak.trans hw
        have marks : copiedMarks s asid o m len = [] := by
          simp only [copiedMarks, hp, List.isEmpty_nil, if_true]
        simp only [writeMarked_clean hp hw hwrite, marks, meets_of_weak_nil hwu, List.eraseDups_nil, List.filter_nil,
          List.append_nil] at h
        have rest := ih (s := { u with order := { u.order with words := copiedReleases s asid o m len ++ u.order.words } })
          hpu hwu h
        exact same.trans ⟨rest.poison, rest.weak, rest.blocks, rest.threads, rest.relocs⟩

theorem relocStep_lock (hr : readVirt s x.asid x.record .load 64 = .ok r) (hl : x.locked = false)
    (h1 : writeRecordOf s x (putBits r 224 32 (64 * x.chunk)) = .ok s1) :
    relocStep s n x = setReloc s1 n (some { x with locked := true, retry := false }) := by
  simp only [relocStep, hr, hl, h1, Bool.not_false, if_true]

theorem relocStep_move (hr : readVirt s x.asid x.record .load 64 = .ok r) (hl : x.locked = true)
    (hmore : x.chunk + 1 < 2 ^ (Slab.ocapl r - 6)) (h1 : movePieces x.asid (chunkPieces r x.chunk) s = .ok s1)
    (h2 : writeRecordOf s1 x (putBits (putBits r 192 32 (64 * x.chunk + 64)) 224 32 noLock) = .ok s2) :
    relocStep s n x = setReloc s2 n (some { x with chunk := x.chunk + 1, locked := false, retry := false }) := by
  simp only [relocStep, hr, hl, h1, h2, decide_eq_false (Nat.not_le.2 hmore), Bool.not_true, Bool.false_eq_true, if_false]

theorem relocStep_last (hr : readVirt s x.asid x.record .load 64 = .ok r) (hl : x.locked = true)
    (hlast : 2 ^ (Slab.ocapl r - 6) ≤ x.chunk + 1) (h1 : movePieces x.asid (chunkPieces r x.chunk) s = .ok s1)
    (h2 : writeRecordOf s1 x (putBits (putBits (putBits r 192 32 (64 * x.chunk + 64)) 224 32 noLock) 273 1 0) = .ok s2) :
    relocStep s n x = sendEvent (setReloc s2 n none) 0x0008 (Config.dieOfCore x.core) (Config.coreInDie x.core) x.record
      (BitVec.ofNat 64 (Slab.oldBase r)) 0 := by
  simp only [relocStep, hr, hl, h1, h2, decide_eq_true hlast, Bool.not_true, Bool.false_eq_true, if_false, if_true]

theorem sendEvent_relocs (s : State) (code die core : Nat) (p0 p1 p2 : DWord) :
    (sendEvent s code die core p0 p1 p2).relocs = s.relocs :=
  sendEvent_keeps State.relocs (fun _ _ _ _ => rfl) (fun _ _ _ _ _ => rfl) (fun _ _ => rfl) ..

theorem setReloc_relocs {y : Reloc} (h : s1.relocs = s.relocs) : (setReloc s1 n (some y)).relocs = s.relocs.set n y := by
  rw [setReloc, h]

theorem relocFault_relocs (s : State) (n : Nat) (x : Reloc) (e : Nat) :
    (relocFault s n x e).relocs = s.relocs.set n { x with retry := true } := by
  unfold relocFault
  dsimp only
  split
  · rfl
  · exact setReloc_relocs (sendEvent_relocs ..)

theorem relocFault_mem (h : x.retry = true) (e : Nat) : (relocFault s n x e).mem = s.mem := by
  simp only [relocFault, h, if_true, setReloc]

end

theorem slabRelocation : Claims.SlabRelocation := by
  intro s n
  refine ⟨fun hx => ?_, fun x hx => ⟨fun hr => ?_, fun h => exec_slabChunkMove_idle hx (.inl h),
    fun h => exec_slabMoveRetry_idle hx (.inl h), fun hr hp hw r hread => ⟨fun s1 hl h1 => ?_,
      fun s1 s2 hl hmore h1 h2 => ?_, fun s1 s2 hl hlast h1 h2 => ?_⟩, fun hr a e hread => ?_⟩⟩
  · simpa using exec_reloc_none hx
  · simpa using ⟨exec_slabChunkMove_idle hx (.inr hr), exec_slabMoveRetry_idle hx (.inr hr)⟩
  · have same := writeVirt_sameButMem h1
    exact ⟨_, (exec_reloc_of_runs hx hr).trans (congrArg _ (relocStep_lock hread hl (writeMarked_clean hp hw h1))), rfl,
      same.threads, setReloc_relocs same.relocs⟩
  · have moved := movePieces_sameButMem hp hw h1
    have same := moved.trans (writeVirt_sameButMem h2)
    exact ⟨_, (exec_reloc_of_runs hx hr).trans (congrArg _ (relocStep_move hread hl hmore h1
      (writeMarked_clean (moved.poison.trans hp) (moved.weak.trans hw) h2))), rfl, same.threads,
      setReloc_relocs same.relocs⟩
  · have moved := movePieces_sameButMem hp hw h1
    have same := moved.trans (writeVirt_sameButMem h2)
    exact ⟨_, (exec_reloc_of_runs hx hr).trans (congrArg _ (relocStep_last hread hl hlast h1
      (writeMarked_clean (moved.poison.trans hp) (moved.weak.trans hw) h2))), rfl, congrArg (·.eraseIdx n) same.relocs⟩
  · have fault : relocStep s n x = relocFault s n x e := by
      simp only [relocStep, hread]
    exact ⟨_, (exec_reloc_of_runs hx hr).trans (congrArg _ fault), relocFault_relocs .., fun h => relocFault_mem h e⟩

/-- Settles O36: an SLXL's lanes follow from their records and tokens alone; a record's updates and the steps of a relocation
are what their runs write, and change nothing else where no error is marked. -/
theorem slabs : Obligations.Slabs := ⟨slabSlots, slabAddresses, slabUpdates, slabRelocation⟩

end Sys2Proof.Machine
end

section
/-! Online-softmax arithmetic (O37): the weight (R331), the merge of two states and of accumulators (R332), the final
normalisation (R333), and the words of a partial (R334). -/

namespace Sys2Proof.Machine

/-! ## Single-precision patterns -/

theorem f32_width : f32.width = 32 := rfl

theorem f32_ew_pos : 0 < f32.ew := by decide

/-- Decoding reads the low 32 bits. -/
theorem f32v_eq (x : Nat) : f32v x = f32.decode x := by
  have mag : f32.mag (x % 2 ^ 32) = f32.mag x := by
    unfold FFmt.mag
    exact Nat.mod_mod_of_dvd _ (Nat.pow_dvd_pow 2 (by decide))
  have negative : f32.negative (x % 2 ^ 32) = f32.negative x := by
    unfold FFmt.negative bitNat
    rw [f32_width]
    congr 1
    omega
  rw [f32v, decode_eq f32_ew_pos, decode_eq f32_ew_pos, mag, negative]

theorem f32r_lt (v : Fl) : f32r v < 2 ^ 32 := by
  have sign (neg : Bool) : f32.sign neg ≤ 2 ^ 31 := by cases neg <;> decide
  have top : f32.top * 2 ^ f32.fw = 0x7F800000 := by decide
  have maxFin : f32.maxFin = 0x7F7FFFFF := by decide
  cases v with
  | nan => decide
  | inf neg => cases neg <;> decide
  | fin neg m e =>
    have := sign neg
    simp only [f32r, FFmt.round, top, maxFin]
    split
    · split
      · omega
      · omega
    · omega

/-! ## The weight (R331) -/

theorem softWeight_eq (x m : Nat) : softWeight x m =
    if f32v m = .inf true then 0
    else if (f32v x).cmp (f32v m) = 0 then one32
    else if f32v m = .inf false ∨ f32v x = .inf true then 0
    else FunOp.run f32 .ex2 (f32Mul (f32r ((f32v x).add .rn (f32v m).neg)) 0x3FB8AA3B) := by
  unfold softWeight
  split
  · rename_i h; rw [h, if_pos rfl]
  · rename_i h; rw [if_neg h]

theorem softmaxWeight : Claims.SoftmaxWeight := by
  intro x m vx vm _ _ _
  simp only [softWeight_eq, f32Mul, f32v_eq]
  refine ⟨fun h => ?_, fun h h0 => ?_, fun h h0 hi => ?_, fun h h0 hm hx => ?_⟩
  · rw [if_pos h]
  · rw [if_neg h, if_pos h0]
    rfl
  · rw [if_neg h, if_neg h0, if_pos hi]
  · rw [if_neg h, if_neg h0, if_neg (not_or.2 ⟨hm, hx⟩)]
    rfl

/-! ## The greater of two values (R242) -/

theorem cmp_neg (x y : Fl) : y.cmp x = -x.cmp y := by
  cases x with
  | nan => cases y with
    | inf b => cases b <;> rfl
    | _ => rfl
  | inf a => cases y with
    | inf b => cases a <;> cases b <;> rfl
    | _ => cases a <;> rfl
  | fin a m e => cases y with
    | nan => rfl
    | inf b => cases b <;> rfl
    | fin b n d =>
      rw [cmp_fin (Int.min_le_right e d) (Int.min_le_left e d), cmp_fin (Int.min_le_left e d) (Int.min_le_right e d), ← Int.sign_neg, Int.neg_sub]

theorem cmp_self (x : Fl) : x.cmp x = 0 := by
  have := cmp_neg x x
  omega

/-- Neither operand is above the one picked. -/
theorem pick_greatest {x y : Fl} (hx : x.isNan = false) (hy : y.isNan = false) :
    (x.pick true y = x ∨ x.pick true y = y) ∧ x.cmp (x.pick true y) ≠ 1 ∧ y.cmp (x.pick true y) ≠ 1 := by
  simp only [Fl.pick, hx, hy, Bool.false_eq_true, if_false]
  by_cases h : x.below y = true
  · rw [if_neg (by simp [h])]
    refine ⟨.inr rfl, ?_, by simp [cmp_self]⟩
    rw [below_iff] at h
    omega
  · rw [if_pos (by simp [h])]
    refine ⟨.inl rfl, by simp [cmp_self], ?_⟩
    rw [below_iff, not_or] at h
    rw [cmp_neg x y]
    omega

/-! ## MERGE (R332) -/

theorem any_isNan_eq_true {l : List Nat} : (l.any fun x => (f32v x).isNan) = true ↔ ∃ y ∈ l, (f32.decode y).isNan = true := by
  simp only [List.any_eq_true, f32v_eq]

theorem any_isNan_eq_false {l : List Nat} : (l.any fun x => (f32v x).isNan) = false ↔ ∀ y ∈ l, (f32.decode y).isNan = false := by
  simp only [List.any_eq_false, f32v_eq, Bool.not_eq_true]

theorem softMerge_nan {m1 l1 m2 l2 : Nat} (h : ∃ y ∈ [m1, l1, m2, l2], (f32.decode y).isNan = true) :
    softMerge m1 l1 m2 l2 = ⟨nan32, nan32, nan32, nan32, fSmnan⟩ := by
  rw [softMerge, if_pos (any_isNan_eq_true.2 h)]

/-- The words of a merged state are words. -/
theorem softMerge_lt (m1 l1 m2 l2 : Nat) : (softMerge m1 l1 m2 l2).m < 2 ^ 32 ∧ (softMerge m1 l1 m2 l2).l < 2 ^ 32 := by
  unfold softMerge
  dsimp only
  split
  · decide
  · split
    · decide
    · exact ⟨f32r_lt _, f32r_lt _⟩

theorem mergeAcc_lt (r : Merged) (x y : Nat) : (mergeAcc r x y).1 < 2 ^ 32 := by
  unfold mergeAcc
  split
  · decide
  · exact f32r_lt _

theorem normalise_lt (a m l : Nat) : (normalise a m l).1 < 2 ^ 32 := by
  unfold normalise
  split
  · decide
  · split
    · decide
    · exact f32r_lt _

/-! ## The words of a partial (R334) -/

theorem wordAt_lt (x i : Nat) : wordAt x i < 2 ^ 32 := Nat.mod_lt _ (by decide)

theorem wordAt_ofWords {l : List Nat} (h : ∀ w ∈ l, w < 2 ^ 32) (i : Nat) : wordAt (ofWords l) i = l.getD i 0 := by
  induction l generalizing i with
  | nil => simp [ofWords, wordAt]
  | cons w l ih =>
    obtain ⟨hw, hl⟩ := List.forall_mem_cons.1 h
    have cons : ofWords (w :: l) = w + 2 ^ 32 * ofWords l := rfl
    cases i with
    | zero =>
      rw [wordAt, cons]
      simp only [Nat.mul_zero, Nat.pow_zero, Nat.div_one, List.getD_cons_zero]
      omega
    | succ i =>
      rw [List.getD_cons_succ, ← ih hl, wordAt, wordAt, cons, Nat.mul_succ, Nat.add_comm (32 * i), Nat.pow_add,
        ← Nat.div_div_eq_div_mul]
      congr 2
      omega

theorem getD_append_of_lt {l l' : List Nat} {n : Nat} (h : n < l.length) : (l ++ l').getD n 0 = l.getD n 0 := by
  rw [List.getD_eq_getElem?_getD, List.getElem?_append_left h, List.getD_eq_getElem?_getD]

theorem getD_append_of_ge {l l' : List Nat} {n : Nat} (h : l.length ≤ n) : (l ++ l').getD n 0 = l'.getD (n - l.length) 0 := by
  rw [List.getD_eq_getElem?_getD, List.getElem?_append_right h, List.getD_eq_getElem?_getD]

/-- An element of rows of equal length laid end to end. -/
theorem getD_flatten_rows (acc : Nat → Nat → Nat) {nr dv i d : Nat} (hi : i < nr) (hd : d < dv) :
    (((List.range nr).map fun i => (List.range dv).map (acc i)).flatten).getD (dv * i + d) 0 = acc i d := by
  have length (n : Nat) : (((List.range n).map fun i => (List.range dv).map (acc i)).flatten).length = dv * n := by
    induction n with
    | zero => rfl
    | succ n ih =>
      rw [List.range_succ, List.map_append, List.flatten_append, List.length_append, ih]
      simp [Nat.mul_succ]
  induction nr with
  | zero => omega
  | succ n ih =>
    rw [List.range_succ, List.map_append, List.flatten_append]
    have cut := length n
    by_cases hn : i < n
    · have inside : dv * i + d < dv * n := by
        have := Nat.mul_le_mul_left dv (show i + 1 ≤ n from hn)
        rw [Nat.mul_succ] at this
        omega
      rw [getD_append_of_lt (by rw [cut]; exact inside)]
      exact ih hn
    · obtain rfl : i = n := by omega
      rw [getD_append_of_ge (by rw [cut]; exact Nat.le_add_right ..), cut]
      simp [hd]

/-- The rows of a partial: m, l and dv accumulators each. -/
def rowsOf (nr dv : Nat) (m l : Nat → Nat) (acc : Nat → Nat → Nat) : List (Nat × Nat × List Nat) :=
  (List.range nr).map fun i => (m i, l i, (List.range dv).map (acc i))

/-- The words of a partial made from its rows. -/
theorem wordAt_ofRows {nr dv : Nat} {m l : Nat → Nat} {acc : Nat → Nat → Nat} (hm : ∀ i, m i < 2 ^ 32) (hl : ∀ i, l i < 2 ^ 32)
    (ha : ∀ i d, acc i d < 2 ^ 32) {i : Nat} (hi : i < nr) :
    wordAt (ofRows (rowsOf nr dv m l acc)) i = m i ∧ wordAt (ofRows (rowsOf nr dv m l acc)) (nr + i) = l i ∧
      ∀ d < dv, wordAt (ofRows (rowsOf nr dv m l acc)) (2 * nr + dv * i + d) = acc i d := by
  have words : ofRows (rowsOf nr dv m l acc) = ofWords ((List.range nr).map m ++ (List.range nr).map l ++
      ((List.range nr).map fun i => (List.range dv).map (acc i)).flatten) := by
    simp only [ofRows, rowsOf, List.map_map, Function.comp_def]
  have bound : ∀ w ∈ (List.range nr).map m ++ (List.range nr).map l ++
      ((List.range nr).map fun i => (List.range dv).map (acc i)).flatten, w < 2 ^ 32 := by
    simp only [List.mem_append, List.mem_flatten, List.mem_map]
    rintro w ((⟨i, -, rfl⟩ | ⟨i, -, rfl⟩) | ⟨_, ⟨i, -, rfl⟩, hw⟩)
    · exact hm i
    · exact hl i
    · obtain ⟨d, -, rfl⟩ := List.mem_map.1 hw
      exact ha i d
  simp only [words, wordAt_ofWords bound]
  refine ⟨?_, ?_, fun d hd => ?_⟩
  · rw [getD_append_of_lt (by simp; omega), getD_append_of_lt (by simpa using hi)]
    simp [hi]
  · rw [getD_append_of_lt (by simp; omega), getD_append_of_ge (by simp)]
    simp [hi]
  · rw [getD_append_of_ge (by simp; omega), ← getD_flatten_rows acc hi hd]
    congr 1
    simp
    omega

/-- The state that a row of two partials merges to. -/
def mergedRow (nr p q i : Nat) : Merged := softMerge (wordAt p i) (wordAt p (nr + i)) (wordAt q i) (wordAt q (nr + i))

theorem foldPartial_rows (nr dv p q : Nat) : (foldPartial nr dv p q).1 =
    ofRows (rowsOf nr dv (fun i => (mergedRow nr p q i).m) (fun i => (mergedRow nr p q i).l) fun i d =>
      (mergeAcc (mergedRow nr p q i) (wordAt p (2 * nr + dv * i + d)) (wordAt q (2 * nr + dv * i + d))).1) := by
  simp only [foldPartial, rowsOf, List.map_map, foldRow, partialRow, Function.comp_def, List.zipWith_map, List.zipWith_self]
  rfl

theorem wordAt_foldPartial {nr i : Nat} (dv p q : Nat) (hi : i < nr) :
    wordAt (foldPartial nr dv p q).1 i = (mergedRow nr p q i).m ∧
    wordAt (foldPartial nr dv p q).1 (nr + i) = (mergedRow nr p q i).l ∧
    ∀ d < dv, wordAt (foldPartial nr dv p q).1 (2 * nr + dv * i + d) =
      (mergeAcc (mergedRow nr p q i) (wordAt p (2 * nr + dv * i + d)) (wordAt q (2 * nr + dv * i + d))).1 := by
  rw [foldPartial_rows]
  exact wordAt_ofRows (fun _ => (softMerge_lt ..).1) (fun _ => (softMerge_lt ..).2) (fun _ _ => mergeAcc_lt ..) hi

theorem normPartial_rows (nr dv p : Nat) : (normPartial nr dv p).1 =
    ofRows (rowsOf nr dv (wordAt p) (fun i => wordAt p (nr + i)) fun i d =>
      (normalise (wordAt p (2 * nr + dv * i + d)) (wordAt p i) (wordAt p (nr + i))).1) := by
  simp only [normPartial, rowsOf, List.map_map, partialRow, Function.comp_def]

theorem wordAt_normPartial {nr i : Nat} (dv p : Nat) (hi : i < nr) :
    wordAt (normPartial nr dv p).1 i = wordAt p i ∧ wordAt (normPartial nr dv p).1 (nr + i) = wordAt p (nr + i) ∧
    ∀ d < dv, wordAt (normPartial nr dv p).1 (2 * nr + dv * i + d) =
      (normalise (wordAt p (2 * nr + dv * i + d)) (wordAt p i) (wordAt p (nr + i))).1 := by
  rw [normPartial_rows]
  exact wordAt_ofRows (fun _ => wordAt_lt ..) (fun _ => wordAt_lt ..) (fun _ _ => normalise_lt ..) hi

/-- Two states without NaN merge at the greater m (R332). -/
theorem softMerge_of_not_nan {m1 l1 m2 l2 : Nat} (h : ∀ y ∈ [m1, l1, m2, l2], (f32.decode y).isNan = false) :
    let m := f32r ((f32.decode m1).pick true (f32.decode m2))
    let a1 := softWeight m1 m
    let a2 := softWeight m2 m
    let l := f32Fma l1 a1 (f32Mul l2 a2)
    softMerge m1 l1 m2 l2 = if (f32.decode l).isNan then ⟨nan32, nan32, nan32, nan32, fSmnan ||| fInv⟩ else ⟨m, l, a1, a2, 0⟩ := by
  rw [softMerge, if_neg (Bool.not_eq_true _ ▸ any_isNan_eq_false.2 h)]
  simp only [f32v_eq]

/-- One product, then one fused step. -/
theorem f32Fma_eq (x a y b : Nat) : f32Fma x a (f32Mul y b) = f32r (((f32.decode x).mul (f32.decode a)).add .rn
    (f32.decode (f32r ((f32.decode y).mul (f32.decode b))))) := by
  simp only [f32Fma, f32Mul, f32v_eq]

theorem mergeAcc_of_flags_eq_zero {r : Merged} (h : r.flags = 0) (x y : Nat) :
    let z := f32Fma x r.a1 (f32Mul y r.a2)
    mergeAcc r x y = (z, if (f32.decode z).isNan ∧ ∀ w ∈ [x, y, r.a1, r.a2], (f32.decode w).isNan = false
      then fInv ||| fSmnan else 0) := by
  rw [mergeAcc, if_neg fun hn => hn h]
  simp only [Bool.and_eq_true, Bool.not_eq_true', any_isNan_eq_false]
  simp only [f32v_eq]

/-! ## Final normalisation (R333) -/

theorem normalise_nan {m l : Nat} (h : (f32.decode m).isNan = true ∨ (f32.decode l).isNan = true) (a : Nat) :
    normalise a m l = (nan32, fSmnan) := by
  rw [normalise, if_pos (by simpa [f32v_eq] using h)]

theorem normalise_empty {m l : Nat} (hm : (f32.decode m).isNan = false) (hl : (f32.decode l).isNan = false)
    (h : l % 2 ^ 31 = 0) (a : Nat) : normalise a m l = (0, fEmpty) := by
  rw [normalise, if_neg (by simp [f32v_eq, hm, hl]), if_pos h]

theorem normalise_quotient {m l : Nat} (hm : (f32.decode m).isNan = false) (hl : (f32.decode l).isNan = false)
    (h : l % 2 ^ 31 ≠ 0) (a : Nat) :
    let q := (f32.decode a).div (f32.decode l)
    normalise a m l = (f32r q, if q.isNan ∧ (f32.decode a).isNan = false then fInv ||| fSmnan else 0) := by
  rw [normalise, if_neg (by simp [f32v_eq, hm, hl]), if_neg h]
  simp only [f32v_eq, Bool.and_eq_true, Bool.not_eq_true']

theorem mergeValues : Claims.MergeValues := by
  refine ⟨fun m1 l1 m2 l2 _ _ _ _ => ⟨softMerge_nan, fun h => ?_⟩, fun r x y _ _ _ _ => ⟨fun h => ?_, fun h => ?_⟩,
    fun nr dv p q i hi => ?_, fun a m l _ _ hl => ⟨fun h => ?_, fun hm h => ?_, fun hm hln h0 h31 => ?_⟩⟩
  · obtain ⟨hpick, h1, h2⟩ := pick_greatest (h m1 (by simp)) (h m2 (by simp))
    have merged := softMerge_of_not_nan h
    simp only [f32Fma_eq] at merged
    exact ⟨_, by simpa using hpick, h1, h2, merged⟩
  · exact if_pos h
  · have merged := mergeAcc_of_flags_eq_zero h x y
    simp only [f32Fma_eq] at merged
    exact merged
  · exact wordAt_foldPartial dv p q hi
  · exact normalise_nan h a
  · rcases h with rfl | rfl
    · exact normalise_empty hm (by decide) (by decide) a
    · exact normalise_empty hm (by decide) (by decide) a
  · exact normalise_quotient hm hln (by omega) a

end Sys2Proof.Machine
end

section
/-! Online softmax steps (O37): the checks of OSM, OSM.mrg and OSMN, the flags of their lanes, and the pairs that they write (R340,
R341). -/

namespace Sys2Proof.Machine

/-! ## Flags of the enabled members (R62) -/

theorem flag_foldl_fstat (f : Nat → BitVec 6) (l : List Nat) (x : Group) :
    (l.foldl (fun x k => x.flag (f k)) x).fstat = l.foldl (fun y k => y ||| (f k).setWidth 32) x.fstat := by
  induction l generalizing x with
  | nil => rfl
  | cons k l ih => exact ih _

theorem flagMembers_regsOnly (s : State) (f : Nat → BitVec 6) : RegsOnly s (flagMembers s f) :=
  regsOnly_of_groups fun _ _ => foldl_keeps Group.rest (fun x k => x.flag (f k)) (fun _ _ => rfl) _ _

theorem flagMembers_flagged (s : State) (f : Nat → BitVec 6) : Claim.Flagged s (flagMembers s f) f := by
  intro g hg
  simp only [State.group, flagMembers, overGroups, tabGetD_over, hg, and_true]
  split
  · exact flag_foldl_fstat ..
  · rename_i hn
    have none : s.enabled.filter (fun k => grpOf k == g) = [] := by
      rw [List.filter_eq_nil_iff]
      intro k hk he
      exact hn (List.mem_eraseDups.2 (List.mem_map.2 ⟨k, hk, eq_of_beq he⟩))
    rw [none]
    rfl

section
variable {s u t : State} {f : Nat → BitVec 6}

/-- Flags are counted from a state whose groups have the same flags, and stay. -/
theorem flagged_of_fstat (h : Claim.Flagged u t f) (he : u.enabled = s.enabled)
    (hs : ∀ g, (tabGet s.groups g).isSome → (tabGet u.groups g).isSome ∧ (u.group g).fstat = (s.group g).fstat) {v : State}
    (hv : ∀ g, (v.group g).fstat = (t.group g).fstat) : Claim.Flagged s v f := by
  intro g hg
  obtain ⟨hsome, hfstat⟩ := hs g hg
  rw [hv, h g hsome, he, hfstat]

end

theorem useFields_groups (s : State) (f : BitVec 8) (wide : Bool) (g : Nat) (hg : (tabGet s.groups g).isSome) :
    (tabGet (useFields s [(f, wide)]).groups g).isSome ∧
      ((useFields s [(f, wide)]).group g).fstat = (s.group g).fstat := by
  refine ⟨?_, useFields_fstat ..⟩
  simp only [useFields, tabGet_over]
  split
  · rwa [Option.isSome_map]
  · exact hg

/-! ## A closed region (R410, R411) -/

section
variable {s u : State} {ks : List Nat}

theorem closeRegions_thread {k : Nat} (hk : k ∈ ks) (ht : (tabGet s.threads k).isSome) :
    (closeRegions s ks).thread k = { s.thread k with
      rentry := (s.thread k).pc, rcount := (s.thread k).rcount + 1, rgen := (s.thread k).gen, rspan := (s.thread k).span } := by
  simp only [State.thread, closeRegions, tabGetD_over, hk, ht, and_self, if_true]

/-- A field of a thread that belongs to no region entry is the same. -/
theorem closeRegions_field {γ : Type} (p : Thread → γ)
    (hp : ∀ (t : Thread) a b c d, p { t with rentry := a, rcount := b, rgen := c, rspan := d } = p t) (k : Nat) :
    p ((closeRegions s ks).thread k) = p (s.thread k) := by
  simp only [State.thread, closeRegions, tabGetD_over]
  split
  · exact hp ..
  · rfl

/-- Members that fall through and close their regions have passed an instruction that writes at most `dst`. -/
theorem RegsOnly.closed {dst : List Nat} (h : RegsOnly s u) (hr : ∀ k n, n ∉ dst → (u.thread k).reg n = (s.thread k).reg n) :
    Claim.Closed s (closeRegions (advanceNone u) s.members) dst where
  pc k hk := (closeRegions_field Thread.pc (fun _ _ _ _ _ => rfl) k).trans (h.advanceAll_pc false hk)
  region k hk := by
    have ht : (tabGet (advanceNone u).threads k).isSome := by
      rw [advanceNone, advanceAll_get, h.issue, if_pos hk.1, Option.isSome_map, h.isSome]
      exact hk.2
    rw [closeRegions_thread (show k ∈ s.members from hk.1) ht]
    exact ⟨h.advanceAll_pc false hk, congrArg (· + 1) ((advanceAll_field Thread.rcount (fun _ _ _ _ => rfl) false k).trans
      (h.field Thread.rcount (fun _ _ => rfl) k)), h.advanceAll_gens false k⟩
  regs k _ n hn := (closeRegions_field (·.reg n) (fun _ _ _ _ _ => rfl) k).trans
    ((advanceAll_field (·.reg n) (fun _ _ _ _ => rfl) false k).trans (hr k n hn))
  others k hk := by
    rw [closeRegions, tabGet_over, if_neg (show k ∉ s.members from hk)]
    exact h.advanceAll_others false hk
  gens k := (closeRegions_field Thread.gen (fun _ _ _ _ _ => rfl) k).trans (h.advanceAll_gens false k)
  preds k := (closeRegions_field Thread.p (fun _ _ _ _ _ => rfl) k).trans (h.advanceAll_preds false k)
  mem := by
    have rest : (closeRegions (advanceNone u) s.members).rest = s.rest := (advanceAll_rest u false _).trans h.rest
    exact ⟨(congrArg State.mem rest :), (congrArg State.blocks rest :)⟩

theorem closed_fstat (u : State) (ks : List Nat) (g : Nat) :
    ((closeRegions (advanceNone u) ks).group g).fstat = (u.group g).fstat := by
  show (tabGetD (advanceAll u false _).groups g {}).fstat = _
  rw [advanceAll_groups]
  rfl

end

/-! ## The checks of OSM and OSMN -/

theorem osmChecks_ok {s : State} {r m : BitVec 7} (wide : Bool) (h : Claim.StateRegs s r m (if wide then 2 else 1)) :
    ∀ y ∈ osmChecks s r m wide, y.2 = false := by
  obtain ⟨heven, hm, hmMax, hr, hrMax, hpair, hapart, hsrc, hdst, hres⟩ := h
  intro y hy
  simp only [osmChecks, List.mem_cons, List.not_mem_nil, or_false] at hy
  cases wide
  · simp only [Bool.false_eq_true, if_false] at hr hrMax hapart hres
    rcases hy with rfl | rfl | rfl | rfl
    · simp; omega
    · simp; omega
    · simp; omega
    · simp only [hsrc, hdst, Bool.or_self, Bool.false_or]
      exact hres
  · simp only [if_true] at hr hrMax hapart hres hpair
    have hodd := hpair trivial
    rcases hy with rfl | rfl | rfl | rfl
    · simp; omega
    · simp; omega
    · simp; omega
    · simp only [hsrc, hdst, Bool.or_self, Bool.false_or]
      exact hres

theorem residueChecked_clean {g : Nat} {s : State} {body : State → State} (h : tabGetD s.upsets g 0 = 0) :
    residueChecked g body s = body s := by
  simp only [residueChecked, h]

section
variable {s : State} {r m : BitVec 7} {x : BitVec 8} {wide : Bool}

/-- An instruction of either kind whose fields pass runs its body. -/
theorem onThreads_osm (w : Bool) {body : State → State} (run : Runs s .attention) (u : NoBlk s) (l : NoLit s)
    (hup : tabGetD s.upsets s.issue.core 0 = 0) (hregs : Claim.StateRegs s r m (if w then 2 else 1)) (hx : SrcOk s x wide) :
    onThreads s .attention .yes (osmChecks s r m w ++ srcChecks s x wide ++ hintChecks s.lead false false false)
      (residueChecked s.issue.core body) = .next (body s) := by
  rw [onThreads_next run (.inl rfl), residueChecked_clean hup]
  intro y hy
  simp only [List.mem_append] at hy
  rcases hy with (hy | hy) | hy
  · exact osmChecks_ok w hregs y hy
  · exact srcChecks_ok hx y hy
  · exact hintChecks_ok (.inr l) (.inr u) y hy

end

/-! ## OSM and OSM.mrg (R340) -/

/-- Two words as a pair, the first below. -/
def pairOf (lo hi : Nat) : DWord := BitVec.ofNat 32 hi ++ BitVec.ofNat 32 lo

theorem pairOf_low (lo hi : Nat) : (pairOf lo hi).setWidth 32 = BitVec.ofNat 32 lo := by
  unfold pairOf
  rw [BitVec.setWidth_append, dif_pos (by decide)]
  exact BitVec.setWidth_eq _

theorem pairOf_high (lo hi : Nat) : (pairOf lo hi >>> 32).setWidth 32 = BitVec.ofNat 32 hi := by
  apply BitVec.eq_of_toNat_eq
  have low : (BitVec.ofNat 32 lo).toNat < 2 ^ 32 := BitVec.isLt _
  rw [pairOf, BitVec.toNat_setWidth, BitVec.toNat_ushiftRight, BitVec.toNat_append, Nat.shiftRight_eq_div_pow,
    ← Nat.shiftLeft_add_eq_or_of_lt low, Nat.shiftLeft_eq]
  have high : (BitVec.ofNat 32 hi).toNat < 2 ^ 32 := BitVec.isLt _
  omega

/-- A register after a write of two words as a pair. -/
theorem reg_putPairOf (v : Tab Word) (n lo hi k : Nat) : tabGetD (putReg v n true (pairOf lo hi)) k 0 =
    if k = n + 1 then BitVec.ofNat 32 hi else if k = n then BitVec.ofNat 32 lo else tabGetD v k 0 := by
  rw [reg_putPair, pairOf_low, pairOf_high]

/-- The merge of a lane of OSM. -/
def osmStep (s : State) (wide : Bool) (other : DWord → Nat × Nat) (x : BitVec 8) (m : BitVec 7) (k : Nat) : Merged :=
  let o := other (srcValue s k (s.thread k) wide (codeOf x))
  softMerge ((s.thread k).reg m.toNat).toNat ((s.thread k).reg (m.toNat + 1)).toNat o.1 o.2

/-- The bundle of an OSM with its state pair written, and then its result pair. -/
def osmState (s : State) (wide : Bool) (other : DWord → Nat × Nat) (x : BitVec 8) (m : BitVec 7) : State :=
  let step := osmStep s wide other x m
  putResult (flagMembers (useFields s [(x, wide)]) fun k => (step k).flags) s.enabled m 0 true
    (fun k _ => pairOf (step k).m (step k).l) fun _ => .full

/-- The bundle of an OSM with both pairs written. -/
def osmWritten (s : State) (wide : Bool) (other : DWord → Nat × Nat) (r : BitVec 7) (x : BitVec 8) (m : BitVec 7) : State :=
  let step := osmStep s wide other x m
  putResult (osmState s wide other x m) s.enabled r 0 true (fun k _ => pairOf (step k).a1 (step k).a2) fun _ => .full

section
variable {s : State} {r m : BitVec 7} {x : BitVec 8} {wide : Bool} {other : DWord → Nat × Nat}

theorem execOsmAs_next (run : Runs s .attention) (u : NoBlk s) (l : NoLit s) (hup : tabGetD s.upsets s.issue.core 0 = 0)
    (hregs : Claim.StateRegs s r m 2) (hx : SrcOk s x wide) : execOsmAs wide other r x m s =
      .next (closeRegions (advanceNone (osmWritten s wide other r x m)) s.members) :=
  onThreads_osm true run u l hup hregs hx

theorem flagged_regsOnly (s : State) (x : BitVec 8) (wide : Bool) (f : Nat → BitVec 6) :
    RegsOnly s (flagMembers (useFields s [(x, wide)]) f) :=
  (useFields_regsOnly s x wide).trans (flagMembers_regsOnly ..)

theorem osmState_regsOnly (s : State) (wide : Bool) (other : DWord → Nat × Nat) (x : BitVec 8) (m : BitVec 7) :
    RegsOnly s (osmState s wide other x m) :=
  (flagged_regsOnly ..).trans (putResult_regsOnly fun _ hk => (flagged_regsOnly s x wide _).enabled.symm ▸ hk)

theorem osmWritten_regsOnly (s : State) (wide : Bool) (other : DWord → Nat × Nat) (r : BitVec 7) (x : BitVec 8) (m : BitVec 7) :
    RegsOnly s (osmWritten s wide other r x m) :=
  (osmState_regsOnly ..).trans (putResult_regsOnly fun _ hk => (osmState_regsOnly s wide other x m).enabled.symm ▸ hk)

theorem osmWritten_reg_other (k : Nat) {n : Nat}
    (hn : n ∉ [r.toNat, r.toNat + 1, m.toNat, m.toNat + 1] ++ freedRegs x wide) :
    ((osmWritten s wide other r x m).thread k).reg n = (s.thread k).reg n := by
  simp only [List.cons_append, List.nil_append, List.mem_cons, not_or] at hn
  obtain ⟨hr, hr1, hm, hm1, hfreed⟩ := hn
  have notIn {d : BitVec 7} (h : n ≠ d.toNat) (h1 : n ≠ d.toNat + 1) : n ∉ dstRegs d 0 true := by
    simp [dstRegs, h, h1]
  exact (putResult_reg_other k (notIn hr hr1)).trans ((putResult_reg_other k (notIn hm hm1)).trans (useFields_reg s x wide k hfreed))

theorem osmWritten_flagged : Claim.Flagged s (osmWritten s wide other r x m) fun k => (osmStep s wide other x m k).flags :=
  flagged_of_fstat (flagMembers_flagged (useFields s [(x, wide)]) _) (useFields_regsOnly ..).enabled (useFields_groups s x wide)
    fun g => (putResult_fstat g).trans (putResult_fstat g)

/-- The four registers that an enabled member of an OSM has written. -/
theorem osmWritten_regs (hregs : Claim.StateRegs s r m 2) {k : Nat} (hk : s.issues k) (he : (s.thread k).enabled = true) :
    let t := (osmWritten s wide other r x m).thread k
    let g := osmStep s wide other x m k
    t.reg m.toNat = BitVec.ofNat 32 g.m ∧ t.reg (m.toNat + 1) = BitVec.ofNat 32 g.l ∧
      t.reg r.toNat = BitVec.ofNat 32 g.a1 ∧ t.reg (r.toNat + 1) = BitVec.ofNat 32 g.a2 := by
  intro t g
  have hmem : k ∈ s.enabled := mem_enabled.2 ⟨hk.1, he⟩
  have stateV : ((osmState s wide other x m).thread k).v = putReg _ m.toNat true (pairOf g.m g.l) :=
    putResult_v hmem ((flagged_regsOnly s x wide _).isSome k ▸ hk.2)
  have resultV : t.v = putReg _ r.toNat true (pairOf g.a1 g.a2) :=
    putResult_v hmem ((osmState_regsOnly s wide other x m).isSome k ▸ hk.2)
  obtain ⟨heven, -, -, -, -, hpair, hapart, -⟩ := hregs
  have hodd := hpair rfl
  simp only [Thread.reg, resultV, stateV, reg_putPairOf]
  refine ⟨?_, ?_, ?_, ?_⟩
  · rw [if_neg (by omega), if_neg (by omega), if_neg (by omega), if_pos trivial]
  · rw [if_neg (by omega), if_neg (by omega), if_pos trivial]
  · rw [if_neg (by omega), if_pos trivial]
  · rw [if_pos trivial]

end

/-- Either form completes, with the merges of its lanes in their registers. -/
theorem execOsmAs_completes {s : State} {r m : BitVec 7} {x : BitVec 8} {wide : Bool} {other : DWord → Nat × Nat}
    (run : Runs s .attention) (u : NoBlk s) (l : NoLit s) (hup : tabGetD s.upsets s.issue.core 0 = 0)
    (hregs : Claim.StateRegs s r m 2) (hx : SrcOk s x wide) :
    ∃ t, execOsmAs wide other r x m s = .next t ∧
      Claim.Closed s t ([r.toNat, r.toNat + 1, m.toNat, m.toNat + 1] ++ freedRegs x wide) ∧
      Claim.Flagged s t (fun k => (osmStep s wide other x m k).flags) ∧
      ∀ k, s.issues k → (s.thread k).enabled = true → let g := osmStep s wide other x m k
        (t.thread k).reg m.toNat = BitVec.ofNat 32 g.m ∧ (t.thread k).reg (m.toNat + 1) = BitVec.ofNat 32 g.l ∧
        (t.thread k).reg r.toNat = BitVec.ofNat 32 g.a1 ∧ (t.thread k).reg (r.toNat + 1) = BitVec.ofNat 32 g.a2 := by
  refine ⟨_, execOsmAs_next run u l hup hregs hx, (osmWritten_regsOnly ..).closed fun k n hn => osmWritten_reg_other k hn,
    fun g hg => (closed_fstat ..).trans (osmWritten_flagged g hg), fun k hk he => ?_⟩
  have reg (n : Nat) : ((closeRegions (advanceNone (osmWritten s wide other r x m)) s.members).thread k).reg n =
      ((osmWritten s wide other r x m).thread k).reg n :=
    (closeRegions_field (·.reg n) (fun _ _ _ _ _ => rfl) k).trans (advanceAll_field (·.reg n) (fun _ _ _ _ => rfl) false k)
  simp only [reg]
  exact osmWritten_regs hregs hk he

/-! ## OSMN (R341) -/

/-- The normalised accumulator of a lane of OSMN, and its flags. -/
def osmnStep (s : State) (x : BitVec 8) (m : BitVec 7) (k : Nat) : Nat × BitVec 6 :=
  normalise (loHalf (srcValue s k (s.thread k) false (codeOf x))) ((s.thread k).reg m.toNat).toNat
    ((s.thread k).reg (m.toNat + 1)).toNat

theorem osmnStep_eq (s : State) (x : BitVec 8) (m : BitVec 7) (k : Nat) : osmnStep s x m k =
    normalise (s.word x k).toNat ((s.thread k).reg m.toNat).toNat ((s.thread k).reg (m.toNat + 1)).toNat := by
  rw [osmnStep, loHalf, srcValue_toNat, Nat.mod_eq_of_lt (BitVec.isLt _)]

theorem execOsmn_next {s : State} {r m : BitVec 7} {x : BitVec 8} (run : Runs s .attention) (u : NoBlk s) (l : NoLit s)
    (hup : tabGetD s.upsets s.issue.core 0 = 0) (hregs : Claim.StateRegs s r m 1) (hx : SrcOk s x false) :
    execOsmn r x m s = .next (giveResult (flagMembers (useFields s [(x, false)]) fun k => (osmnStep s x m k).2) r 0 false
      (fun k _ => BitVec.ofNat 64 (osmnStep s x m k).1) .full) :=
  onThreads_osm false run u l hup hregs hx

theorem softmaxSteps : Claims.SoftmaxSteps := by
  intro s r m x run u l hup reg
  refine ⟨fun hregs f hf hx => ?_, fun hregs hx => ?_⟩
  · simp only [List.mem_cons, List.not_mem_nil, or_false] at hf
    rcases hf with rfl | rfl
    · have done := execOsmAs_completes (other := fun v => (loHalf v, one32)) run u l hup hregs hx
      simp only [osmStep, srcValue_operand] at done
      exact done
    · have done := execOsmAs_completes (other := fun v => (loHalf v, hiHalf v)) run u l hup hregs hx
      simp only [osmStep, srcValue_operand] at done
      exact done
  · simp only [← osmnStep_eq, reg]
    have flagged := flagged_regsOnly s x false fun k => (osmnStep s x m k).2
    refine ⟨_, execOsmn_next run u l hup hregs hx, giveResult_gens flagged, giveResult_preds flagged,
      flagged_of_fstat (flagMembers_flagged (useFields s [(x, false)]) _) (useFields_regsOnly ..).enabled
        (useFields_groups s x false) giveResult_fstat,
      giveResult_completed flagged fun k n hn => useFields_reg s x false k hn, fun k hk he => ?_⟩
    rw [Thread.reg, giveResult_v flagged hk he, reg_put, if_pos rfl]
    exact BitVec.setWidth_ofNat_of_le (by decide) _

end Sys2Proof.Machine
end

section
/-! The Sideboard (O37): the fold of the next rank's partial (R332, R334), and what an SBMRG writes into its tile (R333, R342). -/

namespace Sys2Proof.Machine

/-! ## What the bookkeeping of a command leaves -/

theorem block_modBlock_eq (s : State) (b x : Nat) (f : Block → Block) :
    (s.modBlock b f).block x = if x = b ∧ (tabGet s.blocks x).isSome then f (s.block x) else s.block x := by
  simp only [State.block, tabGetD, State.modBlock_blocks, tabGet_modify]
  cases tabGet s.blocks x <;> by_cases hx : x = b <;> simp [hx]

theorem foldl_modGroup_eq (l : List Nat) (key : Nat → Nat) (f : Nat → Group → Group) (s : State) :
    ∃ gs, l.foldl (fun s n => s.modGroup (key n) (f n)) s = { s with groups := gs } := by
  induction l generalizing s with
  | nil => exact ⟨s.groups, rfl⟩
  | cons n l ih => exact ih _

/-- The flags of a command go to groups, and to its entry for those that will pass it. -/
theorem flagCounted_eq (s : State) (b : Nat) (c : Cmd) (f : BitVec 6) :
    ∃ (gs : Tab Group) (dq : Block → List DqEntry), flagCounted s b c f =
      ({ s with groups := gs } : State).modBlock b fun x => { x with dq := dq x } := by
  unfold flagCounted
  split
  · exact ⟨s.groups, Block.dq, (modBlock_id s b).symm⟩
  · obtain ⟨gs, h⟩ := foldl_modGroup_eq (c.counted ++ c.passed) (gKey (coreOfB b)) (fun _ g => if g.blk = b then g.flag f else g) s
    exact ⟨gs, _, congrArg (State.modBlock · b _) h⟩

/-- What commands move: memory, and of each block what it shares; and the clusters with their channels. -/
def State.stores (s : State) : Bytes × Tab Cluster × (Nat → Nat × Option Nat × Bytes) :=
  (s.mem, s.clusters, fun x => ((s.block x).gid, (s.block x).cluster, (s.block x).shared))

theorem modBlock_stores (s : State) (b : Nat) {f : Block → Block}
    (h : ∀ x, (f x).gid = x.gid ∧ (f x).cluster = x.cluster ∧ (f x).shared = x.shared) :
    (s.modBlock b f).stores = s.stores := by
  have blocks : (fun x => (((s.modBlock b f).block x).gid, ((s.modBlock b f).block x).cluster, ((s.modBlock b f).block x).shared)) =
      fun x => ((s.block x).gid, (s.block x).cluster, (s.block x).shared) := by
    funext x
    rw [block_modBlock_eq]
    split
    · obtain ⟨hg, hc, hs⟩ := h (s.block x)
      rw [hg, hc, hs]
    · rfl
  exact congrArg (fun y => (s.mem, s.clusters, y)) blocks

theorem flagCounted_stores (s : State) (b : Nat) (c : Cmd) (f : BitVec 6) : (flagCounted s b c f).stores = s.stores := by
  obtain ⟨gs, dq, h⟩ := flagCounted_eq s b c f
  exact h ▸ modBlock_stores _ _ fun _ => ⟨rfl, rfl, rfl⟩

theorem modCmd_stores (s : State) (b pos : Nat) (f : Cmd → Cmd) : (modCmd s b pos f).stores = s.stores :=
  modBlock_stores _ _ fun _ => ⟨rfl, rfl, rfl⟩

theorem dropCmd_stores (s : State) (b pos : Nat) : (dropCmd s b pos).stores = s.stores :=
  modBlock_stores _ _ fun _ => ⟨rfl, rfl, rfl⟩

theorem markMoved_stores (s : State) (b : Nat) (c : Cmd) (f : BitVec 6) : (markMoved s b c f).stores = s.stores := by
  rw [markMoved, flagCounted_stores, modCmd_stores]
  rfl

theorem uncount_stores (s : State) (b : Nat) (c : Cmd) : (uncount s b c).stores = s.stores := by
  refine foldl_keeps State.stores _ (fun s slot => ?_) _ _
  extract_lets x mine hat
  by_cases h : x.hats.any mine
  · rw [if_pos h]
    rfl
  · rw [if_neg h]
    rfl

theorem completeCmd_stores (s : State) (b : Nat) (c : Cmd) : (completeCmd s b c).stores = s.stores := by
  unfold completeCmd
  extract_lets cls log s1
  have logged : s1.stores = (uncount (dropCmd s b c.pos) b c).stores :=
    foldl_keeps State.stores log (fun _ _ => rfl) _ _
  rw [modBlock_stores _ _ (by exact fun _ => ⟨rfl, rfl, rfl⟩), logged, uncount_stores, dropCmd_stores]

theorem completeMoved_stores (s : State) (b : Nat) : (completeMoved s b).stores = s.stores :=
  foldl_keeps State.stores _ (fun s c => completeCmd_stores s b c) _ _

section
variable {s u : State} (h : u.stores = s.stores)
include h

theorem mem_of_stores : u.mem = s.mem := congrArg Prod.fst h

theorem clusters_of_stores : u.clusters = s.clusters := congrArg (fun x => x.2.1) h

theorem block_of_stores (b : Nat) : ((u.block b).gid, (u.block b).cluster, (u.block b).shared) =
    ((s.block b).gid, (s.block b).cluster, (s.block b).shared) := congrArg (fun x => x.2.2 b) h

theorem shared_of_stores (b : Nat) : (u.block b).shared = (s.block b).shared := congrArg (fun x => x.2.2) (block_of_stores h b)

theorem held_of_stores (b : Nat) (t : Tile) (o n : Nat) : Claim.held u b t o n = Claim.held s b t o n := by
  rw [Claim.held, Claim.held, mem_of_stores h, shared_of_stores h]

theorem onlyTile_of_stores {r : State} {b n : Nat} {t : Tile} (only : Claim.OnlyTile r s b t n) : Claim.OnlyTile r u b t n := by
  obtain ⟨mem, shared⟩ := only
  refine ⟨?_, ?_⟩
  · rw [mem_of_stores h]
    exact mem
  · intro x
    rw [shared_of_stores h]
    exact shared x

end

/-! ## Folds (R334) -/

theorem exec_sideboardFold (gid cl : Nat) (s : State) :
    exec (.sideboardFold gid cl) s = .next ((foldNext s gid cl).getD s) := by rfl

theorem setChannel_channel (s : State) (gid cl : Nat) (ch : Channel) :
    (tabGetD (setChannel s gid cl ch).clusters (clKey gid cl) {}).channel = some ch :=
  congrArg Cluster.channel ((tabGetD_set ..).trans (if_pos rfl))

/-- What a fold starts from: an open channel without a mismatch, and the SBSEND of the next rank; no word is poisoned. -/
structure FoldReady (s : State) (gid cl : Nat) (ch : Channel) (b : Nat) (c : Cmd) (nr dv : Nat) : Prop where
  channel : (tabGetD s.clusters (clKey gid cl) {}).channel = some ch
  match_ : ch.mismatch = none
  rank : s.blockOfRank gid cl ch.nextRank = some b
  send : openSend (s.block b) = some c
  shape : sideShape c.d0 = some (nr, dv)
  poison : s.poison = []

theorem tabGet_isSome_of_mem {α : Type} {t : Tab α} {k : Nat} {a : α} (h : (k, a) ∈ t) : (tabGet t k).isSome := by
  induction t with
  | nil => cases h
  | cons e t ih =>
    by_cases he : e.1 = k
    · simp [tabGet, he]
    · rcases List.mem_cons.1 h with rfl | h
      · exact absurd rfl he
      · simpa [tabGet, he] using ih h

section
variable {s : State} {gid cl b nr dv : Nat} {ch : Channel} {c : Cmd}

theorem FoldReady.block (h : FoldReady s gid cl ch b c nr dv) : (tabGet s.blocks b).isSome := by
  obtain ⟨e, he, hb⟩ := Option.map_eq_some_iff.1 h.rank
  subst hb
  exact tabGet_isSome_of_mem (List.mem_of_find?_eq_some he)

/-- The bytes of the partial that the SBSEND sends. -/
def sentBytes (s : State) (b : Nat) (c : Cmd) (nr dv : Nat) : Nat := readTile s b (s.tile b c.dst) 0 (partialBytes nr dv)

/-- The SBSEND of a fold has moved, and its channel stands at `ch`. -/
def foldMoved (s : State) (gid cl b : Nat) (c : Cmd) (ch : Channel) : State :=
  modCmd (setChannel s gid cl ch) b c.pos fun c => { c with state := .moved }

theorem FoldReady.foldNext_eq (h : FoldReady s gid cl ch b c nr dv) : foldNext s gid cl = some (
    if ch.nextRank = 0 then foldMoved s gid cl b c { ch with
      nextRank := 1, nr := nr, dv := dv, partialSum := bytesSet [] 0 (partialBytes nr dv) (sentBytes s b c nr dv) }
    else if (nr, dv) ≠ (ch.nr, ch.dv) then setChannel s gid cl { ch with mismatch := some ch.nextRank }
    else flagCounted (foldMoved s gid cl b c { ch with
        nextRank := ch.nextRank + 1
        partialSum := bytesSet [] 0 (partialBytes nr dv) (foldPartial nr dv ch.value (sentBytes s b c nr dv)).1 }) b c
      (foldPartial nr dv ch.value (sentBytes s b c nr dv)).2) := by
  have clean : tilePoison s b (s.tile b c.dst) 0 (partialBytes nr dv) = none := by
    simp only [tilePoison, poisonAt, h.poison, List.find?_nil, ite_self]
  unfold foldNext
  simp only [h.channel, h.match_, h.rank, h.send, h.shape, clean]
  by_cases h0 : ch.nextRank = 0
  · rw [if_pos h0, if_pos h0]
    rfl
  · rw [if_neg h0, if_neg h0]
    by_cases hs : (nr, dv) = (ch.nr, ch.dv)
    · rw [if_neg fun hn => hn hs, if_neg fun hn => hn hs]
      rfl
    · rw [if_pos hs, if_pos hs]

theorem foldMoved_cmds (h : (tabGet s.blocks b).isSome) (ch : Channel) :
    ((foldMoved s gid cl b c ch).block b).cmds = Claim.cmdsWith s b c.pos fun d => { d with state := .moved } :=
  congrArg Block.cmds (block_modBlock (s := setChannel s gid cl ch) h)

theorem foldMoved_channel (ch : Channel) :
    (tabGetD (foldMoved s gid cl b c ch).clusters (clKey gid cl) {}).channel = some ch := setChannel_channel ..

/-- The flags of a fold leave the commands. -/
theorem flagCounted_cmds (s : State) (b : Nat) (c : Cmd) (f : BitVec 6) (x : Nat) :
    ((flagCounted s b c f).block x).cmds = (s.block x).cmds := by
  obtain ⟨gs, dq, h⟩ := flagCounted_eq s b c f
  rw [h, block_modBlock_eq]
  split <;> rfl

theorem flagCounted_threads (s : State) (b : Nat) (c : Cmd) (f : BitVec 6) : (flagCounted s b c f).threads = s.threads := by
  obtain ⟨gs, dq, h⟩ := flagCounted_eq s b c f
  rw [h]
  rfl

end

theorem sideboardFolds : Claims.SideboardFolds := by
  intro s gid cl
  refine ⟨fun h => ?_, fun ch b c nr dv hch hmis hrank hsend hshape hp => ?_⟩
  · rw [exec_sideboardFold, h]
    rfl
  have ready : FoldReady s gid cl ch b c nr dv := ⟨hch, hmis, hrank, hsend, hshape, hp⟩
  rw [exec_sideboardFold, ready.foldNext_eq, Option.getD_some]
  refine ⟨_, rfl, ?_⟩
  by_cases h0 : ch.nextRank = 0
  · rw [if_pos h0]
    exact ⟨rfl, rfl, fun _ => ⟨foldMoved_cmds ready.block _, setChannel_channel ..⟩, fun h => absurd h0 h, fun h => absurd h0 h⟩
  · rw [if_neg h0]
    by_cases hs : (nr, dv) = (ch.nr, ch.dv)
    · obtain ⟨hnr, hdv⟩ := Prod.mk.inj hs
      rw [if_neg fun hn => hn hs]
      refine ⟨(mem_of_stores (flagCounted_stores ..) :), flagCounted_threads .., fun h => absurd h h0,
        fun _ _ _ => ⟨(flagCounted_cmds ..).trans (foldMoved_cmds ready.block _), ?_⟩,
        fun _ h => (h.elim (absurd hnr) (absurd hdv) :)⟩
      exact (congrArg (fun x => (tabGetD x (clKey gid cl) {}).channel) (clusters_of_stores (flagCounted_stores ..))).trans
        (foldMoved_channel _)
    · rw [if_pos hs]
      exact ⟨rfl, rfl, fun h => absurd h h0, fun _ hnr hdv => absurd (Prod.ext hnr hdv) hs,
        fun _ _ => ⟨rfl, setChannel_channel ..⟩⟩

/-! ## Tiles -/

/-- Bytes within those written read as their part of the value. -/
theorem bytesAt_bytesSet_within {m : Bytes} (a n v o k : Nat) (h : bytesWf m = true) (hk : o + k ≤ n) :
    bytesAt (bytesSet m a n v) (a + o) k = v / 256 ^ o % 256 ^ k := by
  refine bytesAt_of k fun i hi => ?_
  rw [Nat.add_assoc, byteAt_bytesSet_inside n a v (o + i) h (by omega), Nat.div_div_eq_div_mul, Nat.pow_add]

theorem vaultAddr_add (core x o : Nat) : vaultAddr core (x + o) = vaultAddr core x + o := (Nat.add_assoc ..).symm

theorem writeTile_vault {s : State} {t : Tile} (b n v : Nat) (hv : t.vault = true) (hp : s.poison = []) (hw : s.weak = []) :
    writeTile s b t 0 n v = s.store (vaultAddr (coreOfB b) t.start) n v := by
  simp only [writeTile, if_pos hv, Nat.add_zero]
  exact clearPoison_clean _ _ hp hw

theorem writeTile_shared {s : State} {t : Tile} (b n v : Nat) (hv : t.vault = false) :
    writeTile s b t 0 n v = s.storeShared b t.start n v := by
  simp only [writeTile, hv, Bool.false_eq_true, if_false, Nat.add_zero]

section
variable {s : State} {b : Nat}

theorem storeShared_block (a n v : Nat) (h : (tabGet s.blocks b).isSome) : (s.storeShared b a n v).block b =
    { s.block b with shared := bytesSet (s.block b).shared a n v } :=
  block_modBlock (s := s.written (sharedLoc s b a) n) h

theorem storeShared_block_ne (a n v : Nat) {x : Nat} (h : x ≠ b) : (s.storeShared b a n v).block x = s.block x :=
  (block_modBlock_eq (s.written (sharedLoc s b a) n) b x _).trans (if_neg fun e => h e.1)

/-- The first n bytes of a tile after they have been written. -/
theorem held_writeTile (hs : Claim.Sound s b) (t : Tile) (n v : Nat) {o k : Nat} (hk : o + k ≤ n) :
    Claim.held (writeTile s b t 0 n v) b t o k = v / 256 ^ o % 256 ^ k := by
  obtain ⟨⟨mem, shared⟩, ⟨poison, weak, -⟩, block⟩ := hs
  by_cases hv : t.vault = true
  · rw [writeTile_vault b n v hv poison weak, Claim.held, if_pos hv]
    rw [vaultAddr_add]
    exact bytesAt_bytesSet_within (vaultAddr (coreOfB b) t.start) n v o k mem hk
  · rw [writeTile_shared b n v (Bool.eq_false_iff.2 hv), Claim.held, if_neg hv, storeShared_block _ _ _ block]
    exact bytesAt_bytesSet_within t.start n v o k (shared b) hk

/-- Writing the first n bytes of a tile changes no others. -/
theorem onlyTile_writeTile (hs : Claim.Sound s b) (t : Tile) (n v : Nat) : Claim.OnlyTile s (writeTile s b t 0 n v) b t n := by
  obtain ⟨⟨mem, shared⟩, ⟨poison, weak, -⟩, block⟩ := hs
  by_cases hv : t.vault = true
  · rw [writeTile_vault b n v hv poison weak]
    exact ⟨fun a h => byteAt_bytesSet_outside n _ v a mem (h hv), fun _ _ _ => rfl⟩
  · rw [writeTile_shared b n v (Bool.eq_false_iff.2 hv)]
    refine ⟨fun _ _ => rfl, fun x a h => ?_⟩
    by_cases hx : x = b
    · subst hx
      rw [storeShared_block _ _ _ block]
      exact byteAt_bytesSet_outside n _ v a (shared x) (h (Bool.eq_false_iff.2 hv) rfl)
    · rw [storeShared_block_ne _ _ _ hx]

theorem writeTile_place (hs : Claim.Sound s b) (t : Tile) (n v : Nat) :
    ((writeTile s b t 0 n v).block b).gid = (s.block b).gid ∧
      ((writeTile s b t 0 n v).block b).cluster = (s.block b).cluster := by
  obtain ⟨-, ⟨poison, weak, -⟩, block⟩ := hs
  by_cases hv : t.vault = true
  · rw [writeTile_vault b n v hv poison weak]
    exact ⟨rfl, rfl⟩
  · rw [writeTile_shared b n v (Bool.eq_false_iff.2 hv), storeShared_block _ _ _ block]
    exact ⟨rfl, rfl⟩

end

/-! ## The merged partial (R333, R342) -/

/-- What SBMRG writes into its tile. -/
def mergedPartial (c : Cmd) (ch : Channel) : Nat × BitVec 6 :=
  if c.flag then normPartial ch.nr ch.dv ch.value else (ch.value, 0)

theorem wordAt_mergedPartial (c : Cmd) (ch : Channel) {i : Nat} (hi : i < ch.nr) :
    wordAt (mergedPartial c ch).1 i = wordAt ch.value i ∧ wordAt (mergedPartial c ch).1 (ch.nr + i) = wordAt ch.value (ch.nr + i) ∧
    ∀ d < ch.dv, let acc := wordAt ch.value (2 * ch.nr + ch.dv * i + d)
      wordAt (mergedPartial c ch).1 (2 * ch.nr + ch.dv * i + d) =
        if c.flag then (normalise acc (wordAt ch.value i) (wordAt ch.value (ch.nr + i))).1 else acc := by
  unfold mergedPartial
  by_cases hf : c.flag = true
  · simp only [if_pos hf]
    exact wordAt_normPartial ch.dv ch.value hi
  · simp [hf]

/-- A word of a number, by its bytes. -/
theorem wordAt_eq_bytes (x i : Nat) : x / 256 ^ (4 * i) % 256 ^ 4 = wordAt x i := by
  rw [wordAt, show (256 : Nat) = 2 ^ 8 from rfl, ← Nat.pow_mul, ← Nat.pow_mul, ← Nat.mul_assoc]

/-- An accumulator's word is one of its partial. -/
theorem accWord_lt {nr dv i d : Nat} (hi : i < nr) (hd : d < dv) : 2 * nr + dv * i + d < 2 * nr + nr * dv := by
  have := Nat.mul_le_mul_left dv (Nat.succ_le_of_lt hi)
  rw [Nat.mul_succ, Nat.mul_comm dv nr] at this
  omega

/-- A word of the first bytes of a tile after they have been written. -/
theorem held_writeTile_word {s : State} {b : Nat} (hs : Claim.Sound s b) (t : Tile) (nr dv v : Nat) {i : Nat}
    (hi : i < 2 * nr + nr * dv) :
    Claim.held (writeTile s b t 0 (partialBytes nr dv) v) b t (4 * i) 4 = wordAt v i := by
  have inside : 4 * i + 4 ≤ partialBytes nr dv := by
    rw [partialBytes, Nat.mul_assoc]
    omega
  rw [held_writeTile hs t _ v inside, wordAt_eq_bytes]

/-- SBMRG has written its tile, and the channel is ready for the next round. -/
def mergeWritten (s : State) (b : Nat) (c : Cmd) (ch : Channel) : State :=
  setChannel (writeTile s b (s.tile b c.dst) 0 (partialBytes ch.nr ch.dv) (mergedPartial c ch).1) (s.block b).gid
    ((s.block b).cluster.getD 0) { round := ch.round + 1 }

section
variable {s : State} {b : Nat} {c : Cmd} {ch : Channel}

/-- SBMRG once its round is folded (R334). -/
theorem runSbmrg_folded (hch : (clusterOf s b).channel = some ch) (hmis : ch.mismatch = none)
    (hshape : sideShape c.d0 = some (ch.nr, ch.dv)) (hsize : (s.gridOf b).launch.clSize ≤ ch.nextRank) :
    runSbmrg s b c = .done (mergeWritten s b c ch) (mergedPartial c ch).2 := by
  unfold runSbmrg
  simp only [hch, hshape, hmis, if_pos hsize, ne_eq, not_true_eq_false, if_false]
  rfl

theorem exec_copyCommandComplete {s1 : State} {f : BitVec 6} (hnext : nextMove s b = some c) (hkind : c.kind = .sbmrg)
    (hrun : runSbmrg s b c = .done s1 f) :
    exec (.copyCommandComplete b) s = .next (completeMoved (markMoved s1 b c f) b) := by
  have carry : carryCmd s b c = .done s1 f := by
    unfold carryCmd
    rw [hkind]
    exact hrun
  change execCopyCommandComplete b s = _
  unfold execCopyCommandComplete
  simp only [hnext, hkind, carry]
  rfl

/-- The channel of a block's cluster. -/
theorem clusterOf_channel {s u : State} {b : Nat} {ch : Channel} (h : (clusterOf s b).channel = some ch)
    (hgid : (u.block b).gid = (s.block b).gid) (hcluster : (u.block b).cluster = (s.block b).cluster) :
    clusterOf u b = tabGetD u.clusters (clKey (s.block b).gid ((s.block b).cluster.getD 0)) {} := by
  simp only [clusterOf] at h ⊢
  rw [hgid, hcluster]
  cases hc : (s.block b).cluster with
  | none => simp [hc] at h
  | some cl => rfl

end

theorem sideboardResults : Claims.SideboardResults := by
  intro s b c ch sound hnext hkind hch hmis hshape hsize tile word
  have run := exec_copyCommandComplete hnext hkind (runSbmrg_folded hch hmis hshape hsize)
  have stores := (completeMoved_stores _ b).trans (markMoved_stores (mergeWritten s b c ch) b c (mergedPartial c ch).2)
  have words : ∀ i < 2 * ch.nr + ch.nr * ch.dv,
      Claim.held (mergeWritten s b c ch) b tile (4 * i) 4 = wordAt (mergedPartial c ch).1 i :=
    fun i hi => held_writeTile_word sound tile ch.nr ch.dv _ hi
  obtain ⟨mem, shared⟩ := onlyTile_writeTile sound tile (partialBytes ch.nr ch.dv) (mergedPartial c ch).1
  obtain ⟨gid, cluster⟩ := writeTile_place sound tile (partialBytes ch.nr ch.dv) (mergedPartial c ch).1
  refine ⟨_, run, fun i hi => ?_, fun i hi d hd => ?_, onlyTile_of_stores stores ⟨mem, shared⟩, ?_⟩
  · rw [held_of_stores stores, words i (by omega)]
    by_cases hm : i < ch.nr
    · exact (wordAt_mergedPartial c ch hm).1
    · have := (wordAt_mergedPartial c ch (i := i - ch.nr) (by omega)).2.1
      rwa [show ch.nr + (i - ch.nr) = i by omega] at this
  · rw [held_of_stores stores, show 8 * ch.nr + 4 * (ch.dv * i + d) = 4 * (2 * ch.nr + ch.dv * i + d) by omega,
      words _ (accWord_lt hi hd)]
    exact (wordAt_mergedPartial c ch hi).2.2 d hd
  · have place := block_of_stores stores b
    rw [clusterOf_channel hch ((congrArg Prod.fst place).trans gid) ((congrArg (fun x => x.2.1) place).trans cluster),
      clusters_of_stores stores]
    exact setChannel_channel ..

/-- Settles O37: the weight, merges and normalisation by the arithmetic of FP32 patterns; the steps of a lane by what each
leaves to the next; and the Sideboard's folds and results, whose bookkeeping leaves what they store. -/
theorem softmaxAndSideboard : Obligations.SoftmaxAndSideboard :=
  ⟨softmaxWeight, mergeValues, softmaxSteps, sideboardFolds, sideboardResults⟩

end Sys2Proof.Machine
end
